-- ==== Sys2Proof/Word.lean ====
section
/-! DEFINITION. Words, and the plain types that operands of commands are written with. -/

namespace Sys2Proof

/-- One byte. -/
abbrev Byte := BitVec 8
/-- An instruction word of a lane, or half a register. -/
abbrev W32 := BitVec 32
/-- A register of BAR0 (R8), a lane register (R79), a payload word (R361). -/
abbrev W64 := BitVec 64
/-- A sparse table: keys strictly rising, no entry equal to what an unlisted key reads as. -/
abbrev Tab (α : Type) := List (Nat × α)
/-- What the host wrote in its own memory before the device's read (log 8). -/
abbrev HostWrites := List (Nat × Byte)

/-- What the storage of a line does on the access of a command (R212, R213, R236, R292):
`good` gives the bytes held; `corrected` is a symbol corrected in the named row; `ue` an uncorrectable
sector; `flipped d` bytes whose sillage differs by `d` from the word that came with them; `tagsLost w`
both tag copies of way `w` fail; `struck p d` bytes that change likewise on the way to point `p` (Table 12-2). -/
inductive Medium where
  | good
  | corrected (row : Nat)
  | ue
  | flipped (d : BitVec 64)
  | tagsLost (way : Nat)
  | struck (point : Nat) (d : BitVec 64)
  deriving DecidableEq, Repr

/-- A line that a message names, and the condition that its data meet on their way (R292). -/
structure MetLine where
  line : Nat
  md : Medium
  deriving DecidableEq, Repr
/-- A value written to a register, and the instruction word that a step which the write begins meets (R110). -/
structure RegWord where
  v : BitVec 64
  w : BitVec 32
  deriving DecidableEq, Repr

/-- Conditions of the lines that a command reads, by line number (address ÷ 256); an unlisted line is good. -/
abbrev Media := List (Nat × Medium)

/-- Which part of a 64-bit register an access names (R8). -/
inductive Half where
  | whole | low | high
  deriving DecidableEq, Repr

/-- The registers of configuration space that the spec names (R3, R327, R328, R429); the places of
capability structures are PCIe's own. -/
inductive CfgReg where
  | ids | command | revClass | header | bar (i : Nat) | msixControl | deviceControl
  | pmcsr | rebar | aer | serial (hi : Bool) | other (off : Nat)
  deriving DecidableEq, Repr

/-- What a core waits for at a flag (R95, R257): the core, the flag's byte offset in its line, the value, and whether a greater
one serves too. -/
structure WatchFor where
  core : Nat
  off : Nat
  v : BitVec 64
  ge : Bool
  deriving DecidableEq, Repr

/-- A request as a home sees it (R246, R248, R308): sending die, tag, streaming or demand (R228), class
0 FIRM, 1 SOFT, 2 BULK, the processor core it is made for, the core that waits for a flag or a count (R257), the
caching agent (0-15 RLC, 16-19 L3) and its victim way (R254). -/
structure Requester where
  die : Nat
  tag : Nat
  streaming : Bool
  cls : Nat
  proc : Option Nat
  watch : Option WatchFor
  agent : Option Nat
  way : Nat
  deriving DecidableEq, Repr

/-- The header of an Esrik packet (R381), with the local port it came in on. -/
structure Pkt where
  port : Nat
  cls : Nat
  last : Bool
  lines : Nat
  job : Nat
  src : Nat
  dst : Nat
  seq : Nat
  ack : Nat
  poison : BitVec 32
  addr : Nat
  deriving DecidableEq, Repr

/-- What a processor core asks (R192, R267). -/
inductive ProcOp where
  | load | store | amo (funct5 : Nat) | lr | sc | fetch
  deriving DecidableEq, Repr

/-- What one step of the full reset finds (R432 to R437). -/
inductive StepResult where
  | ok
  | image (good : Bool) (secure : Bool)          -- step 2: the staged image's signature and security version
  | failed                                         -- steps 2 and 7: the boot fails
  | trained (reserveLog2 : Nat) (coldStacks : BitVec 16)  -- steps 4 and 5
  | selfTest (badRegions : BitVec 64) (badWays : List Nat)  -- step 7
  deriving DecidableEq, Repr

end Sys2Proof
end

