-- ==== Sys2Proof/Syntax.lean ====
section
/-! DEFINITION. The commands of the block: one constructor per row of spec/opcode_table.json. -/

namespace Sys2Proof

/-- The commands. Each constructor's docstring names its row and rule. -/
inductive Instr where
  /-- RESET_DEVICE (R343). -/
  | resetDevice (m : Nat) (seq : BitVec 16) (inWords : Nat)
  /-- NOP (R361). -/
  | nop (m : Nat) (seq : BitVec 16) (inWords : Nat)
  /-- DIE_INVENTORY (R361). -/
  | dieInventory (m : Nat) (seq : BitVec 16) (inWords : Nat)
  /-- MEMORY_INVENTORY (R361). -/
  | memoryInventory (m : Nat) (seq : BitVec 16) (inWords : Nat) (linkOk : Bool)
  /-- LINK_STATUS (R361). -/
  | linkStatus (m : Nat) (seq : BitVec 16) (inWords : Nat)
  /-- SAT_READ (R361). -/
  | satRead (m : Nat) (seq : BitVec 16) (inWords : Nat) (linkOk : Bool)
  /-- CONTEXT_CREATE (R365). -/
  | contextCreate (m : Nat) (seq : BitVec 16) (inWords : Nat)
  /-- CONTEXT_DESTROY (R367). -/
  | contextDestroy (m : Nat) (seq : BitVec 16) (inWords : Nat)
  /-- CONTEXT_QUERY (R369). -/
  | contextQuery (m : Nat) (seq : BitVec 16) (inWords : Nat)
  /-- CONTEXT_STOP (R367). -/
  | contextStop (m : Nat) (seq : BitVec 16) (inWords : Nat)
  /-- ITEM_CANCEL (R368). -/
  | itemCancel (m : Nat) (seq : BitVec 16) (inWords : Nat)
  /-- PARTITION_CREATE (R362). -/
  | partitionCreate (m : Nat) (seq : BitVec 16) (inWords : Nat)
  /-- PARTITION_DESTROY (R364). -/
  | partitionDestroy (m : Nat) (seq : BitVec 16) (inWords : Nat)
  /-- PARTITION_SET (R363). -/
  | partitionSet (m : Nat) (seq : BitVec 16) (inWords : Nat)
  /-- ASPACE_CREATE (R364). -/
  | aspaceCreate (m : Nat) (seq : BitVec 16) (inWords : Nat)
  /-- ASPACE_DESTROY (R364). -/
  | aspaceDestroy (m : Nat) (seq : BitVec 16) (inWords : Nat)
  /-- PAGE_PIN (R270). -/
  | pagePin (m : Nat) (seq : BitVec 16) (inWords : Nat)
  /-- PAGE_UNPIN (R271). -/
  | pageUnpin (m : Nat) (seq : BitVec 16) (inWords : Nat)
  /-- SHOOTDOWN (R272). -/
  | shootdown (m : Nat) (seq : BitVec 16) (inWords : Nat)
  /-- SHOOTDOWN_DRAIN_DONE (R272). -/
  | shootdownDrainDone (m elapsed : Nat)
  /-- FAULT_RESUME (R280). -/
  | faultResume (m : Nat) (seq : BitVec 16) (inWords : Nat)
  /-- FAULT_MIGRATE (R283). -/
  | faultMigrate (m : Nat) (seq : BitVec 16) (inWords : Nat)
  /-- MIGRATION_COPY_DONE (R283). -/
  | migrationCopyDone (p fid : Nat) (h : HostWrites)
  /-- FAULT_ABORT (R280). -/
  | faultAbort (m : Nat) (seq : BitVec 16) (inWords : Nat)
  /-- FRAME_RETIRE (R217). -/
  | frameRetire (m : Nat) (seq : BitVec 16) (inWords : Nat)
  /-- FRAME_UNRETIRE (R217). -/
  | frameUnretire (m : Nat) (seq : BitVec 16) (inWords : Nat)
  /-- STACK_RETEST (R223). -/
  | stackRetest (m : Nat) (seq : BitVec 16) (inWords : Nat)
  /-- STACK_RETEST_DONE (R223). -/
  | stackRetestDone (stack : Nat) (bad : List Nat)
  /-- RESERVE_MODE (R221). -/
  | reserveMode (m : Nat) (seq : BitVec 16) (inWords : Nat)
  /-- ACCORD_READ (R361). -/
  | accordRead (m : Nat) (seq : BitVec 16) (inWords : Nat) (linkOk : Bool)
  /-- BEAT_SET (R45). -/
  | beatSet (m : Nat) (seq : BitVec 16) (inWords : Nat)
  /-- TIME_SOURCE (R361). -/
  | timeSource (m : Nat) (seq : BitVec 16) (inWords : Nat)
  /-- CACHE_INVALIDATE_ALL (R239). -/
  | cacheInvalidateAll (m : Nat) (seq : BitVec 16) (inWords : Nat)
  /-- CACHE_ENABLE (R239). -/
  | cacheEnable (m : Nat) (seq : BitVec 16) (inWords : Nat)
  /-- CACHE_DISABLE (R239). -/
  | cacheDisable (m : Nat) (seq : BitVec 16) (inWords : Nat)
  /-- CACHE_POLICY (R239). -/
  | cachePolicy (m : Nat) (seq : BitVec 16) (inWords : Nat)
  /-- POWER_CAP (R407). -/
  | powerCap (m : Nat) (seq : BitVec 16) (inWords : Nat)
  /-- SMOOTHING (R416). -/
  | smoothing (m : Nat) (seq : BitVec 16) (inWords : Nat)
  /-- DEBUG_HALT (R361). -/
  | debugHalt (m : Nat) (seq : BitVec 16) (inWords : Nat)
  /-- JOB_ARM (R376). -/
  | jobArm (m : Nat) (seq : BitVec 16) (inWords : Nat) (linkOk : Bool) (h : HostWrites)
  /-- JOB_STOP (R401). -/
  | jobStop (m : Nat) (seq : BitVec 16) (inWords : Nat)
  /-- JOB_QUERY (R361). -/
  | jobQuery (m : Nat) (seq : BitVec 16) (inWords : Nat)
  /-- FW_STAGE (R377). -/
  | fwStage (m : Nat) (seq : BitVec 16) (inWords : Nat) (linkOk flashOk : Bool) (h : HostWrites)
  /-- FW_UNSTAGE (R377). -/
  | fwUnstage (m : Nat) (seq : BitVec 16) (inWords : Nat)
  /-- MBX_DATA_WRITE (R340). -/
  | mbxDataWrite (m k : Nat) (half : Half) (v : W64)
  /-- TIME_NOW_LOW_READ (R43). -/
  | timeNowLowRead
  /-- TIME_NOW_HIGH_READ (R43). -/
  | timeNowHighRead
  /-- TIME_FAULT_CLEAR (R42). -/
  | timeFaultClear (v : W64)
  /-- DOORBELL_TAIL (R347). -/
  | doorbellTail (ctx : Nat) (v : W64)
  /-- DOORBELL_CQ_HEAD (R346). -/
  | doorbellCqHead (ctx : Nat) (v : W64)
  /-- FQ_HEAD_WRITE (R277). -/
  | fqHeadWrite (p : Nat) (v : W64)
  /-- FQ_ENABLE_WRITE (R277). -/
  | fqEnableWrite (p : Nat) (v : W64)
  /-- EVT_HEAD_WRITE (R441). -/
  | evtHeadWrite (v : W64)
  /-- EVT_CFG_WRITE (R443). -/
  | evtCfgWrite (v : W64)
  /-- BAR4_WIN_WRITE (R334). -/
  | bar4WinWrite (v : W64)
  /-- DBG_RCTL_HALT (R109). -/
  | dbgRctlHalt (die r : Nat) (v : W64)
  /-- DBG_RCTL_RESUME (R109). -/
  | dbgRctlResume (die r : Nat) (v : W64)
  /-- DBG_RCTL_STEP (R110). -/
  | dbgRctlStep (die r : Nat) (v : W64) (w : W32)
  /-- STEP_TIMEOUT (R110). -/
  | stepTimeout (die r : Nat)
  /-- DBG_DATA_WRITE (R108). -/
  | dbgDataWrite (die : Nat) (v : W64)
  /-- I3C_SYNC_TOD_WRITE (R468). -/
  | i3cSyncTodWrite (v : W64)
  /-- I3C_SYNC_ACC_WRITE (R467). -/
  | i3cSyncAccWrite (v : W64)
  /-- REGISTER_WRITE (R9). -/
  | registerWrite (bar off size : Nat) (v : RegWord)
  /-- BAR4_READ (R335). -/
  | bar4Read (off len : Nat) (md : Media)
  /-- BAR4_WRITE (R335). -/
  | bar4Write (off : Nat) (data : List Byte) (md : Media)
  /-- PCIE_CONFIG_REQUEST (R329). -/
  | pcieConfigRequest (reg : CfgReg) (wr : Option W32)
  /-- BUS_MASTER_ENABLE_WRITE (R328). -/
  | busMasterEnableWrite (on : Bool)
  /-- LANE_ALU (R80). -/
  | laneAlu (c g : Nat) (w : W32)
  /-- LANE_BRANCH (R81). -/
  | laneBranch (c g : Nat) (w : W32)
  /-- LANE_LOAD (R82). -/
  | laneLoad (c g : Nat) (w : W32) (h : HostWrites) (md : Media)
  /-- LANE_STORE (R82). -/
  | laneStore (c g : Nat) (w : W32) (h : HostWrites) (md : Media)
  /-- LANE_AMO (R189). -/
  | laneAmo (c g : Nat) (w : W32) (h : HostWrites) (md : Media)
  /-- CSR_ACCESS (R86). -/
  | csrAccess (c g : Nat) (w : W32)
  /-- MSK_PUSH (R90). -/
  | mskPush (c g : Nat) (w : W32)
  /-- MSK_ELSE (R90). -/
  | mskElse (c g : Nat) (w : W32)
  /-- MSK_LOOP (R90). -/
  | mskLoop (c g : Nat) (w : W32)
  /-- MSK_BRK (R90). -/
  | mskBrk (c g : Nat) (w : W32)
  /-- MSK_POP (R90). -/
  | mskPop (c g : Nat) (w : W32)
  /-- MSK_BAL (R89). -/
  | mskBal (c g : Nat) (w : W32)
  /-- MSK_ANY (R89). -/
  | mskAny (c g : Nat) (w : W32)
  /-- MSK_ALL (R89). -/
  | mskAll (c g : Nat) (w : W32)
  /-- BAR_CL (R97). -/
  | barCl (c g : Nat) (w : W32)
  /-- BAR_DIE (R97). -/
  | barDie (c g : Nat) (w : W32)
  /-- DBG_BRK (R109). -/
  | dbgBrk (c g : Nat) (w : W32)
  /-- XW_GADDR (R89). -/
  | xwGaddr (c g : Nat) (w : W32)
  /-- GRP_END (R101). -/
  | grpEnd (c g : Nat) (w : W32)
  /-- FLG_REL (R95). -/
  | flgRel (c g : Nat) (w : W32) (h : HostWrites) (md : Media)
  /-- FLG_ACQ_EQ (R95). -/
  | flgAcqEq (c g : Nat) (w : W32) (h : HostWrites) (md : Media)
  /-- FLG_ACQ_GE (R95). -/
  | flgAcqGe (c g : Nat) (w : W32) (h : HostWrites) (md : Media)
  /-- SEM_REL (R95). -/
  | semRel (c g : Nat) (w : W32) (h : HostWrites) (md : Media)
  /-- SEM_ACQ (R95). -/
  | semAcq (c g : Nat) (w : W32) (h : HostWrites) (md : Media)
  /-- FENCE_X (R95). -/
  | fenceX (c g : Nat) (w : W32)
  /-- FLAG_REREAD (R96). -/
  | flagReread (c g : Nat) (md : Media)
  /-- GROUP_STALL (R104). -/
  | groupStall (c g : Nat)
  /-- MX_CFG (R120). -/
  | mxCfg (c g : Nat) (w : W32)
  /-- MX_LDT (R120). -/
  | mxLdt (c g : Nat) (w : W32)
  /-- MX_MMA (R120). -/
  | mxMma (c g : Nat) (w : W32)
  /-- MX_LDA (R120). -/
  | mxLda (c g : Nat) (w : W32)
  /-- MX_DRN (R120). -/
  | mxDrn (c g : Nat) (w : W32)
  /-- MX_TRK (R120). -/
  | mxTrk (c g : Nat) (w : W32)
  /-- AT_SUB (R131). -/
  | atSub (c g : Nat) (w : W32)
  /-- ATOMISER_CHUNK (R132). -/
  | atomiserChunk (die : Nat) (md : Media)
  /-- ATOMISER_DONE (R133). -/
  | atomiserDone (die : Nat) (md : Media)
  /-- VX_ADD (R161). -/
  | vxAdd (c g : Nat) (w : W32)
  /-- VX_SUB (R161). -/
  | vxSub (c g : Nat) (w : W32)
  /-- VX_MUL (R161). -/
  | vxMul (c g : Nat) (w : W32)
  /-- VX_FMA (R161). -/
  | vxFma (c g : Nat) (w : W32)
  /-- VX_DIV (R161). -/
  | vxDiv (c g : Nat) (w : W32)
  /-- VX_SQRT (R161). -/
  | vxSqrt (c g : Nat) (w : W32)
  /-- VX_RCP (R161). -/
  | vxRcp (c g : Nat) (w : W32)
  /-- VX_RSQRT (R161). -/
  | vxRsqrt (c g : Nat) (w : W32)
  /-- VX_EXP2 (R161). -/
  | vxExp2 (c g : Nat) (w : W32)
  /-- VX_LOG2 (R161). -/
  | vxLog2 (c g : Nat) (w : W32)
  /-- VX_EXP (R161). -/
  | vxExp (c g : Nat) (w : W32)
  /-- VX_LOG (R161). -/
  | vxLog (c g : Nat) (w : W32)
  /-- VX_TANH (R161). -/
  | vxTanh (c g : Nat) (w : W32)
  /-- VX_SIGM (R161). -/
  | vxSigm (c g : Nat) (w : W32)
  /-- VX_ABS (R161). -/
  | vxAbs (c g : Nat) (w : W32)
  /-- VX_NEG (R161). -/
  | vxNeg (c g : Nat) (w : W32)
  /-- VX_MAX (R161). -/
  | vxMax (c g : Nat) (w : W32)
  /-- VX_MIN (R161). -/
  | vxMin (c g : Nat) (w : W32)
  /-- VX_EQ (R163). -/
  | vxEq (c g : Nat) (w : W32)
  /-- VX_NE (R163). -/
  | vxNe (c g : Nat) (w : W32)
  /-- VX_LT (R163). -/
  | vxLt (c g : Nat) (w : W32)
  /-- VX_LE (R163). -/
  | vxLe (c g : Nat) (w : W32)
  /-- VX_GT (R163). -/
  | vxGt (c g : Nat) (w : W32)
  /-- VX_GE (R163). -/
  | vxGe (c g : Nat) (w : W32)
  /-- VX_SEL (R163). -/
  | vxSel (c g : Nat) (w : W32)
  /-- VX_CVT (R159). -/
  | vxCvt (c g : Nat) (w : W32)
  /-- VX_RSUM (R151). -/
  | vxRsum (c g : Nat) (w : W32)
  /-- VX_RMAX (R161). -/
  | vxRmax (c g : Nat) (w : W32)
  /-- VX_RMIN (R161). -/
  | vxRmin (c g : Nat) (w : W32)
  /-- VX_TR32 (R166). -/
  | vxTr32 (c g : Nat) (w : W32)
  /-- VX_TRK (R165). -/
  | vxTrk (c g : Nat) (w : W32)
  /-- VX_UPD (R172). -/
  | vxUpd (c g : Nat) (w : W32)
  /-- RING_READ (R348). -/
  | ringRead (ctx : Nat) (h : HostWrites) (ep : Bool) (md : Media)
  /-- TORN_ENTRY_REREAD (R349). -/
  | tornEntryReread (ctx : Nat) (h : HostWrites) (ep : Bool) (md : Media)
  /-- ADMISSION_DECISION (R62). -/
  | admissionDecision (ctx seq : Nat) (md : Media)
  /-- ITEM_START (R196). -/
  | itemStart (ctx : Nat) (md : Media)
  /-- SLICE_LAUNCH (R100). -/
  | sliceLaunch (ctx : Nat) (md : Media)
  /-- BATCH_WINDOW_EXPIRY (R127). -/
  | batchWindowExpiry (ctx : Nat) (md : Media)
  /-- COPY_BLOCK (R210). -/
  | copyBlock (ctx : Nat) (md : Media)
  /-- HOST_COPY_PIECE_START (R352). -/
  | hostCopyPieceStart (e : Nat)
  /-- HOST_COPY_PIECE_DONE (R352). -/
  | hostCopyPieceDone (e : Nat) (h : HostWrites) (md : Media)
  /-- WAIT_ITEM_MATCH (R196). -/
  | waitItemMatch (ctx : Nat) (md : Media)
  /-- BEAT_BOUNDARY (R48). -/
  | beatBoundary (sat : List (Nat × Nat)) (powerW volts amps : Nat)
  /-- HOLDOVER_LIMIT (R394). -/
  | holdoverLimit
  /-- GUARD_START (R48). -/
  | guardStart
  /-- REGION_WAKE_DONE (R425). -/
  | regionWakeDone (r : Nat)
  /-- REGION_WAKE_FAIL (R427). -/
  | regionWakeFail (r : Nat)
  /-- RD_SHARED (R246). -/
  | rdShared (q : Requester) (line : Nat) (md : Medium)
  /-- RD_UNIQUE (R246). -/
  | rdUnique (q : Requester) (line : Nat) (md : Medium)
  /-- UPGRADE (R252). -/
  | upgrade (q : Requester) (line : Nat) (md : Medium)
  /-- RD_CUR (R246). -/
  | rdCur (q : Requester) (line : Nat) (md : Medium)
  /-- WR_FULL (R246). -/
  | wrFull (q : Requester) (line : Nat) (data : List Byte) (poison : Bool) (hint : Option Nat) (md : Medium)
  /-- WR_PART (R246). -/
  | wrPart (q : Requester) (line : Nat) (mask : BitVec 256) (data : List Byte) (poison : Bool) (md : Medium)
  /-- ATOMIC (R246). -/
  | atomic (q : Requester) (line amo width : Nat) (operands : List (Nat × W64)) (md : Medium)
  /-- LR (R258). -/
  | lr (q : Requester) (line : Nat) (md : Medium)
  /-- SC (R258). -/
  | sc (q : Requester) (line : Nat) (mask : BitVec 256) (data : List Byte) (md : Medium)
  /-- SCR_RD (R194). -/
  | scrRd (q : Requester) (line : MetLine)
  /-- SCR_WR (R194). -/
  | scrWr (q : Requester) (line : MetLine) (mask : BitVec 256) (data : List Byte) (poison : Bool)
  /-- SNP_Q (R253). -/
  | snpQ (home tag line kind : Nat) (requester : Option Nat)
  /-- SNP_SHARED (R250). -/
  | snpShared (agent line tag : Nat)
  /-- SNP_CUR (R250). -/
  | snpCur (agent line tag : Nat)
  /-- SNP_INV (R250). -/
  | snpInv (agent line tag : Nat)
  /-- RSP_FCOUNT (R249). -/
  | rspFcount (line sent cleared entry : Nat) (other : Bool)
  /-- RSP_I (R247). -/
  | rspI (agent line : Nat)
  /-- RSP_S (R247). -/
  | rspS (agent line : Nat)
  /-- RSP_WBPEND (R255). -/
  | rspWbpend (agent line buf : Nat) (phase : Bool)
  /-- RSP_GRANT (R252). -/
  | rspGrant (agent line grant : Nat)
  /-- RSP_DONE (R246). -/
  | rspDone (die tag : Nat) (scOk : Bool)
  /-- RSP_ERR (R308). -/
  | rspErr (die tag status : Nat)
  /-- DAT (R246). -/
  | dat (dst src tag : Nat) (line : MetLine) (grant : Nat) (data : List Byte) (poison : Bool) (sill : W64)
  /-- OFFER (R256). -/
  | offer (agent : Nat) (line : MetLine) (data : List Byte) (poison : Bool)
  /-- WB (R255). -/
  | wb (agent : Nat) (line : MetLine) (buf : Nat) (phase : Bool) (data : List Byte) (poison : Bool)
  /-- ACK (R248). -/
  | ack (agent line way grant : Nat)
  /-- ACK_TAKE (R256). -/
  | ackTake (agent line way : Nat)
  /-- ACK_DECLINE (R256). -/
  | ackDecline (agent line : Nat)
  /-- WB_ACK (R255). -/
  | wbAck (agent buf : Nat)
  /-- DROP (R249). -/
  | drop (line : Nat)
  /-- WAKE (R257). -/
  | wake (c line : Nat)
  /-- PREFETCH_ARRIVAL (R232). -/
  | prefetchArrival (die line : Nat) (md : Medium)
  /-- PATROL_SCRUB (R212). -/
  | patrolScrub (line : Nat) (md : Medium)
  /-- ELEVATED_REFRESH_START (R209). -/
  | elevatedRefreshStart (stack temp : Nat)
  /-- ELEVATED_REFRESH_END (R209). -/
  | elevatedRefreshEnd (stack temp : Nat)
  /-- ROW_REPAIR_DONE (R209). -/
  | rowRepairDone (stack : Nat) (spareLeft : Bool)
  /-- L2_WAY_OFF (R237). -/
  | l2WayOff (die bank way : Nat)
  /-- FLIT_CRC_FAIL (R313). -/
  | flitCrcFail (k : Nat) (failed : Bool)
  /-- MODULE_RETRAIN (R314). -/
  | moduleRetrain (k : Nat)
  /-- LANE_TEST_DONE (R314). -/
  | laneTestDone (k : Nat) (failD : W64) (failT : BitVec 8)
  /-- WIDTH_CONFIRM (R320). -/
  | widthConfirm (k : Nat) (mine theirs : BitVec 2) (inPartialReset : Bool)
  /-- PARTIAL_RESET (R317). -/
  | partialReset (grp cause ended : Nat)
  /-- DIE_RESET_NOTICE (R317). -/
  | dieResetNotice (die reason : Nat)
  /-- HELD_REQUEST_TIMEOUT (R318). -/
  | heldRequestTimeout (die tag : Nat)
  /-- AGENT_LOST (R259). -/
  | agentLost (agent : Nat)
  /-- CAP_WORD (R321). -/
  | capWord (die idx : Nat) (v : W64)
  /-- CAP_SELECT (R323). -/
  | capSelect (die : Nat) (w2 w3 : W64)
  /-- TELEMETRY (R321). -/
  | telemetry (die powerW temp : Nat)
  /-- POWER_LIMIT (R408). -/
  | powerLimit (die limitW : Nat) (emergency : Bool)
  /-- RESERVE_LINK_DOWN (R222). -/
  | reserveLinkDown
  /-- PUT_DATA (R386). -/
  | putData (p : Pkt) (data : List Byte) (sill : List W64) (md : Media)
  /-- GET_REQ (R198). -/
  | getReq (p : Pkt) (back : Nat) (md : Media)
  /-- GET_DATA (R385). -/
  | getData (p : Pkt) (data : List Byte) (sill : List W64) (md : Media)
  /-- ESRIK_SIGNAL (R198). -/
  | esrikSignal (p : Pkt) (v : W64) (add : Bool) (md : Media)
  /-- ESRIK_ACK (R382). -/
  | esrikAck (p : Pkt) (md : Media)
  /-- NAK (R386). -/
  | nak (p : Pkt) (status seq : Nat)
  /-- COLL (R390). -/
  | coll (p : Pkt) (data : List Byte) (sill : List W64) (md : Media)
  /-- ARM (R398). -/
  | arm (p : Pkt) (start epoch period : Nat) (lockstep : Bool) (floor clock : Nat) (digest : W64)
  /-- ARM_ACK (R398). -/
  | armAck (p : Pkt) (refuse : Bool)
  /-- COMMIT (R398). -/
  | commit (p : Pkt) (start : Nat)
  /-- HEARTBEAT (R400). -/
  | heartbeat (p : Pkt) (beat : Nat)
  /-- ESRIK_JOB_STOP (R401). -/
  | esrikJobStop (p : Pkt) (missing beat : Nat)
  /-- CHILD_MISSING (R400). -/
  | childMissing (p : Pkt) (member beat : Nat)
  /-- ARM_TIMEOUT (R398). -/
  | armTimeout (job : Nat)
  /-- COMMIT_DECISION (R398). -/
  | commitDecision (job : Nat)
  /-- JOB_START_BEAT (R398). -/
  | jobStartBeat (job : Nat)
  /-- HEARTBEAT_CHECK (R400). -/
  | heartbeatCheck (job : Nat)
  /-- RETRANSMIT_TIMEOUT (R382). -/
  | retransmitTimeout (job peer port : Nat)
  /-- ACK_TIMER (R382). -/
  | ackTimer (job peer port : Nat)
  /-- PEER_PATH_LOST (R383). -/
  | peerPathLost (job peer port : Nat)
  /-- PORT_DOWN (R402). -/
  | portDown (port : Nat)
  /-- PORT_UP (R402). -/
  | portUp (port : Nat)
  /-- PTP_EVENT_MESSAGE (R392). -/
  | ptpEventMessage (port : Nat) (offset : Int)
  /-- ANNOUNCE_TIMEOUT (R394). -/
  | announceTimeout
  /-- SYNC_PPS_EDGE (R468). -/
  | syncPpsEdge (nowAt : Nat)
  /-- SYNC_LOSS (R468). -/
  | syncLoss
  /-- SOFT_START (R405). -/
  | softStart (volts : Nat)
  /-- GOVERNOR_SAMPLE (R412). -/
  | governorSample (volts amps slew : Int)
  /-- DROOP_DETECT (R418). -/
  | droopDetect (kind source : Nat)
  /-- THERMAL_DETECT (R418). -/
  | thermalDetect (isStack : Bool) (source temp : Nat)
  /-- TILE_THERMAL_DETECT (R418). -/
  | tileThermalDetect (tile temp : Nat)
  /-- EMERGENCY_RELEASE (R418). -/
  | emergencyRelease (cond kind source : Nat)
  /-- TILE_FAIL (R406). -/
  | tileFail (tile : Nat)
  /-- EMERGENCY_SHUTDOWN (R420). -/
  | emergencyShutdown (cause source : Nat)
  /-- POWER_UP (R429). -/
  | powerUp (volts : Nat)
  /-- PERST_ASSERT (R466). -/
  | perstAssert (heldUs : Nat)
  /-- PERST_RELEASE (R466). -/
  | perstRelease
  /-- RESET_STEP_DONE (R432). -/
  | resetStepDone (r : StepResult)
  /-- FW_FALLBACK_TIMEOUT (R435). -/
  | fwFallbackTimeout
  /-- BOOT_FAIL_TIMEOUT (R436). -/
  | bootFailTimeout
  /-- NOSE_WATCHDOG_EXPIRY (R342). -/
  | noseWatchdogExpiry
  /-- LINK_RECOVERY (R356). -/
  | linkRecovery
  /-- LINK_RECOVERY_END (R356). -/
  | linkRecoveryEnd (width rate : Nat)
  /-- HOST_LINK_DOWN (R357). -/
  | hostLinkDown (discarded : Nat)
  /-- CROWN_UE (R448). -/
  | crownUe (table bank : Nat)
  /-- IRQ_COALESCE_TIMER (R443). -/
  | irqCoalesceTimer
  /-- EVENT_FLASH_COPY (R444). -/
  | eventFlashCopy
  /-- PROCESSOR_CORE_ACCESS (R192). -/
  | processorCoreAccess (k : Nat) (op : ProcOp) (va size : Nat) (v : W64) (h : HostWrites) (md : Medium)
  /-- ENGINE_INSTRUCTION_END (R167). -/
  | engineInstructionEnd (c : Nat) (vec : Bool) (md : Media)
  /-- CREDIT_RETURN (R311). -/
  | creditReturn (grp dir vc count : Nat)
  /-- HOST_LINK_UP (R358). -/
  | hostLinkUp (width rate : Nat)
  /-- ROUTER_ADVERTISEMENT (R379). -/
  | routerAdvertisement (port : Nat) (auto : Bool) (pfx : W64)
  /-- PTP_GENERAL_MESSAGE (R391). -/
  | ptpGeneralMessage (port kind : Nat) (better : Bool) (clockAcc : Nat) (offset : Int)
  /-- INPUT_BELOW_10_V (R420). -/
  | inputBelow10V (heldMs : Nat)
  deriving DecidableEq, Repr

end Sys2Proof
end

