-- ==== Sys2Proof/Config.lean ====
section
/-! DEFINITION. The free values: what the spec leaves open or does not state, one opaque constant each, applied
to the operands it depends on or to the counter `State.free` (log 11). Nothing evaluates them. -/

namespace Sys2Proof.Config

/-- A whole 64-bit value, fresh for each number drawn (log 11). -/
opaque freeWord : Nat → BitVec 64
/-- A choice among alternatives that the spec leaves open, fresh for each number drawn (log 11). -/
opaque freeNat : Nat → Nat
/-- An ECDSA-style signature or digest test: whether an image's bytes verify (R377, log 21). -/
opaque imageGood : List Byte → Bool
/-- Its security version lies below the fused minimum (R377, log 21). -/
opaque imageOld : List Byte → Bool
/-- The image version that an image's bytes state (R377, log 21). -/
opaque imageVersion : List Byte → Nat
/-- Which value an operation of the vector engine answers, among those that its bound admits or, where the spec
states no result, among all: operation code and operand bits (R150, log 15). -/
opaque vectorFn : Nat → Nat → Nat

/-- The fused MAC address of a peer port (Table 16-1): no rule gives its value, and no command reads it (log 11). -/
opaque macAddress : Nat → BitVec 48

/-- MHz by which a Brim die's array clock runs above the package contract clock (R86, log 82). -/
opaque arrayAbove : Nat → Nat

end Sys2Proof.Config
end

