-- ==== Sys2Proof/Machine/State.lean ====
section
/-! DEFINITION. The state of the package, as plain data: every register, queue, counter, mode and pin the
spec names. Field defaults are the values at mailbox-ready (R11, R438); a default that the spec does not
give is named in the assumption log. -/

namespace Sys2Proof.Machine

open Sys2Proof

/-! ## Reset, fuses, module flash and pins -/

/-- A logic die, numbered as the die level of Table 01-7, the Crown 24 (R15 to R17, R361). -/
structure Die where
  /-- Table 01-3. -/
  identity : W64 := 0
  /-- 0 present, 1 isolated, 2 absent. -/
  state : Nat := 0
  /-- 0 none, 1 kind, 2 site, 3 serial, 4 capability. -/
  check : Nat := 0
  /-- Capability words (R322), as far as received. -/
  caps : Tab W64 := []
  /-- CAP_SELECT words 2 and 3 as received by the die. -/
  sel2 : W64 := 0
  sel3 : W64 := 0
  /-- TELEMETRY: power in W over the last beat, and hottest junction (R321, R421). -/
  powerW : Nat := 0
  temp : Nat := 40
  /-- POWER_LIMIT as last received, and its emergency bit (R408, R418). -/
  limitW : Nat := 0
  limitEmergency : Bool := false
  /-- A DIE_RESET_NOTICE that stands (R317): reason. -/
  resetReason : Option Nat := none
  deriving DecidableEq, Repr

/-- One event record (Table 18-9); payload words 3 to 7. -/
structure EvtRec where
  code : Nat
  cls : Nat
  replayed : Bool := false
  seq : Nat
  time : Nat
  beat : Nat
  payload : List W64
  deriving DecidableEq, Repr

/-- The event log (R440 to R444). -/
structure EvtLog where
  slots : Tab EvtRec := []
  head : Nat := 0
  tail : Nat := 0
  unread : Nat := 0
  nextSeq : Nat := 1
  lost : Nat := 0
  vector : Nat := 0
  irqClass : Nat := 2
  irqEn : Bool := false
  /-- The 2 µs spacing of R443 runs, and records were coalesced in it. -/
  spacing : Bool := false
  coalesced : Bool := false
  /-- Records posted and not yet copied to module flash (R444). -/
  toFlash : List EvtRec := []
  deriving DecidableEq, Repr

/-- What survives a full reset in module flash (Table 18-1). -/
structure Flash where
  /-- Retired frames, ascending device physical addresses (R217). -/
  retired : List Nat := []
  /-- Rows made permanent, per stack (Table 08-5). -/
  rows : Tab Nat := []
  /-- Image versions: running, staged in the inactive slot, fallback (R377, R435). -/
  running : Nat := 1
  staged : Option Nat := none
  /-- The staged image passes signature and security checks. -/
  stagedGood : Bool := true
  fallback : Option Nat := none
  /-- A memory-training cache recorded (R433). -/
  trainingCache : Bool := true
  events : List EvtRec := []
  /-- A STACK_RETEST or shutdown record was the last thing written (R420). -/
  shutdown : Option (Nat × Nat) := none
  deriving DecidableEq, Repr

/-- Where the full reset stands (R429 to R437). -/
structure ResetSt where
  /-- 0 off, 1 to 8 step running, 9 mailbox-ready, 10 boot failed, 11 held by PERST#, 12 Nose failed (R342),
  13 a Crown table lost (R448). -/
  step : Nat := 9
  /-- BOOT cause: 0 power, 1 PERST#, 2 RESET_DEVICE, 3 after shutdown. -/
  cause : Nat := 0
  cold : Bool := false
  /-- The image being booted is the staged one, to be fallen back from (R435). -/
  bootingStaged : Bool := false
  badRegions : W64 := 0
  badWays : List Nat := []
  /-- A FW_FALLBACK record to post: version and reason. -/
  fellBack : Option (Nat × Nat) := none
  reserveLog2 : Nat := 0
  /-- Soft row repairs, by stack, that the reset's memory training makes permanent (R209, R431). -/
  softRows : Tab Nat := []
  /-- Events found while the reset runs, posted after BOOT: code, class, payload (R445, log 24). -/
  events : List (Nat × Nat × Nat) := []
  /-- What the capability list was built from (R332): Brim, processor and port dies, log₂ of the reserve tier. -/
  capBrims : BitVec 16 := 0xFFFF
  capProcs : BitVec 4 := 0xF
  capPorts : BitVec 4 := 0xF
  capStacks : BitVec 16 := 0xFFFF
  capReserve : Nat := 37
  deriving DecidableEq, Repr

/-- Lands whose level the spec gives (R466, Table 20-3). -/
structure Pins where
  perst : Bool := true          -- PERST# high
  pwrok : Bool := true          -- PKG_PWROK high
  thermAlert : Bool := true     -- THERM_ALERT# high
  cxlPerst : Bool := true       -- CXL_PERST# high
  deriving DecidableEq, Repr

/-! ## Host interface -/

/-- One mailbox (Tables 14-9 to 14-12). -/
structure Mailbox where
  opcode : Nat := 0
  inWords : Nat := 0
  seq : BitVec 16 := 0
  /-- 0 idle, 1 busy, 2 done. -/
  state : Nat := 0
  collision : Bool := false
  stsSeq : BitVec 16 := 0
  outWords : Nat := 0
  status : Nat := 0
  vector : Nat := 0
  irqEn : Bool := false
  data : Tab W64 := []
  deriving DecidableEq, Repr

/-- What the device asks of the host link (R328, R354): a posted write of bytes with the EP and RO marks,
or an MSI-X message. -/
inductive HostReq where
  | write (addr : Nat) (data : List Byte) (ep ro : Bool)
  | msix (v : Nat)
  deriving DecidableEq, Repr

/-- The last completion the device gave to a read or a request. -/
inductive Reply where
  | none
  | ok
  | ur                              -- Unsupported Request
  | rrs                             -- Request Retry Status
  | value (v : W64)
  | bytes (b : List Byte) (ep : Bool)
  deriving DecidableEq, Repr

/-- One entry of the MSI-X table. -/
structure Msix where
  addr : W64 := 0
  data : W32 := 0
  masked : Bool := true
  pending : Bool := false
  deriving DecidableEq, Repr

/-- The PCIe function (R327 to R337, R356 to R358). -/
structure HostIf where
  memEn : Bool := false
  busEn : Bool := false
  d3hot : Bool := false
  /-- log₂ of the BAR4 size, 28 to 41 (Table 14-1). -/
  bar4Log2 : Nat := 36
  bars : Tab W32 := []
  msixEn : Bool := false
  msixMask : Bool := false
  relaxed : Bool := false
  devCtl : W32 := 0
  aer : W32 := 0
  /-- CRN_BAR4_WIN.base, address bits 40:28. -/
  win : Nat := 0
  hostLost : Bool := false
  linkUp : Bool := true
  recovery : Bool := false
  width : Nat := 16
  rate : Nat := 6
  /-- Configuration requests get Request Retry Status (R329). -/
  rrs : Bool := false
  msix : Tab Msix := []
  /-- Requests held while Bus Master Enable is 0 or the link is in Recovery, oldest first. -/
  held : List HostReq := []
  /-- MSI-X messages sent, newest first. -/
  sent : List Nat := []
  reply : Reply := .none
  mbx : Tab Mailbox := []
  deriving DecidableEq, Repr

/-! ## Time -/

/-- A clock discipline: recent offsets, newest first, at most 16, and whether samples are good (R392, R468). -/
structure Servo where
  offsets : List Int := []
  below : Nat := 0
  clockAcc : Nat := 0
  deriving DecidableEq, Repr

/-- Package time and the beat grid (R42 to R47, R391 to R394, R468). -/
structure TimeSt where
  now : Nat := 0
  latch : Option W32 := none
  epoch : Nat := 0
  period : Nat := 200
  guard : Nat := 6
  planGuard : Nat := 8
  accuracy : Nat := 0xFFFFF
  locked : Bool := false
  source : Nat := 0
  timeFault : Bool := false
  /-- Between a guard start and the next boundary. -/
  inGuard : Bool := false
  /-- First beat of the grid in force (R45). -/
  gridStart : Nat := 0
  /-- A change of grid to apply at the next boundary: epoch, period. -/
  newGrid : Option (Nat × Nat) := none
  /-- The counter stepped since the last boundary. -/
  stepped : Bool := false
  /-- Correction the servo still slews in, in ns. -/
  slew : Int := 0
  ptp : Servo := {}
  ptpMaster : Bool := false
  sync : Servo := {}
  /-- Holdover (R394): package time at which it began, and the accuracy then. -/
  holdover : Option (Nat × Nat) := none
  /-- Package time since which `locked` has been 0, after a loss of lock. -/
  unlockedAt : Option Nat := none
  /-- TAI second of the last SYNC_PPS edge. -/
  lastTai : Nat := 0
  /-- CRN_I3C_SYNC_TOD as last written, whether no edge has consumed it, and CRN_I3C_SYNC_ACC (Tables 20-8, 20-9). -/
  tod : Nat := 0
  todFresh : Bool := false
  /-- Package time at which CRN_I3C_SYNC_TOD was last written. -/
  todAt : Nat := 0
  delayNs : Nat := 0
  accNs : Nat := 0xFFFFF
  deriving DecidableEq, Repr

/-! ## Partitions, address spaces, translation -/

/-- A partition (R31 to R36, R362, R363). Settings that wait for a boundary stand in the `next` fields. -/
structure Partition where
  brims : BitVec 16
  procs : BitVec 4
  scopedModel : Bool
  debug : Bool
  observe : Bool
  migrate : Bool
  route : Nat
  window : Nat
  shareCrown : Nat
  sharePeer : Nat
  shareTable : Nat
  shareEnergy : Nat
  wakeUs : Nat
  nextObserve : Option Bool := none
  nextRoute : Option Nat := none
  nextWindow : Option Nat := none
  nextWake : Option Nat := none
  /-- Wake budget in force, chosen at a boundary (R363, R424); none before the first. -/
  sleepUs : Option Nat := none
  maintenance : Bool := false
  /-- A partition-fatal event was met (R447). -/
  fatal : Bool := false
  deriving DecidableEq, Repr

/-- The fault queue of a partition number (R277, Tables 11-5 to 11-9). -/
structure FaultQ where
  base : Nat := 0
  enable : Bool := false
  vector : Nat := 0
  head : Nat := 0
  tail : Nat := 0
  phase : Bool := true
  unread : Nat := 0
  overflow : Nat := 0
  /-- fault_ids of records waiting to be posted, in the order in which they opened (R279). -/
  pending : List Nat := []
  /-- Next fault_id, from 1 (R276). -/
  nextId : Nat := 1
  deriving DecidableEq, Repr

/-- An address space (R262), with its pinned 64 MiB pages (R270), as page numbers va ÷ 2²⁶. -/
structure ASpace where
  part : Nat
  root : Nat
  pins : List Nat := []
  deriving DecidableEq, Repr

/-- A translation-cache entry (R266): 2 GiB or 64 MiB page `vpn` (va ÷ 2³¹ or ÷ 2²⁶). -/
structure TcEntry where
  asid : Nat
  big : Bool
  vpn : Nat
  leaf : W64
  locked : Bool := false
  /-- Its place in the set, and its age (R229, R266). -/
  way : Nat := 0
  age : Nat := 2
  deriving DecidableEq, Repr

/-- A cached pointer (R266): the level it was read at, the VA bits from its index up, and the table that it names. -/
structure PtrEntry where
  asid : Nat
  lvl : Nat
  key : Nat
  addr : Nat
  deriving DecidableEq, Repr

/-- An engine stalled on a fault (Table 11-4), with what replays. -/
inductive Stall where
  | group (c g : Nat)
  | atomiser (die : Nat)
  | brimCopy (ctx : Nat)
  | hostCopy (ctx : Nat)
  /-- A processor core, and the exception code of its access (R280). -/
  | proc (k code : Nat)
  | nose (ctx : Nat)
  deriving DecidableEq, Repr

/-- A FAULT_MIGRATE that runs (R283): its mailbox, host address, frame address and leaf. -/
structure Migration where
  mbx : Nat
  host : Nat
  frame : Nat
  leaf : W64
  /-- Target beat, and age among all items. -/
  target : Nat := 0
  age : Nat := 0
  /-- Next piece of 64 KiB to deal, and pieces in flight or left. -/
  next : Nat := 0
  left : Nat := 1024
  deriving DecidableEq, Repr

/-- A fault record (R276, Table 11-10). -/
structure FaultRec where
  id : Nat
  part : Nat
  asid : Nat
  /-- va ÷ 2²⁶. -/
  page : Nat
  va : Nat
  reason : Nat
  flags : Nat
  source : Nat
  engine : Nat
  status : Nat
  context : Nat
  beat : Nat
  stalled : List Stall
  /-- FAULT_MIGRATE running (R283). -/
  migrating : Option Migration := none
  deriving DecidableEq, Repr

/-- A SHOOTDOWN or ASPACE_DESTROY that waits (R272, R273): mailbox, asid, first page, count, and whether it is an
ASPACE_DESTROY, which has no reply word. -/
structure Shoot where
  mbx : Nat
  asid : Nat
  first : Nat
  count : Nat
  destroys : Bool
  /-- The cached leaves are gone; a migration in the run holds it back until then (R273). -/
  started : Bool := true
  deriving DecidableEq, Repr

/-! ## Contexts and items -/

/-- A cost record's resource entry (Table 02-11). -/
structure CostEntry where
  kind : Nat
  index : Nat
  lines : Nat
  rand : Nat
  deriving DecidableEq, Repr

/-- A cost record (Table 02-10), as read. -/
structure Cost where
  kind : Nat := 0
  slots : Nat := 1
  array : Nat := 0
  vector : Nat := 0
  scratch : Nat := 0
  energy : Nat := 0
  regions : W64 := 0
  cores : BitVec 16 := 0
  crown : Nat := 0
  footprint : Nat := 0
  entries : List CostEntry := []
  deriving DecidableEq, Repr

/-- An admission record (Table 02-14). -/
structure AdmRec where
  verdict : Nat
  reason : Nat
  index : Nat
  slice : Nat
  beat : Nat
  earliest : Nat
  deriving DecidableEq, Repr

/-- A delay record (Table 02-15). -/
structure Delay where
  age : Nat := 0
  queue : Nat := 0
  cause : Nat := 0
  level : Nat := 0
  inst : Nat := 0
  deriving DecidableEq, Repr

/-- A slice of an update item under way: the call's program block and key_base, its shard entries, the slice's ranges
(shard, first element, count), and the blocks done by each of its cores, counted in the cost record's order (R174, R474). -/
structure UpdRun where
  prog : List Byte
  key : W64
  shards : List Byte
  ranges : List (Nat × Nat × Nat)
  finished : Tab Nat := []
  deriving DecidableEq, Repr
/-- A work item, from the moment the Nose takes its entry (R50, R68, R370). -/
structure Item where
  seq : Nat
  /-- Body bytes 0 to 111 of the entry (Tables 15-5, 15-6). -/
  body : List Byte
  kind : Nat
  /-- Class now, and class as submitted: 0 FIRM, 1 SOFT, 2 BULK. -/
  cls : Nat
  sub : Nat
  /-- Target beat while SOFT. -/
  target : Nat
  /-- 0 admission awaited, 1 waiting, 2 running, 3 ended and its COMPLETE entry not yet due. -/
  phase : Nat
  /-- Order of age among all items. -/
  age : Nat
  beats : Nat := 0
  adm : Option AdmRec := none
  delay : Delay := {}
  /-- Delay causes, with level and instance, that held in the beat under way and no longer hold (R68). -/
  lapsed : List (Nat × Nat × Nat) := []
  /-- Next slice to start, slices in all, and whether one runs. -/
  slice : Nat := 0
  slices : Nat := 1
  running : Bool := false
  /-- Argument blocks and costs of the slices, once read. -/
  args : List Nat := []
  costs : List Cost := []
  /-- Next block or byte of a copy, bytes moved, poisoned lines. -/
  next : Nat := 0
  moved : Nat := 0
  poisoned : Nat := 0
  /-- Host copy pieces in flight or left. -/
  pieces : Nat := 0
  /-- Die whose copy engines run a copy, chosen as it starts (R473). -/
  die : Option Nat := none
  /-- What the update kernel read for the slice under way, and how far it is (R174, R474). -/
  upd : Option UpdRun := none
  /-- Data packets sent in the beat under way, by port (R55). -/
  sent : Tab Nat := []
  /-- Status it ends with. -/
  status : Nat := 0
  /-- The item fills a merged slice of these (ctx, seq), oldest first (R127); `lead` of another. -/
  merged : List (Nat × Nat) := []
  member : Bool := false
  cancelled : Bool := false
  /-- The signaller of this FIRM wait was cancelled or stopped (R53). -/
  orphan : Bool := false
  /-- Footprint of an accepted FIRM item: pages (va ÷ 2²⁶) and kinds, bit 0 read, 1 write, 2 fetch (R472). -/
  foot : List (Nat × Nat) := []
  /-- Beat in which it ended, and the class byte to report where that is not the item's (R374). -/
  endBeat : Nat := 0
  clsByte : Option Nat := none
  detail : List Byte := []
  deriving DecidableEq, Repr

/-- A context (R365 to R370). -/
structure Ctx where
  asid : Nat
  part : Nat
  nonsat : Bool
  sqHost : Bool
  cqHost : Bool
  headHost : Bool
  irq : Bool
  sqLog2 : Nat
  cqLog2 : Nat
  sqBase : Nat
  cqBase : Nat
  vector : Nat
  watchdog : Nat
  headAddr : Nat
  seed : W64
  winbase : Nat
  /-- Stack whose context store holds its entry (R366). -/
  store : Nat
  sqHead : Nat := 0
  tail : Nat := 0
  lastSeq : BitVec 16 := 0
  sqPhase : Bool := true
  nextSeq : Nat := 1
  cqTail : Nat := 0
  cqHead : Nat := 0
  cqPhase : Bool := true
  /-- Completion entries held, oldest first, as 112-byte bodies and whether they interrupt (R351). -/
  held : List (List Byte × Bool) := []
  stopped : Bool := false
  stopStatus : Nat := 0
  items : List Item := []
  /-- Readings of an entry that failed so far (R349). -/
  torn : Nat := 0
  /-- CONTEXT_DESTROY waits in this mailbox (R367). -/
  destroy : Option Nat := none
  deriving DecidableEq, Repr

/-! ## The planner -/

/-- A FIRM slice placed in a beat (R62, Table 02-8). -/
structure Placed where
  ctx : Nat
  seq : Nat
  part : Nat
  slice : Nat
  last : Bool
  kind : Nat
  beat : Nat
  cost : Cost
  /-- Order of acceptance (R73), the cap and the job clock and floor it was accepted under (R61, R77). -/
  order : Nat
  cap : Nat
  clock : Nat
  floor : Nat
  /-- Left its contract: no accord entry, but its room up to beat n+2 stays taken (R65). -/
  ghost : Bool := false
  deriving DecidableEq, Repr

/-- What a sealed accord of one partition and beat keeps beside its entries (Table 02-7): that entries were removed; and, in
the record written at its seal (`head`), the regions that were being woken then, those that carry its floor (R417), its issue
rate, and whether a lockstep job stood (R49). -/
structure Sealed where
  part : Nat
  beat : Nat
  removed : Bool := false
  woken : List Nat := []
  carry : List Nat := []
  head : Bool := false
  issue : Nat := 0
  lock : Bool := false
  deriving DecidableEq, Repr

/-- The beat planner (R57 to R73). Capacities are those in force since the last boundary. -/
structure Planner where
  placed : List Placed := []
  /-- Planned floor, ramp floor and wake energy: partition, beat, µJ (R414, R416, R425). -/
  floor : List (Nat × Nat × Nat) := []
  sealed_ : List Sealed := []
  /-- Mean input at the seal of a beat's accord, in 10 mV (R415). -/
  sealVolts : List (Nat × Nat) := []
  /-- Highest beat whose accord is sealed. -/
  sealedTo : Nat := 1
  nextOrder : Nat := 0
  nextAge : Nat := 0
  /-- Caps by the first beat that they apply to, newest first, for beats without FIRM slices (R61). -/
  caps : List (Nat × Nat) := []
  /-- Lines per µs of each link group and sector units per µs of each stack, where they fell. -/
  links : Tab Nat := []
  stks : Tab Nat := []
  portsDown : List Nat := []
  /-- Stacks on their cached rate table (R456). -/
  cached : List Nat := []
  /-- Regions whose cores are out of the capacity tables (R427). -/
  failed : W64 := 0
  deriving DecidableEq, Repr

/-! ## Tensor cores -/

/-- A mask-stack entry (R90). -/
structure MaskEntry where
  loop : Bool
  addr : Nat
  outer : W32
  other : W32
  deriving DecidableEq, Repr

/-- What a group waits for. -/
inductive Wait where
  | none
  | barrier (die : Bool) (key : Nat)
  /-- FLG.ACQ: address, value, at-least, rd, scope. -/
  | flag (va : Nat) (v : W64) (ge : Bool) (rd scope : Nat)
  /-- SEM.ACQ: address, count, rd, scope. -/
  | sem (va : Nat) (v : W64) (rd scope : Nat)
  /-- A result of the matrix or vector engine (MX.TRK, VX.TRK). -/
  | engine (vec : Bool)
  /-- The group's engine instructions must end before its next instruction is performed (R94, R95, R101). -/
  | fence
  /-- A translation fault; the instruction word replays (R275). -/
  | fault (w : W32)
  deriving DecidableEq, Repr

/-- A watchdog sample (R104). -/
structure Sample where
  depth : Nat
  top : Option MaskEntry
  active : W32
  deriving DecidableEq, Repr

/-- A resident thread group (R79, R100, R108). -/
structure Group where
  pc : Nat
  active : W32
  stack : List MaskEntry := []
  /-- Integer and floating-point registers, lane × 32 + register. -/
  x : Tab W64 := []
  f : Tab W64 := []
  /-- frm and fflags of each lane. -/
  fcsr : Tab (BitVec 8) := []
  scope : BitVec 2 := 3
  ctx : Nat
  seq : Nat
  slice : Nat
  xgroup : Nat
  instret : Nat := 0
  wait : Wait := .none
  /-- Package time at launch, from which `cycle` counts (R86). -/
  launched : Nat := 0
  wdCount : Nat := 0
  wdSample : Option Sample := none
  issued : Bool := false
  vtracker : W32 := 0
  /-- 0 FIRM, 1 SOFT, 2 BULK. -/
  cls : Nat
  deriving DecidableEq, Repr

/-- A queued engine instruction, with its operands as read at issue. -/
structure EngOp where
  slot : Nat
  w : W32
  pc : Nat
  a : W64
  b : W64
  ctx : Nat
  seq : Nat
  slice : Nat
  /-- Active lanes and mask depth at issue (Table 03-10). -/
  lanes : W32
  depth : Nat
  /-- A debug step issued it, and ends with it (R110). -/
  stepped : Bool := false
  /-- Rows that it completed before a spill interrupted it, and the drain descriptor that it had read (R117). -/
  row : Nat := 0
  dsc : Option (List Byte × Bool) := none
  deriving DecidableEq, Repr

/-- The matrix state that a slice holds (R116). -/
structure MxData where
  holder : Option (Nat × Nat × Nat) := none
  configured : Bool := false
  word : W64 := 0
  spill : Nat := 0
  /-- T[k][n] at k × 32 + n, as stored bit patterns; the tile's format is in `word`. -/
  tile : Tab W64 := []
  tileValid : Bool := false
  /-- The tile came from a poisoned or mismatched line (R121, R293). -/
  tileTaint : Bool := false
  /-- Accumulators: (array × 256 + row) × 32 + n. -/
  acc : Tab W64 := []
  /-- Tainted rows, array × 256 + row. -/
  taint : List Nat := []
  tracker : W32 := 0
  deriving DecidableEq, Repr

/-- A line of a core's L1 (R193, R234): line number, age, its 256 bytes, and its poison. -/
structure L1Line where
  line : Nat
  age : Nat
  data : List Byte
  poison : Bool := false
  deriving DecidableEq, Repr

/-- One tensor core. -/
structure Core where
  groups : Tab Group := []
  mx : MxData := {}
  spilled : List MxData := []
  /-- Queues, head first. -/
  mxq : List EngOp := []
  vxq : List EngOp := []
  /-- L1 lines, by set × 8 + way (Table 09-1). -/
  l1 : Tab L1Line := []
  /-- Group slot that issued last (R93). -/
  last : Nat := 15
  deriving DecidableEq, Repr

/-- A barrier in use (R97). -/
structure Barrier where
  count : Nat
  ctx : Nat
  waiting : List (Nat × Nat)
  deriving DecidableEq, Repr

/-- A descriptor in an Atomiser's queue (R131, R132). -/
structure AtDesc where
  ticket : Nat
  ctx : Nat
  seq : Nat
  cls : Nat
  pc : Nat
  core : Nat
  slot : Nat
  lanes : W32
  depth : Nat
  words : List W64
  /-- The descriptor was read poisoned. -/
  poison : Bool := false
  /-- Next N-chunk. -/
  nc : Nat := 0
  amax : W32 := 0
  /-- Output bytes of lines that a later chunk of it writes too, by line of virtual address, with poison (R186). -/
  part : Tab (List (Nat × Byte) × Bool) := []
  stalled : Bool := false
  deriving DecidableEq, Repr

/-- The debug registers and halt state of a region (Tables 03-12, 03-13). -/
structure DbgRegion where
  stepCore : Nat := 0
  stepGroup : Nat := 0
  /-- 0 not halted, else halt_cause. -/
  cause : Nat := 0
  stepWait : Bool := false
  stepDone : Bool := false
  /-- A step that has not ended. -/
  stepping : Bool := false
  /-- The region was halted at some moment of this beat (R453). -/
  haltedInBeat : Bool := false
  deriving DecidableEq, Repr

/-- BRM_DBG_SEL (Table 03-14). -/
structure DbgSel where
  core : Nat := 0
  group : Nat := 0
  lane : Nat := 0
  space : Nat := 0
  index : Nat := 0
  deriving DecidableEq, Repr

/-! ## Memory, caches, coherence -/

/-- What a copy of a line has beside its bytes (R289): its poison, and its word as the difference from the word of the
bytes (R290). -/
structure Mark where
  poison : Bool := false
  sill : W64 := 0
  deriving DecidableEq, Repr

/-- Device memory: bytes of the home copies; poison (R206, R214) and stored words as their difference from the word of the
bytes (R290), by line number, of the copies in the stacks, the scratchpads and the reserve tier. -/
structure Mem where
  bytes : List Host.Cell := []
  poison : List Nat := []
  sill : Tab W64 := []
  deriving DecidableEq, Repr

/-- A line of a stack-home L2 (R227): line number, dirty, age, and its own poison and word. -/
structure L2Line where
  line : Nat
  dirty : Bool
  age : Nat
  mark : Mark := {}
  deriving DecidableEq, Repr

/-- A stack-home L2 and its side buffer (R227 to R240). -/
structure L2 where
  enabled : Bool := false
  invalidated : Bool := false
  busy : Bool := false
  prefetch : Bool := true
  seqDetect : Bool := true
  /-- Disabled bank-ways, bank × 16 + way. -/
  off : List Nat := []
  /-- Corrected-error counters of bank-ways. -/
  ce : Tab Nat := []
  /-- By (bank × 384 + set) × 16 + way. -/
  lines : Tab L2Line := []
  /-- Store streams and read streams, matched most recently first: next line, count. -/
  stores : List (Nat × Nat) := []
  reads : List (Nat × Nat) := []
  /-- Side buffer, oldest first, each line with its poison and word, and prefetches in flight. -/
  side : List (Nat × Mark) := []
  flight : List Nat := []
  deriving DecidableEq, Repr

/-- A stack and its controller (R201, R209, R215, R223). -/
structure Stack where
  /-- 0 online, 1 offline, 2 absent. -/
  state : Nat := 0
  temp : Nat := 40
  elevated : Bool := false
  /-- Row under repair. -/
  repair : Option Nat := none
  ceTotal : Nat := 0
  ueTotal : Nat := 0
  /-- Rows with a corrected error, and the package time of the first; rows that wait for repair, in their order. -/
  ceRows : Tab Nat := []
  due : List Nat := []
  /-- Rows repaired softly since the last full reset, and banks whose spare rows are used up. -/
  soft : Nat := 0
  noSpare : List Nat := []
  /-- Mailbox of the STACK_RETEST that runs. -/
  retest : Option Nat := none
  /-- Metered to 50 % by a thermal emergency. -/
  hot : Bool := false
  deriving DecidableEq, Repr

/-- States of a line at a caching agent (R250). -/
inductive Moesi where
  | M | O | E | S
  deriving DecidableEq, Repr

/-- A line at a caching agent, with its bytes, poison and word (R289). -/
structure AgentLine where
  st : Moesi
  way : Nat
  data : List Byte := []
  poison : Bool := false
  sill : W64 := 0
  /-- Age of the line (R229, R233). -/
  age : Nat := 2
  deriving DecidableEq, Repr

/-- A write-back buffer in use (R255), the way that the line left, and the ACK that waits for its end (R254): line and
tag. -/
structure WbBuf where
  line : Nat
  phase : Bool
  way : Nat := 0
  ack : Option (Nat × Nat) := none
  deriving DecidableEq, Repr

/-- Filter states (R253). -/
inductive FSt where
  | S | O | U
  deriving DecidableEq, Repr

/-- A snoop-filter entry not in F_I. -/
structure FEntry where
  line : Nat
  st : FSt
  deriving DecidableEq, Repr

/-- A request's kind at a home. -/
inductive ReqKind where
  | rdShared | rdUnique | upgrade | rdCur
  | wrFull (hint : Option Nat)
  | wrPart (mask : BitVec 256)
  | atomic (amo width : Nat) (operands : List (Nat × W64))
  | lr
  | sc (mask : BitVec 256)
  deriving DecidableEq, Repr

/-- A request as it waits or runs at a home. -/
structure HomeReq where
  q : Requester
  kind : ReqKind
  line : Nat
  data : List Byte := []
  poison : Bool := false
  medium : Medium := .good
  beat : Nat := 0
  deriving DecidableEq, Repr

/-- An open transaction (R247): what it still awaits. -/
structure Txn where
  req : HomeReq
  /-- RSP_FCOUNT awaited. -/
  query : Bool
  /-- Snoop replies sent, once the count is known. -/
  replies : Nat := 0
  /-- Crossing write-backs awaited: agent, buffer, phase. -/
  wbs : List (Nat × Nat × Bool) := []
  dirty : Option (List Byte × Bool) := none
  /-- The filter's answer: requester's entry (0 F_I, 1 F_S, 2 F_O, 3 F_U), another holder listed. -/
  entry : Nat := 0
  other : Bool := false
  /-- Agents that answered the snoop. -/
  answered : List Nat := []
  /-- Completion sent; the requester's ACK, or the offer's answer, is awaited. -/
  ackAwaited : Bool := false
  /-- Granted state: 1 S, 2 E, 3 M. -/
  grant : Nat := 0
  deriving DecidableEq, Repr

/-- A Felt message in flight (Table 13-4), named by its opcode. -/
structure FeltMsg where
  op : Nat
  src : Nat
  dst : Nat
  tag : Nat
  line : Nat
  body : Nat := 0
  data : List Byte := []
  poison : Bool := false
  /-- The word that goes with the line, as the difference from the word of the data. -/
  sill : W64 := 0
  /-- Class of the item that it serves, which ranks it where it joins the egress: 0 FIRM, 1 SOFT, 2 BULK (R312). -/
  cls : Nat := 1
  /-- A line between a caching agent and a home, which crosses the Crown (R244). -/
  crown : Bool := false
  /-- A request on its way to its home. -/
  req : Option HomeReq := none
  deriving DecidableEq, Repr

/-- A line of a processor core's own cache (R224, R235): its bytes are those of the L3's entry, which includes it. -/
structure PLine where
  line : Nat
  age : Nat := 2
  /-- Written, in the L2, and not yet in the L3. -/
  dirty : Bool := false
  deriving DecidableEq, Repr
/-- The caches of a processor core (Table 09-1): L1I and L1D by set × 8 + way, L2 by set × 16 + way. -/
structure PCache where
  l1i : Tab PLine := []
  l1d : Tab PLine := []
  l2 : Tab PLine := []
  deriving DecidableEq, Repr

/-- Homes, filter and caching agents (10). -/
structure Coh where
  txns : Tab Txn := []
  waiting : List HomeReq := []
  presence : Tab Nat := []
  filter : Tab FEntry := []
  /-- By agent × 2³⁴ + line. -/
  lines : Tab AgentLine := []
  /-- By agent × 64 + buffer. -/
  wb : Tab WbBuf := []
  /-- L3 phases by (agent × 64 + buffer) × 16 + home, from 1 (Table 10-7); last phase applied at homes, likewise, from 0. -/
  phases : Tab Bool := []
  applied : Tab Bool := []
  /-- LR reservations by processor core × 16 + home. -/
  resv : Tab Nat := []
  /-- Caches of the processor cores. -/
  pcache : Tab PCache := []
  /-- Agents to which the snoop of an engine's access is held by their link (R259). -/
  snooped : List Nat := []
  /-- Watches: line, core. -/
  watches : List (Nat × Nat) := []
  lost : List Nat := []
  /-- Messages sent and not yet delivered. -/
  net : List FeltMsg := []
  /-- Completions delivered to requesters: die, tag, op, value. -/
  got : List FeltMsg := []
  deriving DecidableEq, Repr

/-- One UCIe module, Crown modules 0-87 as LINK_STATUS orders them, ring modules 88 + s (R304 to R326). -/
structure Module where
  /-- 0 down, 1 x32 lower, 2 x32 upper, 3 x64. -/
  width : Nat := 3
  /-- 0 active, 1 retraining, 2 down, 3 isolated. -/
  state : Nat := 0
  crc : Nat := 0
  retrains : Nat := 0
  mismatches : Nat := 0
  sparesLo : Nat := 0
  sparesHi : Nat := 0
  /-- Package times of the retries of the last ms, and failures in succession of one retry (R314). -/
  retries : List Nat := []
  failures : Nat := 0
  /-- Package time at which the retraining that runs began. -/
  since : Nat := 0
  /-- Lanes that failed the last test, and halves abandoned. -/
  badD : W64 := 0
  badT : BitVec 8 := 0
  lostLo : Bool := false
  lostHi : Bool := false
  deriving DecidableEq, Repr

/-- The Felt fabric. -/
structure Felt where
  modules : Tab Module := []
  /-- Credits held by the sender, by (group × 2 + direction) × 6 + VC, where they differ from Table 13-6. -/
  credits : Tab Nat := []
  /-- Requests held for a retraining group, in their order (R318). -/
  held : List HomeReq := []
  /-- Groups that have held a request for more than 1 ms, until they return (R318). -/
  expired : List Nat := []
  /-- Messages that wait for credit, in their order. -/
  stalled : List FeltMsg := []
  /-- Retraining ns of a group in this beat, and groups that had no active module at some moment of it (R72, R316). -/
  retrainNs : Tab Nat := []
  heldBeat : List Nat := []
  /-- Contexts whose request met a retraining group in this beat, with the group (R72). -/
  heldReq : List (Nat × Nat) := []
  deriving DecidableEq, Repr

/-! ## Peer ports and jobs -/

/-- A member entry of a tree descriptor (Table 16-7). -/
structure Member where
  pfx : W64
  serial : Nat
  parent : Nat
  parent2 : Nat
  deriving DecidableEq, Repr

/-- A job record (R376, R396 to R401). -/
structure Job where
  id : Nat
  part : Nat
  lockstep : Bool
  root : Bool
  floor : Nat
  start : Nat
  epoch : Nat
  period : Nat
  clock : Nat
  self : Nat
  asid : Nat
  members : List Member
  digest : W64
  /-- 0 armed, 1 committed, 2 running, 3 stopped, 4 aborted. -/
  state : Nat := 0
  /-- Members that sent ARM_ACK agree; a refusal came; our own agreement was sent. -/
  agreed : List Nat := []
  refused : Bool := false
  sentAck : Bool := false
  /-- Heartbeats: member, beat. -/
  beats : List (Nat × Nat) := []
  /-- JOB_STOP received: missing member, beat. -/
  stopping : Option (Nat × Nat) := none
  order : Nat := 0
  deriving DecidableEq, Repr

/-- An Esrik packet sent and not acknowledged, or to be sent. Operation code and header, with its body. -/
structure OutPkt where
  op : Nat
  hdr : Pkt
  words : List W64 := []
  data : List Byte := []
  sill : List W64 := []
  /-- Context and item it belongs to. -/
  own : Option (Nat × Nat) := none
  deriving DecidableEq, Repr

/-- A path (R382), by ((job, peer), port). -/
structure Path where
  job : Nat
  peer : Nat
  port : Nat
  nextSeq : Nat := 0
  expect : Nat := 0
  unacked : List OutPkt := []
  /-- Retries so far: the wait doubles from 20 to 1,280 µs. -/
  retries : Nat := 0
  /-- Packets received since the last ACK. -/
  owed : Nat := 0
  deriving DecidableEq, Repr

/-- A collective under way (R389, R390): lines received, by member and line. -/
structure Coll where
  job : Nat
  coll : Nat
  ctx : Nat
  seq : Nat
  /-- member, line offset, 256 bytes, poison. -/
  parts : List (Nat × Nat × List Byte × Bool) := []
  deriving DecidableEq, Repr

/-- An ARM packet as received (R398). -/
structure ArmRec where
  job : Nat
  start : Nat
  epoch : Nat
  period : Nat
  lockstep : Bool
  floor : Nat
  clock : Nat
  digest : W64
  /-- Member that sent it, and this package's index as the packet names it. -/
  sender : Nat
  self : Nat
  deriving DecidableEq, Repr

/-- Peer ports, paths, jobs (16). -/
structure Peer where
  /-- Ports whose link is down. -/
  down : List Nat := []
  pfx : Option W64 := none
  jobs : List Job := []
  /-- ARM packets held until our own JOB_ARM. -/
  arms : List ArmRec := []
  paths : List Path := []
  /-- Packets put on the wire, newest first. -/
  out : List OutPkt := []
  colls : List Coll := []
  /-- Lines of RECV ranges written: ctx, seq, line address. -/
  recvd : List (Nat × Nat × Nat) := []
  nextOrder : Nat := 0
  deriving DecidableEq, Repr

/-! ## Power and wake -/

/-- Power, supply and wake (17). -/
structure Power where
  /-- The converters run. -/
  on : Bool := true
  cap : Nat := 4000
  smoothing : Bool := false
  floor256 : Nat := 0
  /-- CRN_PWR_INPUT fields over the last complete beat; volts and amps in 10 mV and 10 mA. -/
  powerW : Nat := 1000
  volts : Nat := 4800
  amps : Nat := 2083
  /-- CRN_PWR_STATUS.low_line, set at each boundary from the beat that ended. -/
  lowLine : Bool := false
  /-- Idle array burn of the governor in units of 10 µW (R412). -/
  burn : Nat := 0
  tilesFailed : List Nat := []
  /-- Emergencies that hold: condition 1 droop, 2 thermal, 3 tile thermal; source kind; source (R418). -/
  emergencies : List (Nat × Nat × Nat) := []
  /-- Emergencies released and applied from the next boundary. -/
  throttled : BitVec 16 := 0
  /-- Throttled at some moment of this beat (R72). -/
  throttledBeat : BitVec 16 := 0
  prevShutdown : Bool := false
  thermalSeen : Bool := false
  droopSeen : Bool := false
  lowlineSeen : Bool := false
  /-- The governor held issue or processor dies, in this beat and in the last. -/
  governing : Bool := false
  governed : Bool := false
  /-- SOFT and BULK matrix issue is held by the governor (R412). -/
  heldSoft : Bool := false
  /-- Issue rate in force by Brim die, in 32nds, where it is not 32. -/
  issue : Tab Nat := []
  /-- Region states: 0 active, 1 doze, 2 hold, 3 off; unlisted off. -/
  region : Tab Nat := []
  /-- Wakes in progress, and wake orders of the planner by region. -/
  waking : List Nat := []
  ordered : List Nat := []
  /-- Regions that leave off for a shallower sleep state, which they enter once awake (R424). -/
  leaving : Tab Nat := []
  /-- When the characterised wake time of a wake in progress is over, in ns. -/
  wakeEnd : Tab Nat := []
  failed : W64 := 0
  /-- Regions used in this beat by a group, an engine or a window access (R424). -/
  used : W64 := 0
  /-- Input has been below 10 V since a shutdown, ms (R420). -/
  below10 : Nat := 0
  /-- Input capacitance charging (R405). -/
  soft : Bool := false
  deriving DecidableEq, Repr

/-- A host copy engine's piece (R352): context, item, offset; or a piece of a migration, by partition and fault id (R283). -/
structure Piece where
  ctx : Nat
  seq : Nat
  off : Nat
  mig : Option (Nat × Nat) := none
  deriving DecidableEq, Repr

/-- What a processor core last got (R192, R373): a value, an exception code (RISC-V access faults: 1 fetch,
5 load, 7 store/AMO), or a stall. -/
inductive ProcGot where
  | value (v : W64)
  | done
  | exception (code : Nat)
  | stalled
  deriving DecidableEq, Repr

/-- A request of a processor core that its L3 has sent to a home. -/
structure ProcReq where
  op : ProcOp
  addr : Nat
  size : Nat
  v : W64
  /-- Way that the line will take. -/
  way : Nat := 0
  /-- Address space and page of the translation that it holds (R272). -/
  asid : Nat := 0
  page : Nat := 0
  deriving DecidableEq, Repr

/-- Copies that the I3C target gives, taken at each beat boundary (Table 20-7): CRN_ID, CRN_PWR_INPUT,
CRN_PWR_STATUS and CRN_THERM_0 to 3. -/
structure I3c where
  id : W64 := 0
  pwrInput : W64 := 0
  pwrStatus : W64 := 0
  therm : List W64 := [0, 0, 0, 0]
  deriving DecidableEq, Repr

/-- The running command's own: conditions of storage still to be met, dies it found lost for good, whether an
access of it must wait, regions it wakes, and for whom it reads. Each is empty between commands. -/
structure Run where
  media : Media := []
  fatal : List Nat := []
  held : Bool := false
  wakes : List Nat := []
  /-- Contexts whose request meets a retraining link group, with the group (R72). -/
  links : List (Nat × Nat) := []
  /-- Context of the request under way, 0xFFFFFFFF for none (Table 12-5). -/
  who : Nat := 0xFFFFFFFF
  /-- Agents to which a snoop of the command is held by their link (R259). -/
  snooped : List Nat := []
  /-- The engine at work: its die, the point that makes the words of its output lines, and the points of its own that a
  line which it reads meets, each with its kind of check (Tables 12-2, 12-5). -/
  die : Option Nat := none
  maker : Nat := 0
  points : List (Nat × Nat) := []
  /-- Its lines cross the Crown between any two dies (R473). -/
  crown : Bool := false
  deriving DecidableEq, Repr

/-- The package. -/
structure State where
  /-- Commands that wait, first in, first out. -/
  pending : List Instr := []
  rst : ResetSt := {}
  flash : Flash := {}
  pins : Pins := {}
  /-- By die-level number, the Crown 24. -/
  dies : Tab Die := []
  evt : EvtLog := {}
  host : HostIf := {}
  /-- Host memory, as far as the device wrote or read it (log 8). -/
  hostMem : List Host.Cell := []
  time : TimeSt := {}
  parts : Tab Partition := []
  fq : Tab FaultQ := []
  aspaces : Tab ASpace := []
  /-- Translation caches by die-level number (R266). -/
  tc : Tab (List TcEntry) := []
  /-- Cached level-1 and level-2 pointers by die, newest first (R266). -/
  ptrs : Tab (List PtrEntry) := []
  faults : List FaultRec := []
  shoots : List Shoot := []
  ctxs : Tab Ctx := []
  plan : Planner := {}
  cores : Tab Core := []
  /-- Cluster barriers by cluster × 8 + id; die barriers by die × 8 + id. -/
  barCl : Tab Barrier := []
  barDie : Tab Barrier := []
  atq : Tab (List AtDesc) := []
  /-- Next Atomiser ticket by die, less one. -/
  ticket : Tab Nat := []
  dbg : Tab DbgRegion := []
  dbgSel : Tab DbgSel := []
  mem : Mem := {}
  l2 : Tab L2 := []
  stks : Tab Stack := []
  coh : Coh := {}
  felt : Felt := {}
  /-- log₂ of the reserve tier's size, 0 when absent; the CXL link is up. -/
  reserveLog2 : Nat := 37
  peer : Peer := {}
  pwr : Power := {}
  i3c : I3c := {}
  /-- Host copy engines by number. -/
  hce : Tab Piece := []
  proc : Tab ProcGot := []
  procReq : Tab ProcReq := []
  /-- Saturation counters by level × 1024 + instance: last_beat_us, total_us (R38). -/
  sat : Tab (Nat × Nat) := []
  /-- Mismatch events logged in this beat by point, and those beyond 64: count, and the first's address, previous point and
  kind (R301). -/
  mism : Tab (Nat × Nat × Nat × Nat) := []
  /-- Free values drawn so far: the model's own field (log 11). -/
  free : Nat := 0
  /-- Empty between commands. -/
  run : Run := {}
  deriving DecidableEq, Repr

/-- The identity word of die `d` at mailbox-ready (Table 01-3): kind, site, leakage bin 0, contract clock
and interposer serial 1. Fused; DESIGN CHOICE (log 2). -/
def State.fusedIdentity (d : Nat) : W64 :=
  let w (kind site clock : Nat) : W64 :=
    BitVec.ofNat 64 (kind * 2 ^ 60 + site * 2 ^ 56 + clock * 2 ^ 40 + 1)
  if d < 16 then w 2 d 1400 else if d < 20 then w 3 (d - 16) 2600 else if d < 24 then w 4 (d - 20) 1500 else w 1 0 1500

/-- The package at mailbox-ready (R11, R438, Table 18-3), after a power-up with cached training: the field
defaults, the 25 dies with their fuses, and the BOOT record in the event log (R432, log 1). -/
def State.reset : State where
  dies := (List.range 25).map fun d => (d, { identity := State.fusedIdentity d })
  evt := { slots := [(0, { code := 0x0101, cls := 0, seq := 1, time := 0, beat := 0,
                           payload := [BitVec.ofNat 64 (2800 * 2 ^ 32), 0, 0, 0, 0] })]
           tail := 1, unread := 1, nextSeq := 2 }

/-- Why the machine stops. -/
inductive Fault where
  /-- Raised by SOFT_START, POWER_UP and GOVERNOR_SAMPLE: the input lies beyond Table 20-4, where R464 defines
  no behaviour. Safe: the model stops where the hardware may go on. -/
  | outsideRatings
  deriving DecidableEq, Repr

/-- Why a command has no meaning. -/
inductive Refusal where
  /-- Raised by an arm of exec whose command has no meaning yet. Safe. -/
  | notModelled (mnemonic : String)
  deriving DecidableEq, Repr

end Sys2Proof.Machine
end

