-- ==== Sys2Proof/Machine/Tab.lean ====
section
/-! DEFINITION. Sparse tables: sorted lists of keys and values, and helpers over lists and bit fields. -/

namespace Sys2Proof.Machine

open Sys2Proof

variable {α β : Type}

/-- The entry at a key, if listed. -/
def look : Tab α → Nat → Option α
  | [], _ => none
  | (j, v) :: t, k => if j = k then some v else look t k

/-- The entry at a key, or what an unlisted key reads as. -/
def lookD (t : Tab α) (k : Nat) (d : α) : α := (look t k).getD d

/-- The table without a key. -/
def del : Tab α → Nat → Tab α
  | [], _ => []
  | (j, v) :: t, k => if j = k then del t k else (j, v) :: del t k

/-- The table with an entry put in at its place. -/
def put : Tab α → Nat → α → Tab α
  | [], k, v => [(k, v)]
  | (j, u) :: t, k, v =>
    if k < j then (k, v) :: (j, u) :: t else if k = j then (k, v) :: t else (j, u) :: put t k v

/-- Writing what an unlisted key reads as removes the entry. -/
def putD [DecidableEq α] (t : Tab α) (k : Nat) (v d : α) : Tab α := if v = d then del t k else put t k v

/-- Keys strictly rising. -/
def tabSorted : Tab α → Bool
  | [] => true
  | [_] => true
  | (j, _) :: (k, v) :: t => decide (j < k) && tabSorted ((k, v) :: t)

/-- Canonical form: keys rising, no entry equal to the value of an unlisted key. -/
def tabWf [DecidableEq α] (t : Tab α) (d : α) : Bool := tabSorted t && t.all fun e => decide (e.2 ≠ d)

/-- Numbers strictly rising. -/
def rising : List Nat → Bool
  | [] => true
  | [_] => true
  | j :: k :: t => decide (j < k) && rising (k :: t)

/-- The list with `k` put in rising order, once. -/
def addSorted (k : Nat) : List Nat → List Nat
  | [] => [k]
  | j :: t => if k < j then k :: j :: t else if k = j then j :: t else j :: addSorted k t

/-- `len` bits of a number from bit `lo`. -/
def fld (n lo len : Nat) : Nat := n / 2 ^ lo % 2 ^ len

/-- A bit of a number. -/
def bit (n i : Nat) : Bool := n.testBit i

/-- A field's value at its place, cut to its width. -/
def inFld (v lo len : Nat) : Nat := v % 2 ^ len * 2 ^ lo

/-- A truth value as a bit. -/
def b01 (b : Bool) : Nat := if b then 1 else 0

/-- A list of bytes, lowest first, as a number (the spec's little-endian order). -/
def leNat : List Byte → Nat
  | [] => 0
  | b :: t => b.toNat + 256 * leNat t

/-- The `n` low bytes of a number, lowest first. -/
def leBytes : Nat → Nat → List Byte
  | 0, _ => []
  | n + 1, v => BitVec.ofNat 8 v :: leBytes n (v / 256)

/-- The part of a list from `i`, of length at most `n`. -/
def slice (l : List α) (i n : Nat) : List α := (l.drop i).take n

/-- A little-endian field of a byte list. -/
def leAt (l : List Byte) (i n : Nat) : Nat := leNat (slice l i n)

/-- ⌈a ÷ b⌉. -/
def ceilDiv (a b : Nat) : Nat := (a + b - 1) / b

/-- The bits set in a number below `n`, rising. -/
def bitsOf (n v : Nat) : List Nat := (List.range n).filter fun i => v.testBit i

/-- The number whose bits are those listed. -/
def ofBits (l : List Nat) : Nat := l.foldl (fun a i => a ||| 2 ^ i) 0

/-- Two's-complement value of `n` bits. -/
def signed (n v : Nat) : Int := if v % 2 ^ n < 2 ^ (n - 1) then (v % 2 ^ n : Nat) else (v % 2 ^ n : Nat) - (2 ^ n : Nat)

/-- The first element that passes a test, changed. -/
def modFirst (p : α → Bool) (f : α → α) : List α → List α
  | [] => []
  | a :: t => if p a then f a :: t else a :: modFirst p f t

/-- Every element that passes a test, changed. -/
def modAll (p : α → Bool) (f : α → α) (l : List α) : List α := l.map fun a => if p a then f a else a

/-- The list without its first element that passes a test. -/
def dropFirst (p : α → Bool) : List α → List α
  | [] => []
  | a :: t => if p a then t else a :: dropFirst p t

end Sys2Proof.Machine
end

