-- ==== Sys2Proof/Machine/Ops.lean ====
section
/-! DEFINITION. Operations that every family shares: outcomes, status codes, time, dies and partitions, the
event log, messages to the host, host memory, mailbox completion and free values. -/

namespace Sys2Proof.Machine

open Sys2Proof

/-- What a meaning answers. -/
abbrev Out := Host.Outcome State Fault Refusal

/-- The next state: the effect `t` of a command on everything but the queue of `s`. -/
def done (s t : State) : Out := .next { t with pending := s.pending, run := {} }

/-! ## Status codes (R378, Table 15-9) -/

namespace ST
abbrev ok := 0x0000
abbrev badOpcode := 0x0001
abbrev badPayload := 0x0002
abbrev capability := 0x0003
abbrev hostBuffer := 0x0004
abbrev bufferSmall := 0x0005
abbrev deviceFailed := 0x0006
abbrev hostLost := 0x0007
abbrev noContext := 0x0101
abbrev contextExists := 0x0102
abbrev contextStopped := 0x0103
abbrev tornEntry := 0x0104
abbrev groupException := 0x0105
abbrev groupStall := 0x0106
abbrev noItem := 0x0107
abbrev itemDone := 0x0108
abbrev itemCancelled := 0x0109
abbrev badItem := 0x010A
abbrev contextFull := 0x010B
abbrev noPartition := 0x0201
abbrev partitionExists := 0x0202
abbrev dieTaken := 0x0203
abbrev dieAbsent := 0x0204
abbrev shareFull := 0x0205
abbrev partitionLive := 0x0206
abbrev noAspace := 0x0207
abbrev aspaceExists := 0x0208
abbrev aspaceLive := 0x0209
abbrev stackForeign := 0x0301
abbrev windowForeign := 0x0302
abbrev addressHole := 0x0303
abbrev dieLost := 0x0304
abbrev dataPoisoned := 0x0305
abbrev pageContracted := 0x0306
abbrev pagePinned := 0x0307
abbrev pinInvalid := 0x0308
abbrev pinFull := 0x0309
abbrev noTable := 0x030A
abbrev faultGone := 0x030B
abbrev faultAborted := 0x030C
abbrev migrationOff := 0x030D
abbrev frameRetired := 0x030E
abbrev retireFull := 0x030F
abbrev notRetired := 0x0310
abbrev stackOffline := 0x0311
abbrev reserveClosed := 0x0312
abbrev reserveBusy := 0x0313
abbrev reserveLost := 0x0314
abbrev notMaintenance := 0x0315
abbrev regionFailed := 0x0316
abbrev overrunDemoted := 0x0401
abbrev contractBreach := 0x0402
abbrev firmPending := 0x0403
abbrev debugSuspended := 0x0404
abbrev accordGone := 0x0405
abbrev cacheEnabled := 0x0501
abbrev cacheNotInvalidated := 0x0502
abbrev capRange := 0x0601
abbrev smoothRange := 0x0602
abbrev timeUnlocked := 0x0701
abbrev jobArmed := 0x0702
abbrev jobBeat := 0x0703
abbrev jobClock := 0x0704
abbrev jobFloor := 0x0705
abbrev notProvisioned := 0x0706
abbrev noJob := 0x0707
abbrev jobExists := 0x0708
abbrev jobLate := 0x0709
abbrev debugOff := 0x0801
abbrev imageBad := 0x0B01
abbrev imageOld := 0x0B02
abbrev flashFail := 0x0B03
end ST

/-! ## Free values (log 11) -/

/-- A fresh free 64-bit value, and the state with the counter advanced. -/
def drawWord (s : State) : W64 × State := (Config.freeWord s.free, { s with free := s.free + 1 })
/-- A fresh free choice below `n`. -/
def drawBelow (n : Nat) (s : State) : Nat × State := (Config.freeNat s.free % n, { s with free := s.free + 1 })

/-! ## Time (R42 to R47) -/

/-- Length of a beat in ns (R44). -/
def TimeSt.beatNs (t : TimeSt) : Nat := 1000 * t.period
/-- CRN_BEAT_INDEX.index (Table 02-4). -/
def TimeSt.index (t : TimeSt) : Nat := (t.now - t.epoch) / t.beatNs
/-- The current beat. -/
def State.beat (s : State) : Nat := s.time.index
/-- The planning window W in µs (R47). -/
def TimeSt.window (t : TimeSt) : Nat := t.period - t.planGuard
/-- ⌈0.03 × period⌉ + 2 (Table 02-3). -/
def planGuardOf (period : Nat) : Nat := ceilDiv (3 * period) 100 + 2
/-- Effective guard in µs (R46). -/
def guardOf (period source accuracy : Nat) : Nat :=
  ceilDiv (30 * period + (if source = 0 then 0 else 2 * (accuracy - 200))) 1000

/-! ## Dies, stacks and partitions (R12 to R36) -/

/-- The die's record. -/
def State.die (s : State) (d : Nat) : Die := lookD s.dies d {}
/-- The die is present: neither isolated nor absent (R17). -/
def State.dieHere (s : State) (d : Nat) : Bool := (s.die d).state = 0
def State.setDie (s : State) (d : Nat) (f : Die → Die) : State := { s with dies := put s.dies d (f (s.die d)) }
/-- The stack's record. -/
def State.stack (s : State) (k : Nat) : Stack := lookD s.stks k {}
def State.setStack (s : State) (k : Nat) (f : Stack → Stack) : State :=
  { s with stks := putD s.stks k (f (s.stack k)) {} }
/-- State field of STK_STATUS: an absent die takes its stack with it (R17). -/
def State.stackState (s : State) (k : Nat) : Nat := if s.dieHere k then (s.stack k).state else 2
/-- The partition of a Brim die (R31). -/
def State.partOfBrim (s : State) (d : Nat) : Option Nat :=
  (s.parts.find? fun e => e.2.brims.getLsbD d).map (·.1)
/-- The partition of processor die `d`, 0 to 3. -/
def State.partOfProc (s : State) (d : Nat) : Option Nat :=
  (s.parts.find? fun e => e.2.procs.getLsbD d).map (·.1)
/-- The partition to which a die of the die level belongs, if any. -/
def State.partOfDie (s : State) (d : Nat) : Option Nat :=
  if d < 16 then s.partOfBrim d else if d < 20 then s.partOfProc (d - 16) else none
def State.part (s : State) (p : Nat) : Option Partition := look s.parts p
def State.setPart (s : State) (p : Nat) (f : Partition → Partition) : State :=
  match look s.parts p with
  | some q => { s with parts := put s.parts p (f q) }
  | none => s
/-- Brim dies of a partition, rising. -/
def Partition.brimList (q : Partition) : List Nat := bitsOf 16 q.brims.toNat
/-- Package contract clock (R18): the lowest among the Brim dies present, never below 1,400. With no Brim die present it
is 1,400 (DESIGN CHOICE, log 81: R18 gives no value there). -/
def State.clock (s : State) : Nat :=
  match (List.range 16).filter s.dieHere with
  | [] => 1400
  | ds => Nat.max 1400 (ds.foldl (fun m d => Nat.min m (fld (s.die d).identity.toNat 40 12)) 4095)
def State.core (s : State) (c : Nat) : Core := lookD s.cores c {}
def State.setCore (s : State) (c : Nat) (f : Core → Core) : State :=
  { s with cores := putD s.cores c (f (s.core c)) {} }
def State.l2Of (s : State) (d : Nat) : L2 := lookD s.l2 d {}
def State.setL2 (s : State) (d : Nat) (f : L2 → L2) : State := { s with l2 := putD s.l2 d (f (s.l2Of d)) {} }
def State.ctx (s : State) (c : Nat) : Option Ctx := look s.ctxs c
def State.setCtx (s : State) (c : Nat) (f : Ctx → Ctx) : State :=
  match look s.ctxs c with
  | some x => { s with ctxs := put s.ctxs c (f x) }
  | none => s
/-- State of a region: 0 active, 1 doze, 2 hold, 3 off (Table 17-11). -/
def State.regionState (s : State) (r : Nat) : Nat := lookD s.pwr.region r 3
def State.setRegion (s : State) (r v : Nat) : State :=
  { s with pwr := { s.pwr with region := putD s.pwr.region r v 3 } }
/-- The region is marked failed (R427). -/
def State.regionFailed (s : State) (r : Nat) : Bool := s.pwr.failed.getLsbD r
/-- The region of a tensor core (Table 01-4). -/
def regionOfCore (c : Nat) : Nat := c / 16
def dieOfCore (c : Nat) : Nat := c / 64
/-- Wake time of a region state in ns (Table 17-7). -/
def wakeNs (st : Nat) : Nat := if st = 0 then 0 else if st = 1 then 400 else if st = 2 then 15000 else 350000
/-- The order to wake a sleeping region (R426); its wake time runs from the first order. -/
def wakeRegion (r : Nat) (s : State) : State :=
  if s.regionState r = 0 || s.regionFailed r then s
  else
    let due := if s.pwr.waking.contains r then lookD s.pwr.wakeEnd r 0 else s.time.now + wakeNs (s.regionState r)
    { s with pwr := { s.pwr with
      waking := addSorted r s.pwr.waking, leaving := del s.pwr.leaving r, wakeEnd := put s.pwr.wakeEnd r due } }
/-- The region was used in this beat (R424). -/
def useRegion (r : Nat) (s : State) : State := { s with pwr := { s.pwr with used := s.pwr.used ||| BitVec.ofNat 64 (2 ^ r) } }

/-! ## Host memory -/

/-- Bytes of a memory from an address. -/
def cellsGet (m : List Host.Cell) (a : Nat) : Nat → List Byte
  | 0 => []
  | n + 1 => lookD m a 0 :: cellsGet m (a + 1) n
/-- The memory with bytes written from an address. -/
def cellsPut (m : List Host.Cell) (a : Nat) : List Byte → List Host.Cell
  | [] => m
  | b :: t => cellsPut (putD m a b 0) (a + 1) t
/-- What the host wrote before the command's reads (log 8). -/
def hostWrote (h : HostWrites) (s : State) : State :=
  { s with hostMem := h.foldl (fun m e => putD m e.1 e.2 0) s.hostMem }

/-! ## Messages to the host (R328, R337, R356, R357) -/

/-- The device may issue requests on the link. -/
def HostIf.canIssue (h : HostIf) : Bool := h.busEn && h.linkUp && !h.recovery
/-- The vector is masked, by its entry, by Function Mask or because MSI-X is not enabled (log 6). -/
def HostIf.vecMasked (h : HostIf) (v : Nat) : Bool := !h.msixEn || h.msixMask || (lookD h.msix v {}).masked
/-- An MSI-X message: a masked vector sets its pending bit. -/
def HostIf.deliver (h : HostIf) (v : Nat) : HostIf :=
  if h.vecMasked v then { h with msix := putD h.msix v { lookD h.msix v {} with pending := true } {} }
  else { h with sent := v :: h.sent }
/-- One request put on the link; the memory it leaves. -/
def issueReq (r : HostReq) (s : State) : State :=
  match r with
  | .write a d _ _ => { s with hostMem := cellsPut s.hostMem a d }
  | .msix v => { s with host := s.host.deliver v }
/-- A request of the device: issued, held, or after a host-lost event not written. -/
def hostReq (r : HostReq) (s : State) : State :=
  if s.host.hostLost then s
  else if s.host.canIssue then issueReq r s
  else { s with host := { s.host with held := s.host.held ++ [r] } }
/-- Held requests issued in order once the device may. -/
def releaseHeld (s : State) : State :=
  if s.host.canIssue && !s.host.hostLost then
    s.host.held.foldl (fun t r => issueReq r t) { s with host := { s.host with held := [] } }
  else s
/-- A source's vector is sent once (R337). -/
def sendVector (v : Nat) (s : State) : State := hostReq (.msix v) s
/-- Pending vectors that are no longer masked are sent (R337). -/
def flushMsix (s : State) : State :=
  ((s.host.msix.filter fun e => e.2.pending && !s.host.vecMasked e.1).map (·.1)).foldl
    (fun t v => sendVector v
      { t with host := { t.host with msix := putD t.host.msix v { lookD t.host.msix v {} with pending := false } {} } }) s

/-! ## The event log (R440 to R445) -/

/-- Payload words 3 to 7 of a record, from bytes counted from record byte 24. -/
def evPayload (n : Nat) : List W64 := (List.range 5).map fun i => BitVec.ofNat 64 (n / 2 ^ (64 * i))
/-- A payload field at a byte offset. -/
def evAt (k v : Nat) : Nat := v * 256 ^ k

/-- The message for a posted record of class `cls` (R443). -/
def evtSignal (cls : Nat) (s : State) : State :=
  if s.evt.irqEn && decide (s.evt.irqClass ≤ cls) then
    if s.evt.spacing then { s with evt := { s.evt with coalesced := true } }
    else sendVector s.evt.vector { s with evt := { s.evt with spacing := true } }
  else s

/-- A record is posted or dropped (R441). -/
def postRecord (r : EvtRec) (s : State) : State :=
  let e := s.evt
  let r := { r with seq := e.nextSeq }
  let next := (e.nextSeq + 1) % 2 ^ 32
  if (r.cls < 2 && 960 ≤ e.unread) || 1008 ≤ e.unread then
    { s with evt := { e with nextSeq := next, lost := Nat.min (e.lost + 1) (2 ^ 32 - 1) } }
  else
    evtSignal r.cls { s with evt := { e with
      slots := put e.slots e.tail r, tail := (e.tail + 1) % 1008, unread := e.unread + 1, nextSeq := next,
      toFlash := if 3 ≤ r.cls && !r.replayed then e.toFlash ++ [r] else e.toFlash } }

/-- An event detected now (R442). -/
def logEvent (code cls payload : Nat) (s : State) : State :=
  postRecord { code, cls, seq := 0, time := s.time.now, beat := s.beat, payload := evPayload payload } s

/-- ACCESS_REFUSED (Table 18-10): status, engine, die, context, address. -/
def logRefused (st eng die ctx addr : Nat) : State → State :=
  logEvent 0x0303 0 (evAt 0 st + evAt 2 eng + evAt 3 die + evAt 4 ctx + evAt 8 addr)

/-! ## Mailboxes (R338 to R342) -/

def State.mailbox (s : State) (m : Nat) : Mailbox := lookD s.host.mbx m {}
def State.setMailbox (s : State) (m : Nat) (b : Mailbox) : State :=
  { s with host := { s.host with mbx := putD s.host.mbx m b {} } }
/-- Payload word `k`. -/
def Mailbox.word (b : Mailbox) (k : Nat) : Nat := (lookD b.data k 0).toNat
/-- Payload with words written from word 0. -/
def wordsPut (t : Tab W64) (k : Nat) : List Nat → Tab W64
  | [] => t
  | v :: l => wordsPut (putD t k (BitVec.ofNat 64 v) 0) (k + 1) l

/-- Completion of the command in mailbox `m`, in the order of R339. -/
def complete (m status : Nat) (reply : List Nat) (s : State) : State :=
  let b := s.mailbox m
  let t := s.setMailbox m { b with data := wordsPut b.data 0 reply, outWords := reply.length, status := status, state := 2 }
  if b.irqEn then sendVector b.vector t else t

/-! ## CRN_ID.state and stops -/

/-- CRN_ID.state (Table 14-3). -/
def State.idState (s : State) : Nat :=
  if s.rst.step = 10 || s.rst.step = 12 || s.rst.step = 13 then 2
  else if s.rst.step ≠ 9 then 0 else if s.host.hostLost then 3 else 1
/-- The Nose serves commands and reports (R342). -/
def State.noseUp (s : State) : Bool := s.rst.step = 9
/-- Work in the package runs (R342, R448). -/
def State.alive (s : State) : Bool := s.rst.step = 9 || s.rst.step = 12
/-- BAR0 and BAR2 take writes (R329, R436). -/
def State.shellUp (s : State) : Bool := 9 ≤ s.rst.step && s.rst.step ≠ 11

/-- Every busy mailbox completes (R342, R448). -/
def failBusy (s : State) : State :=
  ((s.host.mbx.filter fun e => e.2.state = 1).map (·.1)).foldl (fun t m => complete m ST.deviceFailed [] t) s

/-- Start of the next beat in ns. -/
def TimeSt.nextBoundary (t : TimeSt) : Nat := t.epoch + (t.index + 1) * t.beatNs
/-- One nanosecond passes on an empty queue; the next beat begins with its BEAT_BOUNDARY (log 9). -/
def tick (s : State) : Out :=
  if s.alive && decide (s.time.now + 1 < s.time.nextBoundary) then .next { s with time := { s.time with now := s.time.now + 1 } }
  else .next s

end Sys2Proof.Machine
end

