-- ==== Sys2Proof/Machine/Memory.lean ====
section
/-! DEFINITION. Device memory at its homes: sillage (12), the address map and access checks (08), the stack-home
L2 with its prefetcher (09), and reads and writes of lines as a home performs them (10, R247). -/

namespace Sys2Proof.Machine

open Sys2Proof

/-! ## Sillage (R288) -/

/-- One bit of the reflected CRC-64. -/
def crcBit (c : W64) : W64 := (c >>> 1) ^^^ (if c.getLsbD 0 then 0xC96C5795D7870F42#64 else 0)
/-- One byte, bit 0 first. -/
def crcByte (c : W64) (b : Byte) : W64 :=
  crcBit (crcBit (crcBit (crcBit (crcBit (crcBit (crcBit (crcBit (c ^^^ b.setWidth 64))))))))
/-- The sillage of a byte string. -/
def sillage (data : List Byte) : W64 := data.foldl crcByte 0xFFFFFFFFFFFFFFFF#64 ^^^ 0xFFFFFFFFFFFFFFFF#64

/-! ## The address map (R202 to R206) -/

/-- What lies at a device physical address. -/
inductive Place where
  | stack (k : Nat) | carve (k : Nat) | window (core : Nat) | reserve (usable : Bool) | hole
  deriving DecidableEq, Repr

/-- The place of a device physical address (Table 08-2); of the reserve tier, only the driver region is usable by
items (R220). -/
def placeOf (s : State) (a : Nat) : Place :=
  if a < 2 ^ 40 then (if a % 2 ^ 36 < 0xF80000000 then .stack (a / 2 ^ 36) else .carve (a / 2 ^ 36))
  else if a < 2 ^ 40 + 2 ^ 30 then .window ((a - 2 ^ 40) / 2 ^ 20)
  else if a < 2 ^ 41 then .hole
  else
    let o := a - 2 ^ 41
    let z := 2 ^ s.reserveLog2
    if s.reserveLog2 = 0 || z ≤ o then .hole
    else .reserve (decide (4 * 2 ^ 30 ≤ o) && decide (o < z - z / 32))

/-- The canonical form of device memory: addresses and line numbers strictly rising, and no entry equal to what an
unlisted address or line reads as (log 7). -/
def Memory.wf (m : Mem) : Bool := tabWf m.bytes 0 && tabWf m.sill 0 && rising m.poison

/-- The 64 MiB frame of an address. -/
def frameOf (a : Nat) : Nat := a / 2 ^ 26 * 2 ^ 26
/-- Line number of an address, and the die whose home or bank serves it. -/
def lineOf (a : Nat) : Nat := a / 256
def homeDie (s : State) (a : Nat) : Nat :=
  match placeOf s a with
  | .stack k => k
  | .carve k => k
  | .window c => dieOfCore c
  | _ => 24
/-- Base of the scratchpad window of a core. -/
def windowBase (c : Nat) : Nat := 2 ^ 40 + c * 2 ^ 20

/-! ## Link groups (R306, R318): 0-23 to the Crown by die, 24 + s the ring module from Brim s -/

/-- Modules of a group, numbered as LINK_STATUS orders them, ring modules from 88. -/
def groupModules (g : Nat) : List Nat :=
  if g < 16 then (List.range 4).map (4 * g + ·)
  else if g < 20 then (List.range 4).map (64 + 4 * (g - 16) + ·)
  else if g < 24 then (List.range 2).map (80 + 2 * (g - 20) + ·)
  else [88 + (g - 24)]
def State.module (s : State) (k : Nat) : Module := lookD s.felt.modules k {}
def State.setModule (s : State) (k : Nat) (f : Module → Module) : State :=
  { s with felt := { s.felt with modules := putD s.felt.modules k (f (s.module k)) {} } }
/-- How a group serves (R318): 0 carries, 1 every module retrains or is down, so that requests are held, 2 a request was held
for more than 1 ms, or every module is isolated (R320). -/
def groupServes (s : State) (g : Nat) : Nat :=
  let ms := (groupModules g).map s.module
  if ms.any (·.state = 0) then 0 else if ms.all (·.state = 3) || s.felt.expired.contains g then 2 else 1
/-- The ring group that joins two Brim dies, if any. -/
def ringOf (x y : Nat) : Option Nat :=
  if x < 16 && y < 16 && decide ((x + 1) % 16 = y) then some (24 + x)
  else if x < 16 && y < 16 && decide ((y + 1) % 16 = x) then some (24 + y) else none
/-- The way between two dies through the Crown: the worse of its groups. -/
def crownPath (s : State) (x y : Nat) : Nat :=
  if x = y then 0
  else Nat.max (if x < 24 then groupServes s x else 0) (if y < 24 then groupServes s y else 0)
/-- The way between two dies, over their ring module where it is active and joins dies of one partition. -/
def diePath (s : State) (x y : Nat) : Nat :=
  match ringOf x y with
  | some r => if groupServes s r = 0 && s.partOfBrim x = s.partOfBrim y then 0 else crownPath s x y
  | none => crownPath s x y

/-! ## Messages and credits (R308, R311, Tables 13-4 and 13-6) -/

/-- Virtual channel of a message code. -/
def vcOf (op : Nat) : Nat :=
  if op < 0x10 then 0 else if op < 0x18 then 1 else if op < 0x20 then 2 else if op < 0x28 then 3 else if op < 0x30 then 4 else 5
/-- Credits granted at link-up on a group and direction (0 towards the Crown, or on in the ring): Table 13-6, or what a
die-site die advertised in capability word 4 for what it receives. -/
def linkCredits (s : State) (g dir vc : Nat) : Nat :=
  let own := if 16 ≤ g && g < 24 && dir = 1 then (look (s.die g).caps 4).map fun w => fld w.toNat (10 * vc) 10 else none
  let row := if g < 20 then [512, 256, 512, 512, 128, 256] else if g < 24 then [256, 0, 256, 256, 0, 128]
    else [128, 64, 128, 128, 32, 64]
  own.getD ((row[vc]?).getD 0)
def creditKey (g dir vc : Nat) : Nat := (g * 2 + dir) * 6 + vc
/-- Credits that the sender holds. -/
def creditsOf (s : State) (g dir vc : Nat) : Nat := lookD s.felt.credits (creditKey g dir vc) (linkCredits s g dir vc)
def setCredits (g dir vc n : Nat) (s : State) : State :=
  { s with felt := { s.felt with credits := putD s.felt.credits (creditKey g dir vc) n (linkCredits s g dir vc) } }
/-- Groups and directions from a die to another: by an active ring module of the partition, or through the Crown, which
every message between a caching agent, a home and the filter crosses (R244). -/
def hopsOf (s : State) (crown : Bool) (src dst : Nat) : List (Nat × Nat) :=
  if src = dst then []
  else
    let via := (if src < 24 then [(src, 0)] else []) ++ (if dst < 24 then [(dst, 1)] else [])
    match ringOf src dst with
    | some r =>
      if !crown && groupServes s r = 0 && s.partOfBrim src = s.partOfBrim dst then [(r, if r = 24 + src then 0 else 1)] else via
    | none => via
/-- Messages that cross the Crown whatever their dies (R244): caching requests, the filter's, and an agent's with a home. -/
def FeltMsg.coherent (m : FeltMsg) : Bool :=
  m.crown || decide (m.op ≤ 3) || (decide (0x10 ≤ m.op) && decide (m.op ≤ 0x1C)) || m.op = 0x21 || m.op = 0x28
    || (decide (0x30 ≤ m.op) && decide (m.op ≤ 0x34))
/-- Groups and directions that a message crosses. -/
def FeltMsg.hops (s : State) (m : FeltMsg) : List (Nat × Nat) := hopsOf s m.coherent m.src m.dst
/-- A request of an engine from a die to another would find a credit (R311): the model runs the access in one step, so it takes
none (log 59). -/
def reqCredit (s : State) (crown : Bool) (x y : Nat) : Bool := (hopsOf s crown x y).all fun h => creditsOf s h.1 h.2 0 ≠ 0
/-- A message has the credits it needs. -/
def FeltMsg.credited (s : State) (m : FeltMsg) : Bool := (m.hops s).all fun h => creditsOf s h.1 h.2 (vcOf m.op) ≠ 0
/-- A message takes a credit of its channel on each hop. -/
def takeCredits (m : FeltMsg) (s : State) : State :=
  (m.hops s).foldl (fun s h => setCredits h.1 h.2 (vcOf m.op) (creditsOf s h.1 h.2 (vcOf m.op) - 1) s) s
/-- A message is sent: it takes its credits, or waits for them behind those of its source and channel (R37, R311, R312). -/
def sendFelt (m : FeltMsg) (s : State) : State :=
  if s.felt.stalled.any (fun k => k.src = m.src && vcOf k.op = vcOf m.op) || !m.credited s then
    { s with felt := { s.felt with stalled := s.felt.stalled ++ [m] } }
  else
    let s := takeCredits m s
    { s with coh := { s.coh with net := s.coh.net ++ [m] } }

/-! ## Places in a stack-home L2 (R205, R227) -/

/-- Pseudo-channel of a line index (R205). -/
def pseudoChannel (l : Nat) : Nat :=
  (l % 64) ^^^ (l / 2 ^ 6 % 64) ^^^ (l / 2 ^ 12 % 64) ^^^ (l / 2 ^ 18 % 64) ^^^ (l / 2 ^ 24 % 64)
/-- Line index within its stack. -/
def lineIndex (line : Nat) : Nat := line % 2 ^ 28
/-- Bank and set of a line in its home's L2. -/
def l2Bank (line : Nat) : Nat := pseudoChannel (lineIndex line) / 2
def l2Set (line : Nat) : Nat := lineIndex line / 64 % 384
/-- Key of way 0 of a line's set. -/
def l2Base (line : Nat) : Nat := (l2Bank line * 384 + l2Set line) * 16
/-- The way that holds a line. -/
def L2.wayOf (z : L2) (line : Nat) : Option Nat :=
  (List.range 16).find? fun w => (look z.lines (l2Base line + w)).any (·.line = line)
def L2.holds (z : L2) (line : Nat) : Bool := (z.wayOf line).isSome
/-- A bank-way takes allocations: not off, its counter not above 16 (R237). -/
def L2.wayOn (z : L2) (bank way : Nat) : Bool :=
  !z.off.contains (bank * 16 + way) && decide (lookD z.ce (bank * 16 + way) 0 ≤ 16)
def L2.setLine (z : L2) (line way : Nat) (f : L2Line → L2Line) : L2 :=
  match look z.lines (l2Base line + way) with
  | some e => { z with lines := put z.lines (l2Base line + way) (f e) }
  | none => z
/-! ## Poison, words and mismatches (R213, R214, R289 to R301) -/

/-- The copy of a line in its stack, its scratchpad or the reserve tier. -/
def State.stored (s : State) (line : Nat) : Mark := ⟨s.mem.poison.contains line, lookD s.mem.sill line 0⟩
def setStored (line : Nat) (m : Mark) (s : State) : State :=
  { s with mem := { s.mem with
    poison := if m.poison then addSorted line s.mem.poison else s.mem.poison.filter (· ≠ line)
    sill := putD s.mem.sill line m.sill 0 } }
/-- Home of a line. -/
def homeOf (line : Nat) : Nat := line / 2 ^ 28
/-- The copy from which a line's home serves it: its L2's, its side buffer's, else the stored one (R242, R289). -/
def State.mark (s : State) (line : Nat) : Mark :=
  if 2 ^ 32 ≤ line then s.stored line
  else
    let z := s.l2Of (homeOf line)
    match (z.wayOf line).bind fun w => look z.lines (l2Base line + w) with
    | some e => e.mark
    | none => ((z.side.find? (·.1 = line)).map (·.2)).getD (s.stored line)
def setMark (line : Nat) (m : Mark) (s : State) : State :=
  if 2 ^ 32 ≤ line then setStored line m s
  else
    let z := s.l2Of (homeOf line)
    match z.wayOf line with
    | some w => s.setL2 (homeOf line) fun z => z.setLine line w fun e => { e with mark := m }
    | none =>
      if z.side.any (·.1 = line) then
        s.setL2 (homeOf line) fun z => { z with side := z.side.map fun e => if e.1 = line then (line, m) else e }
      else setStored line m s
/-- A line reads as poisoned at its home. -/
def State.poisoned (s : State) (line : Nat) : Bool := (s.mark line).poison
/-- Difference of a line's word from the word of its bytes. -/
def State.sillOf (s : State) (line : Nat) : W64 := (s.mark line).sill
/-- The line's poison is set, with a matching word (R294). -/
def poisonLine (line : Nat) (s : State) : State := setMark line ⟨true, 0⟩ s
/-- The controller of stack `k` sets a line's bit in the poison map, and counts it once (Table 08-5). -/
def poisonStored (k line : Nat) (s : State) : State :=
  if (s.stored line).poison then s
  else (setStored line ⟨true, 0⟩ s).setStack k fun z => { z with ueTotal := Nat.min (z.ueTotal + 1) 65535 }

/-- The 256 bytes of a line at its home. -/
def lineBytes (s : State) (line : Nat) : List Byte := cellsGet s.mem.bytes (line * 256) 256

/-- A mismatch found at `point` on a line that came from `prev`: one record, at most 64 a beat and point (R294,
R300, R301). -/
def logMismatch (point prev kind flags addr ctx : Nat) (expected computed : W64) (s : State) : State :=
  let (n, first) := lookD s.mism point (0, 0, 0, 0)
  let t := { s with mism := put s.mism point (n + 1, if n = 64 then (addr, prev, kind) else first) }
  if n < 64 then
    logEvent 0x030D 2 (evAt 0 point + evAt 2 prev + evAt 4 kind + evAt 5 flags + evAt 6 1 + evAt 8 addr
      + evAt 16 ctx + evAt 24 expected.toNat + evAt 32 computed.toNat) t
  else t
/-- No context is named. -/
def noCtx : Nat := 0xFFFFFFFF

/-- The home's copy of a line is verified against its word; on a mismatch it is poisoned and reported (R292 to R294). -/
def verifyFor (kind ctx line point prev : Nat) (s : State) : State :=
  let m := s.mark line
  if m.poison || m.sill = 0 then s
  else
    let w := sillage (lineBytes s line)
    poisonLine line (logMismatch point prev kind 1 (line * 256) ctx (w ^^^ m.sill) w s)
/-- A relay or storage point verifies a line for the request under way. -/
def verifyLine (line point prev : Nat) (s : State) : State := verifyFor 1 s.run.who line point prev s
/-- The controller of stack `k` verifies what its stack holds, after its own correction (R292, R300). -/
def verifyStored (k line : Nat) (s : State) : State :=
  let m := s.stored line
  if m.poison || m.sill = 0 then s
  else
    let w := sillage (lineBytes s line)
    poisonStored k line (logMismatch (0x7000 + k) (0x7000 + k) 1 1 (line * 256) s.run.who (w ^^^ m.sill) w s)

/-! ## Points on a line's way (R291 to R293, R296) -/

/-- A line as delivered: its bytes and poison. -/
structure Got where
  data : List Byte
  poison : Bool
  deriving DecidableEq, Repr

/-- The receiver at the die of a die link, and the one at the Crown (Table 12-2). -/
def nearEnd (d : Nat) : Nat := 0x5000 + (if d < 16 then 0 else if d < 20 then 2 else 3) * 256 + d
def farEnd (d : Nat) : Nat := nearEnd d + 128
/-- The Felt receivers from a die to another. -/
def receivers (s : State) (crown : Bool) (src dst : Nat) : List (Nat × Nat) :=
  (hopsOf s crown src dst).map fun h =>
    if 24 ≤ h.1 then (0x5100 + 128 * (1 - h.2) + (h.1 - 24), 1)
    else if h.2 = 0 then (farEnd h.1, 1) else (nearEnd h.1, 1)
/-- What strikes a line on its way to a point. -/
def takeStruck (line point : Nat) (s : State) : W64 × State :=
  let hit := fun (e : Nat × Medium) => match e.2 with | .struck p _ => e.1 = line && p = point | _ => false
  match s.run.media.find? hit with
  | some (_, .struck _ d) => (d, { s with run := { s.run with media := dropFirst hit s.run.media } })
  | _ => (0, s)
/-- One point with its kind of check: the previous point, the word's difference, the line, and the state. A poisoned line is
not verified (R294). -/
def passPoint (line : Nat) (x : Nat × W64 × Got × State) (p : Nat × Nat) : Nat × W64 × Got × State :=
  let (d, s) := takeStruck line p.1 x.2.2.2
  let d := x.2.1 ^^^ d
  if x.2.2.1.poison || d = 0 then (p.1, d, x.2.2.1, s)
  else
    let w := sillage x.2.2.1.data
    (p.1, 0, { x.2.2.1 with poison := true }, logMismatch p.1 x.1 p.2 1 (line * 256) s.run.who (w ^^^ d) w s)
/-- A line goes from `prev`, with a word that differs by `d`, by way of points. -/
def passLine (line prev : Nat) (d : W64) (pts : List (Nat × Nat)) (g : Got) (s : State) : Got × State :=
  (pts.foldl (passPoint line) (prev, d, g, s)).2.2
/-- A line from a die comes to the engine at work. -/
def passEngine (line prev src : Nat) (g : Got) (s : State) : Got × State :=
  passLine line prev 0 ((match s.run.die with | some d => receivers s s.run.crown src d | none => []) ++ s.run.points) g s
/-- A line of the engine at work goes to a die and its point. -/
def passOut (line dst point : Nat) (g : Got) (s : State) : Got × State :=
  match s.run.die with
  | some d => passLine line s.run.maker 0 (receivers s false d dst ++ [(point, 1)]) g s
  | none => (g, s)
/-- The engine at work (R291). -/
def atEngine (die maker : Nat) (points : List (Nat × Nat)) (s : State) : State :=
  { s with run := { s.run with die := some die, maker, points, crown := false } }

/-- A TLP that brought a line fails its ECRC, found at a point of PCIe ingress while ECRC checking is enabled (R298; bit 8 of
AER's control register, log 6). What struck it on the link is met there once. -/
def ecrcFails (line point : Nat) (s : State) : Bool × State :=
  let (d, s) := takeStruck line point s
  (s.host.aer.getLsbD 8 && decide (d ≠ 0), s)

/-- What another engine does meanwhile; the one at work then goes on. -/
def byEngine (die maker : Nat) (points : List (Nat × Nat)) (f : State → State) (s : State) : State :=
  let w := s.run
  let s := f (atEngine die maker points s)
  { s with run := { s.run with die := w.die, maker := w.maker, points := w.points, crown := w.crown } }

/-! ## Aged replacement (R229) -/

/-- Way to fill in a set of `n` ways, and how often every age below 3 rises first: `entry w` is the age and whether the
line is excluded, none for an invalid line (R229). -/
def agedVictim (n : Nat) (entry : Nat → Option (Nat × Bool)) : Option (Nat × Nat) :=
  match (List.range n).find? fun w => (entry w).isNone with
  | some w => some (w, 0)
  | none =>
    let free := (List.range n).filterMap fun w => match entry w with | some (a, false) => some (w, a) | _ => none
    let oldest := free.foldl (fun m e => Nat.max m e.2) 0
    (free.find? fun e => e.2 = oldest).map fun e => (e.1, 3 - Nat.min oldest 3)
/-- An age after rounds of ageing. -/
def olderBy (rounds age : Nat) : Nat := Nat.min (age + rounds) 3

/-! ## The stack-home L2 (R227 to R232, R236, R237) -/

/-- Every line of the set whose age is below 3 ages by one. -/
def L2.ageSet (z : L2) (line : Nat) : L2 :=
  (List.range 16).foldl (fun z w => z.setLine line w fun e => { e with age := Nat.min (e.age + 1) 3 }) z
/-- The victim of R229 among ways not excluded, ageing the set as often as the search needs. -/
def L2.victim (excluded : Nat → Bool) (z : L2) (line : Nat) : Nat → Option (Nat × L2)
  | 0 => none
  | n + 1 =>
    let ways := (List.range 16).filter fun w => z.wayOn (l2Bank line) w
    match ways.find? fun w => (look z.lines (l2Base line + w)).isNone with
    | some w => some (w, z)
    | none =>
      match ways.find? fun w => (look z.lines (l2Base line + w)).any fun e => e.age = 3 && !excluded e.line with
      | some w => some (w, z)
      | none => L2.victim excluded (z.ageSet line) line n

/-- A line leaves the L2; a dirty line is written back whole with its word and poison, in place of the stack's (R214, R229). -/
def l2Drop (d key : Nat) (s : State) : State :=
  match look (s.l2Of d).lines key with
  | some e =>
    let t := s.setL2 d fun z => { z with lines := del z.lines key }
    if e.dirty then setStored e.line e.mark t else t
  | none => s

/-- The way that a line would take, the ages raised as the search needs: no line with an open transaction leaves (R229). -/
def l2Room (d line : Nat) (s : State) : Option (Nat × L2) := (s.l2Of d).victim (fun l => (look s.coh.txns l).isSome) line 4
/-- A line is placed in the L2 at an insertion age, where a way can be had; else it is left unallocated (Table 09-2). -/
def l2Insert (d line age : Nat) (dirty : Bool) (mark : Mark) (s : State) : State :=
  match l2Room d line s with
  | some (w, z) =>
    let t := l2Drop d (l2Base line + w) (s.setL2 d fun _ => z)
    t.setL2 d fun z => { z with lines := put z.lines (l2Base line + w) { line, dirty, age, mark } }
  | none => s

/-- A stream table with a line matched: the entry's new count, or a new entry; most recent first, at most 16. -/
def streamMatch (t : List (Nat × Nat)) (line : Nat) : List (Nat × Nat) × Nat :=
  match t.find? (·.1 = line) with
  | some e => ((line + 1, e.2 + 1) :: dropFirst (·.1 = line) t, e.2 + 1)
  | none => (((line + 1, 1) :: t).take 16, 1)

/-- The lines ahead of a matching read, up to 32, to the first stop of R231. -/
def prefetchAhead (z : L2) (line : Nat) : Nat → List Nat
  | 0 => []
  | n + 1 =>
    let l := line + 1
    if l / 2 ^ 18 ≠ line / 2 ^ 18 || z.holds l || z.side.any (·.1 = l) || 0xF80000000 ≤ l * 256 % 2 ^ 36 then []
    else l :: prefetchAhead z l n
/-- A demand read trains a read stream and issues prefetches (R231). -/
def l2Train (line : Nat) (z : L2) : L2 :=
  if z.prefetch then
    let (t, n) := streamMatch z.reads line
    let ahead := if 3 ≤ n then (prefetchAhead z line 32).filter fun l => !z.flight.contains l else []
    { z with reads := t, flight := z.flight ++ ahead }
  else z

/-- What a request is to the L2 (Table 09-2). -/
inductive L2Req where
  | read | write | part | atomic | writeBack
  deriving DecidableEq, Repr

/-- A request whose line misses must wait in its bank: enabled ways there are, and every one holds a line that may not
leave (R229). A write-back, which the home always sinks (R245), is then left unallocated. -/
def l2Waits (line : Nat) (r : L2Req) (s : State) : Bool :=
  let z := s.l2Of (homeOf line)
  z.enabled && !z.holds line && r ≠ .writeBack && (List.range 16).any (z.wayOn (l2Bank line))
    && !(r = .write && z.seqDetect && decide (64 < (streamMatch z.stores line).2)) && (l2Room (homeOf line) line s).isNone

/-- The L2's own work for a request on a line of its stack. A write or an atomic removes the line from the side buffer, and
discards its prefetch in flight (R232). -/
def l2Touch (d line : Nat) (r : L2Req) (streaming : Bool) (s : State) : State :=
  let z := s.l2Of d
  if !z.enabled then s
  else
    let dirty := r ≠ .read
    match z.wayOf line with
    | some w =>
      s.setL2 d fun z =>
        let z := z.setLine line w fun e => { e with age := 0, dirty := e.dirty || dirty }
        let z := if dirty then
            { z with side := z.side.filter (·.1 ≠ line), flight := z.flight.filter (· ≠ line) }
          else z
        if r = .write && z.seqDetect then
          match z.stores.find? (·.1 = line) with
          | some _ => { z with stores := (streamMatch z.stores line).1 }
          | none => z
        else z
    | none =>
      match r with
      | .read =>
        let mark := s.mark line
        let inSide := z.side.any (·.1 = line)
        let s := s.setL2 d fun z => { z with side := z.side.filter (·.1 ≠ line) }
        let s := l2Insert d line (if inSide || streaming then 3 else 2) false mark s
        if streaming then s else s.setL2 d (l2Train line)
      | r =>
        let s := s.setL2 d fun z =>
          { z with side := z.side.filter (·.1 ≠ line), flight := z.flight.filter (· ≠ line) }
        let mark := if r = .write || r = .writeBack then {} else s.stored line
        let age := if streaming && decide (r ≠ .atomic) then 3 else 2
        if r = .write && z.seqDetect then
          let (t, n) := streamMatch z.stores line
          let s := s.setL2 d fun z => { z with stores := t }
          if 64 < n then s else l2Insert d line age true mark s
        else l2Insert d line age true mark s

/-- Both tag copies of a way are lost: fatal to the die's partition (Table 09-4). -/
def l2TagLost (d line way : Nat) (s : State) : State :=
  let t := logEvent 0x0307 4 (evAt 0 d + evAt 1 (l2Bank line) + evAt 2 way + evAt 4 (l2Set line)) s
  { t with run := { t.run with fatal := d :: t.run.fatal } }
/-- An error of the L2's arrays on a lookup that hits (Table 09-4). -/
def l2Error (d line : Nat) (m : Medium) (s : State) : State :=
  match (s.l2Of d).wayOf line with
  | none => s
  | some w =>
    let bw := l2Bank line * 16 + w
    let pay := evAt 0 d + evAt 1 (l2Bank line) + evAt 2 w
    let n := lookD (s.l2Of d).ce bw 0
    match m with
    | .good => s
    | .corrected _ =>
      logEvent 0x0305 1 (pay + evAt 4 (n + 1)) (s.setL2 d fun z => { z with ce := put z.ce bw (n + 1) })
    | .ue =>
      if (look (s.l2Of d).lines (l2Base line + w)).any (·.dirty) then
        poisonLine line (logEvent 0x0306 2 (pay + evAt 8 (line * 256)) s)
      else logEvent 0x0305 1 (pay + evAt 4 n) (l2Drop d (l2Base line + w) s)
    | .flipped x => setMark line { s.mark line with sill := s.sillOf line ^^^ x } s
    | .tagsLost way => l2TagLost d line way s
    | .struck _ _ => s

/-! ## The stack controller (R209, R212, R213) -/

/-- Bank of a row, rows being numbered ((channel × 2 + pseudo-channel) × 64 + bank) × 65,536 + row (log 25). -/
def bankOfRow (row : Nat) : Nat := row / 65536
/-- The first row that waits for repair starts, where no event is in effect on the stack (R209). -/
def startRepair (z : Stack) : Stack :=
  if z.repair.isSome || z.elevated then z
  else match z.due.find? fun r => !z.noSpare.contains (bankOfRow r) with
    | some r => { z with repair := some r, due := z.due.filter (· ≠ r) }
    | none => z
/-- A corrected symbol: counted; the second read of a row that needs correction, at least one beat after the first, calls for
a repair (R209). -/
def stackCorrected (k row : Nat) (s : State) : State :=
  s.setStack k fun z =>
    let first := lookD z.ceRows row s.time.now
    let again := decide (first + s.time.beatNs ≤ s.time.now) && z.repair ≠ some row && !z.noSpare.contains (bankOfRow row)
    startRepair { z with
      ceTotal := Nat.min (z.ceTotal + 1) (2 ^ 32 - 1)
      ceRows := put z.ceRows row first
      due := if again && !z.due.contains row then z.due ++ [row] else z.due }

/-- A newer dirty copy of the line stands in the L2 (R214). -/
def State.superseded (s : State) (k line : Nat) : Bool := (s.l2Of k).lines.any fun e => e.2.line = line && e.2.dirty
/-- An uncorrectable sector met on a path: 1 read, 2 scrub, 3 fill, 4 prefetch. A line already poisoned in the stack logs
nothing; under a newer dirty copy the record is superseded (R213, R214). -/
def stackUe (k line path : Nat) (s : State) : State :=
  if (s.stored line).poison then s
  else poisonStored k line
    (logEvent 0x0301 2 (evAt 0 k + evAt 1 path + evAt 2 (b01 (s.superseded k line)) + evAt 8 (line * 256)) s)

/-- Bytes that changed in storage, as a difference from the line's word (R290). -/
def flipStored (line : Nat) (x : W64) (s : State) : State :=
  setStored line { s.stored line with sill := (s.stored line).sill ^^^ x } s
/-- What the controller of stack `k` gives on a path: the storage's condition, then the verification (R212, R213, R292). -/
def controllerRead (k line path : Nat) (m : Medium) (s : State) : State :=
  verifyStored k line (match m with
    | .corrected row => stackCorrected k row s
    | .ue => stackUe k line path s
    | .flipped x => flipStored line x s
    | _ => s)

/-- The condition that the running command meets on a line, and the state with it met. -/
def takeMedium (line : Nat) (s : State) : Medium × State :=
  let here := fun (e : Nat × Medium) => e.1 = line && (match e.2 with | .struck _ _ => false | _ => true)
  match s.run.media.find? here with
  | some e => (e.2, { s with run := { s.run with media := dropFirst here s.run.media } })
  | none => (.good, s)

/-! ## Agents (R241, R244, R249 to R255): atomic form of a home's transaction -/

/-- Key of an agent's line. -/
def agentKey (agent line : Nat) : Nat := agent * 2 ^ 34 + line
/-- Sets per slice, and ways, of a processor L3: those of Table 09-1, or the lowest-numbered that its die advertised in
capability word 3 (R325). -/
def l3Shape (s : State) (agent : Nat) : Nat × Nat :=
  match look (s.die agent).caps 3 with
  | some w => (2 ^ Nat.min (fld w.toNat 36 4) 10, fld w.toNat 32 4 + 1)
  | none => (1024, 16)
/-- Ways of an agent's set. -/
def agentWays (s : State) (agent : Nat) : Nat := if agent < 16 then 16 else (l3Shape s agent).2
/-- Set of a line at an agent: an RLC's, or a set of the slice of an L3 (R244, R325, Table 09-1). -/
def agentSetOf (s : State) (agent line : Nat) : Nat :=
  if agent < 16 then line % 1024 else line % 16 * 1024 + line / 16 % (l3Shape s agent).1
/-- Filter entry index of an agent's way for a line (R244). -/
def filterKey (s : State) (agent line way : Nat) : Nat := agent * 2 ^ 20 + agentSetOf s agent line * 16 + way
def agentLine (s : State) (agent line : Nat) : Option AgentLine := look s.coh.lines (agentKey agent line)
/-- The agents that hold a line. -/
def holders (s : State) (line : Nat) : List Nat := (List.range 20).filter fun a => (agentLine s a line).isSome
/-- Dirty data of a line at an agent. -/
def dirtyAt (s : State) (line : Nat) : Option (Nat × AgentLine) :=
  ((List.range 20).filterMap fun a =>
    match agentLine s a line with
    | some e => if e.st = .M || e.st = .O then some (a, e) else none
    | none => none).head?
/-- Presence count of a line's 64 KiB block (R249). -/
def presenceOf (s : State) (line : Nat) : Nat := lookD s.coh.presence (line / 256) 0
def addPresence (line : Nat) (delta : Int) (s : State) : State :=
  let n := ((presenceOf s line : Int) + delta).toNat
  { s with coh := { s.coh with presence := putD s.coh.presence (line / 256) n 0 } }
/-- Filter entries that name a line. -/
def filterHits (s : State) (line : Nat) : List (Nat × FEntry) := s.coh.filter.filter fun e => e.2.line = line

/-- A line leaves the caches of the cores for which `mine` holds, before their L3 (R235). -/
def innerDrop (mine : Nat → Bool) (line : Nat) (s : State) : State :=
  let out := fun (t : Tab PLine) => t.filter fun e => e.2.line ≠ line
  { s with coh := { s.coh with pcache := (s.coh.pcache.map fun e =>
      if mine e.1 then (e.1, { l1i := out e.2.l1i, l1d := out e.2.l1d, l2 := out e.2.l2 }) else e).filter fun e => e.2 ≠ {} } }
/-- Every agent's copy of a line goes, with its filter entries and their presence (SNP_INV, R247, R250). -/
def purgeAgents (line : Nat) (s : State) : State :=
  let hits := filterHits s line
  let s := { s with coh := { s.coh with
    lines := (List.range 20).foldl (fun t a => del t (agentKey a line)) s.coh.lines
    filter := hits.foldl (fun t e => del t e.1) s.coh.filter } }
  addPresence line (-(hits.length : Int)) (innerDrop (fun _ => true) line s)

/-- A write to a line clears every reservation on it (R258) and wakes its watchers (R257). -/
def lineWritten (line : Nat) (s : State) : State :=
  let w := s.coh.watches.filter (·.1 = line)
  w.foldl (fun s e => sendFelt { op := 0x35, src := line / 2 ^ 28, dst := e.2 / 64, tag := e.2, line := line } s)
    { s with coh := { s.coh with
      resv := s.coh.resv.filter fun e => e.2 ≠ line
      watches := s.coh.watches.filter fun e => e.1 ≠ line } }

/-! ## Lines at their place -/

/-- Bytes put at offsets of a line. -/
def lineMerge (line : Nat) (b : List (Nat × Byte)) (s : State) : State :=
  { s with mem := { s.mem with bytes := b.foldl (fun m e => putD m (line * 256 + e.1) e.2 0) s.mem.bytes } }
/-- A line's worth of bytes. -/
def fit (d : List Byte) : List Byte := (d ++ List.replicate 256 0).take 256
/-- The writes cover the whole line. -/
def coversLine (b : List (Nat × Byte)) : Bool := (List.range 256).all fun i => b.any (·.1 = i)
/-- One write unit stored at the line: a whole line clears poison and mismatch; a part leaves poison (R214), and a
mismatch too (R290). `poison` stores the line poisoned. -/
def storeUnit (line : Nat) (b : List (Nat × Byte)) (poison : Bool) (s : State) : State :=
  let t := lineMerge line b s
  let t := if coversLine b then setMark line {} t else t
  if poison then poisonLine line t else t
/-- Offsets and bytes of a piece. -/
def atOffsets (off : Nat) (l : List Byte) : List (Nat × Byte) := (List.range l.length).map (off + ·) |>.zip l

/-- A line of stack `k` is read at its home for a request: from the L2, from the side buffer, or from the stack, with the
array's or the storage's condition (Table 09-4) and the verification there (R292). A clean copy that an array loses is
fetched again; a write or an atomic does not take the side buffer's copy (R232). -/
def homeFetch (k line path : Nat) (r : L2Req) (streaming : Bool) (s : State) : State :=
  let (m, s) := takeMedium line s
  let z := s.l2Of k
  let stack := fun (m : Medium) (s : State) => l2Touch k line r streaming (controllerRead k line path m s)
  let lost := fun (s : State) => match m with | .tagsLost w => if z.enabled then l2TagLost k line w s else s | _ => s
  if z.enabled && z.holds line then
    let s := l2Error k line m s
    if (s.l2Of k).holds line then l2Touch k line r streaming (verifyLine line (0x6000 + k) (0x7000 + k) s)
    else stack .good s
  else if z.enabled && r = .read && z.side.any (·.1 = line) then
    match m with
    | .ue => stack .good (s.setL2 k fun z => { z with side := z.side.filter (·.1 ≠ line) })
    | .flipped x =>
      l2Touch k line r streaming (verifyLine line (0x6000 + k) (0x7000 + k)
        (setMark line { s.mark line with sill := s.sillOf line ^^^ x } s))
    | _ => l2Touch k line r streaming (verifyLine line (0x6000 + k) (0x7000 + k) (lost s))
  else if r = .read then stack m (lost s)
  else stack m (lost (s.setL2 k fun z => { z with side := z.side.filter (·.1 ≠ line) }))

/-- A request to a line with an open transaction waits (R248); so does one to a sleeping region's window (R195). -/
def holdRun (s : State) : State := { s with run := { s.run with held := true } }

/-- A write-back of the line is on its way to its home, or waits for credit (R255). -/
def wbInFlight (s : State) (line : Nat) : Bool :=
  (s.coh.net.any fun m => m.op = 0x28 && m.line = line) || s.felt.stalled.any fun m => m.op = 0x28 && m.line = line
/-- The line is blocked by a transaction, or its data is in flight (R248, R255). -/
def lineBusy (s : State) (line : Nat) : Bool := (look s.coh.txns line).isSome || wbInFlight s line
/-- Transactions open at a home. -/
def homeOpen (s : State) (k : Nat) : Nat := (s.coh.txns.filter fun e => homeOf e.1 = k).length
/-- Agents that the filter lists for a line and whose link does not serve: their snoops are held (R259). -/
def snoopsHeld (s : State) (line : Nat) : List Nat :=
  ((filterHits s line).map fun e => e.1 / 2 ^ 20).filter fun a => !s.coh.lost.contains a && groupServes s a ≠ 0
/-- An engine's request can be served at its home now: the line is free, a slot is (R242), every snoop can go, and its bank
has a way. -/
def homeReady (line : Nat) (r : L2Req) (s : State) : Bool :=
  !lineBusy s line && decide (homeOpen s (homeOf line) < 1024) && (snoopsHeld s line).isEmpty && !l2Waits line r s
/-- An engine's request that its home cannot serve yet waits. -/
def homeWait (line : Nat) (r : L2Req) (s : State) : State :=
  if homeReady line r s then s
  else holdRun { s with run := { s.run with snooped := snoopsHeld s line ++ s.run.snooped } }

/-- A snooped agent's dirty line on its way to the home: by the receivers to the home's point (R292, R293). -/
def passSnoop (agent k line : Nat) (e : AgentLine) (s : State) : Got × State :=
  passLine line (0xE000 + agent) e.sill (receivers s true agent k ++ [(0x6000 + k, 1)]) ⟨e.data, e.poison⟩ s

/-- RD_CUR: a dirty copy at an agent is what the line reads as (R247, R250). -/
def homeRead (k line : Nat) (streaming : Bool) (s : State) : Got × State :=
  let s := homeWait line .read s
  match dirtyAt s line with
  | some (a, e) => passSnoop a k line e s
  | none =>
    let s := homeFetch k line 1 .read streaming s
    (⟨lineBytes s line, s.poisoned line⟩, s)

/-- Every copy goes; dirty data of an agent is merged home where a part of the line stays (R247). -/
def snoopOut (k line : Nat) (merge : Bool) (s : State) : State :=
  match dirtyAt s line with
  | some (a, e) =>
    if merge then
      let (g, s) := passSnoop a k line e s
      storeUnit line (atOffsets 0 (fit g.data)) g.poison (purgeAgents line s)
    else purgeAgents line s
  | none => purgeAgents line s

/-- WR_FULL or WR_PART: copies go, dirty data is merged under a part, and the unit is stored (R247). -/
def homeWrite (k line : Nat) (b : List (Nat × Byte)) (poison streaming : Bool) (s : State) : State :=
  let whole := coversLine b
  let s := snoopOut k line (!whole) (homeWait line (if whole then .write else .part) s)
  let s := if whole then l2Touch k line .write streaming s
    else homeFetch k line 3 .part streaming s
  lineWritten line (storeUnit line b poison s)

/-- A line read at its place for the engine at work. -/
def lineRead (line : Nat) (streaming : Bool) (s : State) : Got × State :=
  match placeOf s (line * 256) with
  | .stack k =>
    let (g, s) := homeRead k line streaming s
    passEngine line (0x6000 + k) k g s
  | .window c =>
    let (m, s) := takeMedium line s
    let s := match m with | .flipped x => flipStored line x s | _ => s
    let s := useRegion (regionOfCore c) (verifyLine line (0x8000 + c) (0x8000 + c) s)
    passEngine line (0x8000 + c) (dieOfCore c) ⟨lineBytes s line, s.poisoned line⟩ s
  | .reserve _ =>
    let (m, s) := takeMedium line s
    let s := match m with | .ue => poisonLine line s | .flipped x => flipStored line x s | _ => s
    let s := verifyLine line 0xF000 0xF000 s
    passEngine line 0xF000 24 ⟨lineBytes s line, s.poisoned line⟩ s
  | _ => (⟨lineBytes s line, s.poisoned line⟩, s)

/-- One write unit of the engine at work, at the line's place. -/
def lineWrite (line : Nat) (b : List (Nat × Byte)) (poison streaming : Bool) (s : State) : State :=
  if b.isEmpty then s
  else
    let unit : Got := ⟨(List.range 256).map fun i => ((b.find? (·.1 = i)).map (·.2)).getD 0, poison⟩
    match placeOf s (line * 256) with
    | .stack k =>
      let (g, s) := passOut line k (0x6000 + k) unit s
      homeWrite k line b g.poison streaming s
    | .window c =>
      let (g, s) := passOut line (dieOfCore c) (0x8000 + c) unit s
      let s := useRegion (regionOfCore c) (if coversLine b then s else verifyLine line (0x8000 + c) (0x8000 + c) s)
      storeUnit line b g.poison s
    | _ =>
      let (g, s) := passOut line 24 0xF000 unit s
      storeUnit line b g.poison s

/-- Bytes from an address of one place, line by line, with whether any line was poisoned. -/
def bytesRead (a n : Nat) (streaming : Bool) (s : State) : Got × State :=
  let first := a / 256
  let count := if n = 0 then 0 else (a + n - 1) / 256 - first + 1
  let (g, s) := (List.range count).foldl (fun (acc : Got × State) i =>
    let (x, s) := lineRead (first + i) streaming acc.2
    (⟨acc.1.data ++ x.data, acc.1.poison || x.poison⟩, s)) (⟨[], false⟩, s)
  (⟨slice g.data (a % 256) n, g.poison⟩, s)

/-- Bytes written from an address, one unit per line (R186); `poison` marks every line. -/
def bytesWrite (a : Nat) (data : List Byte) (poison streaming : Bool) (s : State) : State :=
  let n := data.length
  let first := a / 256
  let count := if n = 0 then 0 else (a + n - 1) / 256 - first + 1
  (List.range count).foldl (fun s i =>
    let lo := Nat.max a ((first + i) * 256)
    let hi := Nat.min (a + n) ((first + i + 1) * 256)
    lineWrite (first + i) (atOffsets (lo % 256) (slice data (lo - a) (hi - lo))) poison streaming s) s

/-! ## Access checks (R35, R203, R217, R220, R223, R427) -/

/-- An access to a window of a sleeping region wakes it and waits. -/
def windowWake (r : Nat) (s : State) : State :=
  if s.regionState r = 0 then s
  else holdRun { s with run := { s.run with wakes := addSorted r s.run.wakes } }

/-- Who reaches the reserve tier (R220): no engine but the Nose and the engines of copy items, whose limits are their own. -/
inductive Tier where
  | none | copy | nose
  deriving DecidableEq, Repr
/-- What an access is for: its reach of the reserve tier, and whether it goes for a caching agent, by the Crown (R244). -/
structure Use where
  tier : Tier := .none
  crown : Bool := false
  deriving DecidableEq, Repr
/-- The way that an access takes between two dies. -/
def wayTo (s : State) (u : Use) (x y : Nat) : Nat := if u.crown then crownPath s x y else diePath s x y

/-- Status with which an access of partition `p` from die `die` to an address completes, before data moves; 0 when
it is served. -/
def accessStatus (p : Option Nat) (die a : Nat) (u : Use) (s : State) : Nat :=
  match placeOf s a with
  | .hole => ST.addressHole
  | .carve _ => ST.addressHole
  | .stack k =>
    if p.isNone || s.partOfBrim k ≠ p || s.stackState k = 2 then ST.stackForeign
    else if s.stackState k = 1 then ST.stackOffline
    else if s.flash.retired.contains (frameOf a) then ST.frameRetired
    else if wayTo s u die k = 2 then ST.dieLost else ST.ok
  | .window c =>
    if 1024 ≤ c || p.isNone || s.partOfBrim (dieOfCore c) ≠ p || !s.dieHere (dieOfCore c) then ST.windowForeign
    else if s.regionFailed (regionOfCore c) then ST.regionFailed
    else if wayTo s u die (dieOfCore c) = 2 then ST.dieLost else ST.ok
  | .reserve usable =>
    match u.tier with
    | .none => ST.reserveClosed
    | .nose => ST.ok
    | .copy =>
      if !usable then ST.addressHole
      else if !((p.bind s.part).any (·.maintenance)) then ST.reserveClosed else ST.ok

/-- The event of a refused access (R35, R203, R217, R220). -/
def refusalLogged (st : Nat) : Bool :=
  st = ST.addressHole || st = ST.stackForeign || st = ST.windowForeign || st = ST.frameRetired || st = ST.reserveClosed

/-- A request of a context waits for a group that retrains on its way (R72, R318). -/
def holdLink (crown : Bool) (ctx x y : Nat) (s : State) : State :=
  let g := ((hopsOf s crown x y).find? fun h => groupServes s h.1 = 1).map (·.1)
  holdRun { s with run := { s.run with links := (g.map (ctx, ·)).toList ++ s.run.links } }
/-- The access check with its effects: the event of a refusal, the wait for a retraining group (R318), the wake of
a sleeping region (R195). -/
def accessCheck (p : Option Nat) (die eng ctx a : Nat) (u : Use) (s : State) : Nat × State :=
  let st := accessStatus p die a u s
  if st ≠ ST.ok then (st, if refusalLogged st then logRefused st eng die ctx a s else s)
  else
    let s := if wayTo s u die (homeDie s a) = 1 then holdLink u.crown ctx die (homeDie s a) s
      else if !reqCredit s u.crown die (homeDie s a) then holdRun s else s
    match placeOf s a with
    | .window c => (ST.ok, windowWake (regionOfCore c) s)
    | _ => (ST.ok, s)

end Sys2Proof.Machine
end

