-- ==== Sys2Proof/Machine/Translate.lean ====
section
/-! DEFINITION. Address translation, pinning, fault records and the fault queue (11). -/

namespace Sys2Proof.Machine

open Sys2Proof

/-- What an access asks of a page (R265); a flag access is refused on a host target as an atomic is (R191). -/
structure Acc where
  rd : Bool := false
  wr : Bool := false
  atomic : Bool := false
  flag : Bool := false
  fetch : Bool := false
  deriving DecidableEq, Repr

/-- Who translates (Tables 11-4, 11-10): die, engine code, context, and the engine that stalls. -/
structure Engine where
  die : Nat
  code : Nat
  ctx : Nat
  asid : Nat
  part : Nat
  stall : Stall
  /-- Its lines cross the Crown between any two dies (R473). -/
  crown : Bool := false
  deriving DecidableEq, Repr

/-- Fault reasons (Table 11-3). -/
abbrev frNotValid := 1
abbrev frWrite := 2
abbrev frRead := 3
abbrev frFetch := 4
abbrev frBadPte := 5
abbrev frNoncanonical := 6
abbrev frHostAtomic := 7
abbrev frWalkPoison := 8
abbrev frWalkAccess := 9

/-- Outcome of a walk. -/
inductive Walk where
  | leaf (e : W64) (big : Bool)
  | fault (reason status : Nat)
  | lost                       -- a table read ended with ST_DIE_LOST (R265)
  deriving DecidableEq, Repr

/-- Permissions of a leaf (R264, R265). -/
def leafRefuses (e : W64) (acc : Acc) : Option Nat :=
  if (acc.wr || acc.atomic) && !e.getLsbD 4 then some frWrite
  else if acc.rd && !e.getLsbD 3 then some frRead
  else if acc.fetch && !e.getLsbD 5 then some frFetch
  else if (acc.atomic || acc.flag) && fld e.toNat 62 2 = 1 then some frHostAtomic
  else none

/-- Address field of an entry (Table 11-2). -/
def pteAddr (e : W64) : Nat := fld e.toNat 8 49 * 256
/-- The entry breaks Table 11-2 at its level (R264, R265). -/
def pteBad (e : W64) (lvl : Nat) : Bool :=
  let n := e.toNat
  let kind := fld n 1 2
  let target := fld n 62 2
  let align := if kind = 0 then (if lvl = 1 then 2 ^ 16 else 256) else if lvl = 2 then 2 ^ 31 else 2 ^ 26
  decide (fld n 57 5 ≠ 0) || decide (fld n 6 2 ≠ 0) || decide (1 < kind) || (kind = 1 && lvl = 1)
    || (kind = 0 && lvl = 3) || decide (pteAddr e % align ≠ 0) || decide (1 < target)
    || (kind = 0 && decide (target ≠ 0))

/-! ## The translation caches (R266) -/

/-- The page number of an entry's size. -/
def vpnOf (big : Bool) (va : Nat) : Nat := if big then va / 2 ^ 31 else va / 2 ^ 26
def State.tcOf (s : State) (d : Nat) : List TcEntry := lookD s.tc d []
def State.setTc (s : State) (d : Nat) (l : List TcEntry) : State := { s with tc := putD s.tc d l [] }
def TcEntry.covers (e : TcEntry) (asid va : Nat) : Bool := e.asid = asid && e.vpn = vpnOf e.big va
/-- Two entries hold one page. -/
def TcEntry.same (x e : TcEntry) : Bool := x.asid = e.asid && x.big = e.big && x.vpn = e.vpn
/-- Set of an entry: its page number and address space modulo 4,096 (DESIGN CHOICE, log 22). -/
def TcEntry.set (e : TcEntry) : Nat := (e.vpn + e.asid) % 4096
/-- The cached leaf of an address on a die; a port die uses locked entries only (R266, R268). -/
def tcFind (s : State) (d asid va : Nat) : Option TcEntry :=
  (s.tcOf d).find? fun e => e.covers asid va && (e.locked || decide (d < 20) || d = 24)
/-- A hit makes the entry young (R229). -/
def tcHit (d : Nat) (e : TcEntry) (s : State) : State :=
  if e.age = 0 then s else s.setTc d ((s.tcOf d).map fun x => if x = e then { x with age := 0 } else x)
/-- A list with a leaf in its set, at age 2: an empty way, or the aged victim among unlocked entries (R229, R266); as it was
where the whole set is locked. -/
def tcPut (e : TcEntry) (l : List TcEntry) : List TcEntry :=
  let l := l.filter fun x => !x.same e
  match agedVictim 8 fun w => (l.find? fun x => x.set = e.set && x.way = w).map fun x => (x.age, x.locked) with
  | none => if e.locked then { e with way := 8 } :: l else l
  | some (w, r) =>
    { e with way := w, age := 2 } :: (l.filter fun x => !(x.set = e.set && x.way = w)).map fun x =>
      if x.set = e.set then { x with age := olderBy r x.age } else x
/-- A leaf cached after a walk, or locked. A die holds 32,768 entries: a lock that finds its set all locked takes the place of
an unlocked entry elsewhere (DESIGN CHOICE, log 22). -/
def tcAdd (d : Nat) (e : TcEntry) (s : State) : State :=
  let l := tcPut e (s.tcOf d)
  s.setTc d (if 32768 < l.length then l.reverse |> dropFirst (!·.locked) |> List.reverse else l)

/-- Lowest VA bit of an index, and its width, by level (Table 11-1). -/
def levelBits (lvl : Nat) : Nat × Nat := if lvl = 1 then (44, 13) else if lvl = 2 then (31, 13) else (26, 5)
def State.ptrsOf (s : State) (d : Nat) : List PtrEntry := lookD s.ptrs d []
/-- The pointer of an address that a die has cached at a level. -/
def ptrFind (s : State) (d asid lvl va : Nat) : Option Nat :=
  ((s.ptrsOf d).find? fun p => p.asid = asid && p.lvl = lvl && p.key = va / 2 ^ (levelBits lvl).1).map (·.addr)
/-- Pointers cached after a walk that found its leaf; the oldest leave when 1,024 are held (DESIGN CHOICE, log 22). -/
def ptrAdd (d : Nat) (l : List PtrEntry) (s : State) : State :=
  let old := (s.ptrsOf d).filter fun p => !l.any fun q => q.asid = p.asid && q.lvl = p.lvl && q.key = p.key
  { s with ptrs := putD s.ptrs d ((l ++ old).take 1024) [] }

/-! ## Walks (R265) -/

/-- Levels of a walk from a table's address, with the pointers met (R265). A table line is read for the engine's die and
meets no point of the engine's own; one behind a retraining die ends the access (R287). -/
def walkFrom (g : Engine) (va : Nat) (acc : Acc) : Nat → Nat → List PtrEntry → State → Walk × State
  | 0, _, _, s => (.fault frBadPte 0, s)
  | left + 1, t, ptrs, s =>
    let lvl := 3 - left
    let (lo, len) := levelBits lvl
    let a := t + fld va lo len * 8
    if accessStatus (some g.part) g.die a {} s = ST.ok && diePath s g.die (homeDie s a) = 1 then (.lost, s)
    else
      let (st, s) := accessCheck (some g.part) g.die g.code g.ctx a {} s
      if st = ST.dieLost then (.lost, s)
      else if st ≠ ST.ok then (.fault frWalkAccess st, s)
      else
        let own := s.run.points
        let (x, s) := lineRead (lineOf a) false { s with run := { s.run with points := [] } }
        let s := { s with run := { s.run with points := own } }
        if x.poison then (.fault frWalkPoison 0, s)
        else
          let e := BitVec.ofNat 64 (leAt x.data (a % 256) 8)
          if !e.getLsbD 0 then (.fault frNotValid 0, s)
          else if pteBad e lvl then (.fault frBadPte 0, s)
          else if fld e.toNat 1 2 = 1 then
            match leafRefuses e acc with
            | some r => (.fault r 0, s)
            | none => (.leaf e (lvl = 2), ptrAdd g.die ptrs s)
          else walkFrom g va acc left (pteAddr e) ({ asid := g.asid, lvl, key := va / 2 ^ lo, addr := pteAddr e } :: ptrs) s

/-- The walk procedure (R265), from the deepest pointer that the die has cached (R266). The core-local aperture has no
mapping, whatever an entry says (R83): an engine that has no aperture finds it not valid (DESIGN CHOICE, log 88). -/
def walk (g : Engine) (va : Nat) (acc : Acc) (s : State) : Walk × State :=
  if 2 ^ 57 ≤ va then (.fault frNoncanonical 0, s)
  else if 2 ^ 57 - 2 ^ 26 ≤ va then (.fault frNotValid 0, s)
  else match look s.aspaces g.asid with
    | none => (.fault frNotValid 0, s)
    | some a =>
      match ptrFind s g.die g.asid 2 va, ptrFind s g.die g.asid 1 va with
      | some t, _ => walkFrom g va acc 1 t [] s
      | none, some t => walkFrom g va acc 2 t [] s
      | none, none => walkFrom g va acc 3 a.root [] s

/-- Result of a translation. -/
inductive Xlat where
  | dev (a : Nat)
  | host (a : Nat)
  | status (st : Nat)
  | fault (reason status : Nat)
  deriving DecidableEq, Repr

/-- Where a leaf sends an address. -/
def leafTarget (e : W64) (big : Bool) (va : Nat) : Xlat :=
  let size := if big then 2 ^ 31 else 2 ^ 26
  let a := pteAddr e / size * size + va % size
  if fld e.toNat 62 2 = 1 then .host a else .dev a

/-- The point that makes the words of an engine's output lines: a lane's store leaves by its L1's point (DESIGN CHOICE,
log 89). -/
def Engine.maker (g : Engine) : Nat :=
  match g.stall with
  | .group c _ => 0x8800 + c
  | .atomiser d => 0xB000 + d
  | .brimCopy _ => 0xC000 + g.die
  | .proc _ _ => 0xE000 + g.die
  | _ => 0
/-- The points of its own that a line which an engine reads meets (Table 12-3). -/
def Engine.inputs (g : Engine) : List (Nat × Nat) :=
  match g.stall with
  | .atomiser d => [(0xB000 + d, 2)]
  | .brimCopy _ => [(0xC000 + g.die, 2)]
  | _ => []
/-- What follows is done for the engine, and its context (Table 12-5). -/
def readsFor (g : Engine) (s : State) : State :=
  let s := atEngine g.die g.maker g.inputs { s with run := { s.run with who := if g.ctx < 2 ^ 20 then g.ctx else noCtx } }
  { s with run := { s.run with crown := g.crown } }
/-- Translation of one access in the die's cache (R266). -/
def translateIn (g : Engine) (va : Nat) (acc : Acc) (s : State) : Xlat × State :=
  if 2 ^ 57 ≤ va then (.fault frNoncanonical 0, s)
  else match tcFind s g.die g.asid va with
    | some e =>
      match leafRefuses e.leaf acc with
      | some r => (.fault r 0, s)
      | none => (leafTarget e.leaf e.big va, tcHit g.die e s)
    | none =>
      match walk g va acc s with
      | (.leaf e big, s) => (leafTarget e big va, tcAdd g.die { asid := g.asid, big, vpn := vpnOf big va, leaf := e } s)
      | (.fault r st, s) => (.fault r st, s)
      | (.lost, s) => (.status ST.dieLost, s)
def translate (g : Engine) (va : Nat) (acc : Acc) (s : State) : Xlat × State := translateIn g va acc (readsFor g s)

/-! ## Fault records and the fault queue (R276 to R281) -/

def State.fqOf (s : State) (p : Nat) : FaultQ := lookD s.fq p {}
def State.setFq (s : State) (p : Nat) (f : FaultQ → FaultQ) : State := { s with fq := putD s.fq p (f (s.fqOf p)) {} }
/-- The 32 bytes of a fault entry (Table 11-10). -/
def faultEntry (r : FaultRec) (phase : Bool) : List Byte :=
  leBytes 8 r.va ++ leBytes 2 r.asid ++ leBytes 1 r.reason ++ leBytes 1 (r.flags + inFld (b01 phase) 7 1)
    ++ leBytes 1 r.source ++ leBytes 1 r.engine ++ leBytes 2 r.status ++ leBytes 4 r.context ++ leBytes 4 r.id
    ++ leBytes 8 r.beat

/-- One pending record posted: the entry in one write, then the vector (R277). -/
def postFault (p : Nat) (s : State) : State :=
  let q := s.fqOf p
  match q.pending with
  | [] => s
  | i :: rest =>
    if q.enable && q.unread < 4096 then
      match s.faults.find? fun r => r.part = p && r.id = i with
      | none => s.setFq p fun q => { q with pending := rest }
      | some r =>
        let s := hostReq (.write (q.base * 256 + q.tail * 32) (faultEntry r q.phase) false false) s
        let s := s.setFq p fun q => { q with
          pending := rest, unread := q.unread + 1, tail := (q.tail + 1) % 4096
          phase := if q.tail = 4095 then !q.phase else q.phase }
        sendVector q.vector s
    else s
/-- Pending records posted in order while the ring takes them (R279). -/
def postFaults (p : Nat) : Nat → State → State
  | 0, s => s
  | n + 1, s => postFaults p n (postFault p s)
def pumpFaults (p : Nat) (s : State) : State := postFaults p (s.fqOf p).pending.length s

/-- Flags of the first access (Table 11-10), one bit for each kind that it is (log 75). -/
def Acc.flags (a : Acc) : Nat := b01 a.rd + 2 * b01 a.wr + 4 * b01 (a.atomic || a.flag) + 8 * b01 a.fetch

/-- A faulting access joins the page's record, or opens one (R276). -/
def openFault (g : Engine) (va : Nat) (acc : Acc) (reason status : Nat) (s : State) : State :=
  let page := va / 2 ^ 26
  match s.faults.find? fun r => r.asid = g.asid && r.page = page with
  | some r0 =>
    let join := fun (r : FaultRec) =>
      { r with stalled := if r.stalled.contains g.stall then r.stalled else r.stalled ++ [g.stall] }
    { s with faults := modFirst (fun r => r.part = r0.part && r.id = r0.id) join s.faults }
  | none =>
    let q := s.fqOf g.part
    let r : FaultRec :=
      { id := q.nextId, part := g.part, asid := g.asid, page, va, reason, flags := acc.flags, source := g.die
        engine := g.code, status, context := g.ctx, beat := s.beat, stalled := [g.stall] }
    let s := { s with faults := s.faults ++ [r] }
    let s := s.setFq g.part fun q => { q with
      nextId := (q.nextId + 1) % 2 ^ 32, pending := q.pending ++ [r.id]
      overflow := if 4096 ≤ q.unread then Nat.min (q.overflow + 1) (2 ^ 32 - 1) else q.overflow }
    pumpFaults g.part s

/-- The engine waits on a fault record. -/
def State.stalledOn (s : State) (x : Stall) : Bool := s.faults.any (·.stalled.contains x)
/-- A group that replays its instruction; one whose AT.SUB stands in a queue waits for it further. -/
def Group.replay (g : Group) : Group :=
  match g.wait with
  | .fault _ => { g with wait := .none }
  | _ => g
/-- A run of 64 MiB pages meets another. -/
def runsMeet (first count lo n : Nat) : Bool := decide (lo < first + count) && decide (first < lo + n)
/-- A leaf lies in a run of pages. -/
def TcEntry.inRun (x : TcEntry) (asid first count : Nat) : Bool :=
  x.asid = asid && (if x.big then runsMeet first count (x.vpn * 32) 32 else runsMeet first count x.vpn 1)
/-- Cached leaves that overlap a run of pages go from every die, and with them the pointers on the way to it, so that each new
request walks (R272). -/
def dropLeaves (asid first count : Nat) (s : State) : State :=
  let size := fun (p : PtrEntry) => 2 ^ ((levelBits p.lvl).1 - 26)
  { s with
    tc := (s.tc.map fun e => (e.1, e.2.filter fun x => !x.inRun asid first count)).filter fun e => !e.2.isEmpty
    ptrs := (s.ptrs.map fun e => (e.1, e.2.filter fun p => !(p.asid = asid && runsMeet first count (p.key * size p) (size p)))).filter
      fun e => !e.2.isEmpty }
/-- The unlocked leaves of a page, and the pointers on the way to it, go: its accesses walk afresh (R280). Locked leaves stay
until PAGE_UNPIN (DEDUCED, log 92). -/
def walkAfresh (asid page : Nat) (s : State) : State :=
  let t := dropLeaves asid page 1 s
  { t with tc := (s.tc.map fun e => (e.1, e.2.filter fun x => x.locked || !x.inRun asid page 1)).filter fun e => !e.2.isEmpty }

/-- The stalled engine may run again, unless another record still holds it (R275). -/
def unstall (x : Stall) (s : State) : State :=
  if s.stalledOn x then s
  else match x with
  | .group c g => s.setCore c fun k =>
      match look k.groups g with
      | some y => { k with groups := put k.groups g y.replay }
      | none => k
  | .atomiser d => { s with atq := putD s.atq d ((lookD s.atq d []).map fun e => { e with stalled := false }) [] }
  | .proc k _ => if look s.proc k = some .stalled then { s with proc := del s.proc k } else s
  | _ => s

/-- An engine of a context. -/
def Stall.ofCtx (s : State) (c : Nat) : Stall → Bool
  | .group k g => (look (s.core k).groups g).any (·.ctx = c)
  | .atomiser d => ((lookD s.atq d []).find? (·.stalled)).any (·.ctx = c)
  | .brimCopy x => x = c
  | .hostCopy x => x = c
  | .nose x => x = c
  | .proc _ _ => false

/-- The context whose engines run an item's slice: its own, or that of the oldest member of its merged slice (R127, R128). -/
def leadOf (s : State) (c seq : Nat) : Nat :=
  ((s.ctxs.find? fun e => e.2.items.any fun i => i.running && i.merged.contains (c, seq)).map (·.1)).getD c
/-- A cause of delay ends (R68): it held in this beat for the SOFT and BULK items that `f` gives it for. -/
def markLapsed (f : Nat → Ctx → Item → Option (Nat × Nat × Nat)) (s : State) : State :=
  let mark := fun (c : Nat) (x : Ctx) (i : Item) =>
    if i.cls = 0 || i.phase = 3 then i
    else { i with lapsed := i.lapsed ++ ((f c x i).toList.filter fun m => !i.lapsed.contains m) }
  { s with ctxs := s.ctxs.map fun e => (e.1, { e.2 with items := e.2.items.map (mark e.1 e.2) }) }
/-- A record resolved: it leaves the pending set, and every engine replays (R279, R280). -/
def resolveFault (r : FaultRec) (s : State) : State :=
  let s := markLapsed (fun c _ i =>
    if i.phase = 2 && r.stalled.any fun z => Stall.ofCtx s (leadOf s c i.seq) z then some (2, 0xF, 0) else none) s
  let s := walkAfresh r.asid r.page { s with faults := s.faults.filter fun x => !(x.part = r.part && x.id = r.id) }
  let s := s.setFq r.part fun q => { q with pending := q.pending.filter (· ≠ r.id) }
  r.stalled.foldl (fun s x => unstall x s) s

/-- Engines taken off every record; a record left with none, and not migrating, is resolved (R281). -/
def leaveFaults (gone : Stall → Bool) (s : State) : State :=
  let fs := s.faults.map fun r => { r with stalled := r.stalled.filter fun x => !gone x }
  let dead := (s.faults.zip fs).filterMap fun e =>
    if e.2.stalled.isEmpty && e.2.migrating.isNone && !e.1.stalled.isEmpty then some e.2 else none
  dead.foldl (fun s r => resolveFault r s) { s with faults := fs }

/-- A page is under migration (R273, R283). -/
def State.migrating (s : State) (asid page : Nat) : Bool :=
  s.faults.any fun r => r.asid = asid && r.page = page && r.migrating.isSome

/-- Every cached leaf of an address space goes (R364). -/
def dropSpace (asid : Nat) (s : State) : State :=
  { s with
    tc := (s.tc.map fun e => (e.1, e.2.filter (·.asid ≠ asid))).filter fun e => !e.2.isEmpty
    ptrs := (s.ptrs.map fun e => (e.1, e.2.filter (·.asid ≠ asid))).filter fun e => !e.2.isEmpty }

end Sys2Proof.Machine
end

