-- ==== Sys2Proof/Machine/Plan.lean ====
section
/-! DEFINITION. The plan: budgets of a beat (R57 to R61), planned power with floor and ramp floor (R413 to R416),
accords (R49) and how an item leaves its contract (R65). -/

namespace Sys2Proof.Machine

open Sys2Proof

/-! ## Link capacities (R59, R315, R323) -/

/-- Lines per µs of a link group at full width, and after a first degrade, from which the reserve is taken. -/
def groupFull (g : Nat) : Nat := if g < 20 then 4000 else if g < 24 then 2000 else 1000
def groupBase (g : Nat) : Nat := if g < 20 then 3500 else if g < 24 then 1500 else 500
/-- A die-site die for which 16 GT/s was selected halves its group's rates. -/
def rateDiv (s : State) (g : Nat) : Nat := if g < 24 && fld (s.die g).sel2.toNat 48 4 = 1 then 2 else 1
/-- Rate of a module by its width; one that retrains keeps its place in the sum (R315, R316). -/
def moduleRate (m : Module) : Nat := if 2 ≤ m.state then 0 else if m.width = 3 then 1000 else if m.width = 0 then 0 else 500
/-- Lines per µs of a group now. -/
def linkRate (s : State) (g : Nat) : Nat := ((groupModules g).map fun k => moduleRate (s.module k)).sum / rateDiv s g
/-- The table of groups whose rate is not the full one. -/
def linkTable (s : State) : Tab Nat :=
  (List.range 40).filterMap fun g => if linkRate s g = groupFull g then none else some (g, linkRate s g)

/-- The slice uses a core (Table 02-10). -/
def Cost.onCore (k : Cost) (c : Nat) : Bool := k.regions.getLsbD (regionOfCore c) && k.cores.getLsbD (c % 16)
/-- FIRM slices that the accord of a beat places on a core. -/
def firmOn (s : State) (c beat : Nat) : List Placed :=
  s.plan.placed.filter fun p => p.beat = beat && !p.ghost && p.cost.onCore c
/-- The matrix issue rate that a cap allows, in 32nds (R410). -/
def issueOf (cap : Nat) : Nat := Nat.min 32 (32 * (375 * cap - 420000) / 1080000)
/-- First open beat (R48, R62). -/
def State.firstOpen (s : State) : Nat := s.plan.sealedTo + 1
/-- Placed slices in force of a partition in a beat; with `ghosts`, those whose room is still taken. -/
def placedIn (l : List Placed) (p b : Nat) (ghosts : Bool) : List Placed :=
  l.filter fun x => x.part = p && x.beat = b && (ghosts || !x.ghost)
/-- Declared energy of the FIRM slices of a beat. -/
def firmUj (l : List Placed) (p b : Nat) : Nat := ((placedIn l p b false).map (·.cost.energy)).sum
/-- Floor energy recorded for a sealed beat. -/
def sealedFloor (s : State) (p b : Nat) : Nat := ((s.plan.floor.filter fun f => f.1 = p && f.2.1 = b).map (·.2.2)).sum
/-- share_energy of a partition, and its ramp allowance in W per beat (R413). -/
def shareEnergy (s : State) (p : Nat) : Nat := ((s.part p).map (·.shareEnergy)).getD 0
def rampAllowance (s : State) (p : Nat) : Nat := 12 * s.time.period * shareEnergy s p / 256
/-- Smoothing target of a partition in W (R416). -/
def smoothTarget (s : State) (p : Nat) : Nat :=
  if s.pwr.smoothing then s.pwr.floor256 * s.pwr.cap * shareEnergy s p / 65536 else 0

/-- Planned power of a sealed beat. -/
def sealedPower (s : State) (p b : Nat) : Nat := (firmUj s.plan.placed p b + sealedFloor s p b) / s.time.period

/-- Smoothing floor carried forward beat by beat within the allowance that FIRM leaves (R416). -/
def smoothPass (target r : Nat) : Nat → Nat → List Nat → List Nat
  | _, _, [] => []
  | before, prev, firm :: rest =>
    let v := Nat.max firm (Nat.min target (prev + (r - (before - prev))))
    v :: smoothPass target r prev v rest

/-- The least power of a beat for which the ramps to its neighbours fit the allowance (R413). -/
def rampNeed (r prev next : Nat) : Nat :=
  let hi := Nat.max prev next
  let lo := Nat.min prev next
  if lo + r ≤ hi then hi - r else ceilDiv (prev + next - r) 2

/-- One sweep that raises beats where a ramp does not fit (R414); the last beat is followed by `tail`. -/
def rampSweep (r tail : Nat) : Nat → List Nat → List Nat
  | _, [] => []
  | prev, v :: rest =>
    let next := rest.headD tail
    let v := if r < (prev - v) + (next - v) then Nat.max v (rampNeed r prev next) else v
    v :: rampSweep r tail v rest
/-- Sweeps repeated: the least powers, which are unique, since the smaller of two fitting plans fits (log 23). -/
def rampFix (r tail prev : Nat) : Nat → List Nat → List Nat
  | 0, l => l
  | n + 1, l => rampFix r tail prev n (rampSweep r tail prev l)

/-- Start of the last seal, in ns from the epoch, from which a wake completes before a beat begins (R425). -/
def lastSeal (t : TimeSt) (w beat : Nat) : Nat :=
  let g := t.guard * 1000
  (beat * t.beatNs - w + g) / t.beatNs * t.beatNs - g
/-- Power of waking regions in a beat in µJ: 8 W for each region that a later slice needs, from the seal that orders its
wake until that slice begins (R425). -/
def wakeUj (s : State) (p b : Nat) (l : List Placed) : Nat :=
  let own := ((s.part p).map (·.brimList)).getD []
  let len := s.time.beatNs
  ((own.flatMap fun d => (List.range 4).map (4 * d + ·)).map fun r =>
    let first := ((l.filter fun x => x.part = p && !x.ghost && decide (s.beat < x.beat) && x.cost.regions.getLsbD r).map (·.beat)).min?
    match first with
    | none => 0
    | some f =>
      let st := s.regionState r
      let from_ := if s.pwr.ordered.contains r then b * len
        else if st = 0 then f * len else lastSeal s.time (wakeNs st) f
      8 * (Nat.min (f * len) ((b + 1) * len) - Nat.max from_ (b * len)) / 1000).sum

/-- Planned powers of the open beats of a partition, for slices `l` (R413 to R416): the last with a slice, and
16 beats more, by which every ramp has ended. -/
def openPowers (s : State) (p : Nat) (l : List Placed) : List Nat :=
  let fo := s.firstOpen
  let last := (l.filter (·.part = p)).foldl (fun m x => Nat.max m x.beat) fo
  let firm := (List.range (last + 17 - fo)).map fun i => (firmUj l p (fo + i) + wakeUj s p (fo + i) l) / s.time.period
  let r := rampAllowance s p
  let target := smoothTarget s p
  let base := smoothPass target r (sealedPower s p (fo - 2)) (sealedPower s p (fo - 1)) firm
  rampFix r target (sealedPower s p (fo - 1)) (2 * base.length) base

/-- The cap in force in a beat for slices `l`: the greatest under which one of them was accepted there, or the cap of that
time (R61). -/
def capAmong (s : State) (l : List Placed) (b : Nat) : Nat :=
  (l.filter fun x => x.beat = b && !x.ghost).foldl (fun m x => Nat.max m x.cap)
    (((s.plan.caps.find? fun e => decide (e.1 ≤ b)).map (·.2)).getD 4000)
/-- The ramps of a beat fit, and so does its burn under the cap in force in it (R61, R413). -/
def powerFits (s : State) (p cap prev v next : Nat) : Bool :=
  let burn := Nat.max (prev - v) (next - v)
  let n := ((s.part p).map (·.brimList.length)).getD 0
  decide ((prev - v) + (next - v) ≤ rampAllowance s p) && decide (10000 * (v + burn) ≤ 375 * n * cap)
/-- Every beat of a list of powers fits, from beat `b` on. -/
def powersFit (s : State) (p tail : Nat) (l : List Placed) : Nat → Nat → List Nat → Bool
  | _, _, [] => true
  | b, prev, v :: rest => powerFits s p (capAmong s l b) prev v (rest.headD tail) && powersFit s p tail l (b + 1) v rest
/-- The slices `l` satisfy the POWER_RISE check of R413 with the ramp floor that R414 gives. -/
def powerRiseOk (s : State) (p : Nat) (l : List Placed) : Bool :=
  let fo := s.firstOpen
  let ps := openPowers s p l
  let a := sealedPower s p (fo - 2)
  let b := sealedPower s p (fo - 1)
  let firstRise := (ps.headD 0) - b
  decide (firstRise = 0 || (a - b) + firstRise ≤ rampAllowance s p) && powersFit s p (smoothTarget s p) l fo b ps

/-- Floor energy of a beat of a partition: as sealed, or as planned; the energy of wakes is recorded to the µJ (R425). -/
def floorUj (s : State) (p b : Nat) : Nat :=
  if b ≤ s.plan.sealedTo then sealedFloor s p b
  else
    let v := ((openPowers s p s.plan.placed)[b - s.firstOpen]?).getD (smoothTarget s p)
    Nat.max (wakeUj s p b s.plan.placed) (v * s.time.period - firmUj s.plan.placed p b)
/-- planned_power_w (Table 02-7). -/
def plannedPower (s : State) (p b : Nat) : Nat :=
  (firmUj s.plan.placed p b + (if b ≤ s.plan.sealedTo then sealedFloor s p b else floorUj s p b)) / s.time.period

/-- The cap in force in a beat as planned (R61). -/
def capIn (s : State) (b : Nat) : Nat := capAmong s s.plan.placed b
/-- What was written at the seal of a partition's accord. -/
def sealedHead (s : State) (p b : Nat) : Option Sealed := s.plan.sealed_.find? fun x => x.part = p && x.beat = b && x.head
/-- The issue rate of a beat on a partition's dies: as sealed, or as the cap allows (R49, R61, R411). -/
def issueIn (s : State) (p b : Nat) : Nat := ((sealedHead s p b).map (·.issue)).getD (issueOf (capIn s b))
/-- A lockstep job stands in a partition. -/
def lockIn (s : State) (p : Nat) : Bool := s.peer.jobs.any fun j => j.part = p && j.lockstep && decide (j.state < 3)

/-- Regions that carry a beat's floor: those of its FIRM slices, then further regions, 27 W each (R417); the power of
wakes is no burn that they carry. As sealed, or as planned. -/
def floorRegions (s : State) (p b : Nat) : List Nat :=
  if b ≤ s.plan.sealedTo then (s.plan.sealed_.filter fun x => x.part = p && x.beat = b).flatMap (·.carry)
  else
    let mine := (placedIn s.plan.placed p b false).foldl (fun m x => m ||| x.cost.regions.toNat) 0
    let first := bitsOf 64 mine
    let rest := ((s.part p).map (·.brimList)).getD [] |>.flatMap (fun d => (List.range 4).map (4 * d + ·))
    let all := first ++ rest.filter fun r => !first.contains r
    all.take (ceilDiv (floorUj s p b - wakeUj s p b s.plan.placed) (27 * s.time.period))
/-- regions_active of an accord (R417, Table 02-7): FIRM slices, floor, and regions woken for later slices. -/
def regionsActive (s : State) (p b : Nat) : Nat :=
  let mine := (placedIn s.plan.placed p b false).foldl (fun m x => m ||| x.cost.regions.toNat) 0
  let own := ((s.part p).map (·.brimList)).getD []
  let now := if b ≤ s.plan.sealedTo then (s.plan.sealed_.filter fun x => x.part = p && x.beat = b).flatMap (·.woken)
    else s.pwr.waking ++ s.pwr.ordered
  let woken := now.filter fun r => own.contains (r / 4)
  mine ||| ofBits (floorRegions s p b) ||| ofBits woken

/-- The accord of a partition and beat: header and entries (Tables 02-7, 02-8). -/
def accordBytes (s : State) (p b : Nat) : List Byte :=
  let es := placedIn s.plan.placed p b false
  let firm := firmUj s.plan.placed p b
  let fl := floorUj s p b
  let removed := s.plan.sealed_.any fun x => x.part = p && x.beat = b && x.removed
  let job := ((sealedHead s p b).map (·.lock)).getD (lockIn s p)
  let dies := ((s.part p).map (·.brims.toNat)).getD 0
  let issue := (List.range 16).map fun d => BitVec.ofNat 8 (if dies.testBit d then issueIn s p b else 0)
  leBytes 8 b ++ leBytes 1 p ++ leBytes 1 (b01 (fl ≠ 0) + 2 * b01 job + 4 * b01 removed) ++ leBytes 2 es.length
    ++ leBytes 4 firm ++ leBytes 4 fl ++ leBytes 4 ((firm + fl) / s.time.period) ++ issue
    ++ leBytes 8 (regionsActive s p b) ++ leBytes 16 0
    ++ es.flatMap fun x => leBytes 4 x.ctx ++ leBytes 4 x.seq ++ leBytes 2 x.slice ++ leBytes 1 x.kind
        ++ leBytes 1 (b01 x.last) ++ leBytes 4 0 ++ leBytes 8 x.cost.regions.toNat ++ leBytes 2 x.cost.cores.toNat
        ++ leBytes 6 0

/-- An item's slices leave the accords from beat `from_`; its room is freed from beat n+3 (R65). -/
def leavePlan (ctx seq from_ : Nat) (s : State) : State :=
  let mine := fun (x : Placed) => x.ctx = ctx && x.seq = seq && decide (from_ ≤ x.beat) && !x.ghost
  let n := s.beat
  let touched := (s.plan.placed.filter fun x => mine x && decide (x.beat ≤ s.plan.sealedTo)).map fun x =>
    ({ part := x.part, beat := x.beat, removed := true } : Sealed)
  { s with plan := { s.plan with
    placed := (s.plan.placed.filter fun x => !(mine x && decide (n + 3 ≤ x.beat))).map fun x =>
      if mine x then { x with ghost := true } else x
    sealed_ := touched ++ s.plan.sealed_ } }

/-- An accepted FIRM item whose contract stands. -/
def Item.contracted (i : Item) : Bool := i.cls = 0 && i.phase < 3 && (i.adm.any fun a => a.verdict = 1)
/-- Unfinished accepted FIRM items of a partition. -/
def firmItems (s : State) (p : Nat) : List (Nat × Item) :=
  s.ctxs.flatMap fun e => if e.2.part = p then (e.2.items.filter (·.contracted)).map (e.1, ·) else []
/-- A page lies in the footprint of an unfinished accepted FIRM item of an address space (R64, R271). -/
def pageContracted (s : State) (asid first count : Nat) : Bool :=
  s.ctxs.any fun e => e.2.asid = asid && e.2.items.any fun i =>
    i.contracted && i.foot.any fun f => decide (first ≤ f.1) && decide (f.1 < first + count)
/-- Device pages under contract: those that the pinned leaves of footprints name. -/
def deviceContracted (s : State) (inRange : Nat → Bool) : Bool :=
  s.ctxs.any fun e => e.2.items.any fun i => i.contracted && i.foot.any fun f =>
    match tcFind s 24 e.2.asid (f.1 * 2 ^ 26) with
    | some t => (match leafTarget t.leaf t.big (f.1 * 2 ^ 26) with | .dev a => inRange a | _ => false)
    | none => false

end Sys2Proof.Machine
end

