-- ==== Sys2Proof/Machine/Context.lean ====
section
/-! DEFINITION. Contexts: completion entries (14, R374, R375), how items end, how a context stops (R103, R367),
and what a partition-fatal event does (R447). -/

namespace Sys2Proof.Machine

open Sys2Proof

/-- A ring entry of 128 bytes: body, frame and check (Table 14-13). -/
def ringEntry (body : List Byte) (phase : Bool) : List Byte :=
  let e := body ++ leBytes 8 (b01 phase)
  e ++ leBytes 8 (sillage e).toNat

/-- The Nose's own write to memory of a context, in host or device memory (R350, R365). One to a frame or stack that takes no
access writes nothing, and leaves the event of its refusal (R217, R223). Where its line is not free, only the Nose waits for it,
not the command that called for the entry (log 59). -/
def noseWrite (host : Bool) (c part a : Nat) (data : List Byte) (s : State) : State :=
  if host then hostReq (.write a data false false) s
  else
    let st := accessStatus (some part) 24 a { tier := .nose } s
    if st = ST.ok then
      let t := byEngine 24 0 [] (bytesWrite a data false false) s
      { t with run := { t.run with held := s.run.held, snooped := s.run.snooped } }
    else if refusalLogged st then logRefused st 6 24 c a s else s

/-- The completion ring has no free entry (R345). -/
def Ctx.cqFull (x : Ctx) : Bool := (x.cqTail + 1) % 2 ^ x.cqLog2 = x.cqHead

/-- A completion entry written, then its vector (R350). -/
def writeEntry (c : Nat) (body : List Byte) (irq : Bool) (s : State) : State :=
  match s.ctx c with
  | none => s
  | some x =>
    let s := noseWrite x.cqHost c x.part (x.cqBase + x.cqTail * 128) (ringEntry body x.cqPhase) s
    let wrap := x.cqTail + 1 = 2 ^ x.cqLog2
    let s := s.setCtx c fun x => { x with
      cqTail := if wrap then 0 else x.cqTail + 1, cqPhase := if wrap then !x.cqPhase else x.cqPhase }
    if x.irq && irq then sendVector x.vector s else s

/-- Held entries written while the ring has room (R351). -/
def pumpEntries (c : Nat) : Nat → State → State
  | 0, s => s
  | n + 1, s =>
    match s.ctx c with
    | none => s
    | some x =>
      match x.held with
      | [] => s
      | (b, i) :: rest =>
        if x.cqFull then s
        else pumpEntries c n (writeEntry c b i (s.setCtx c fun x => { x with held := rest }))

/-- A completion entry: written, or held behind others while the ring is full (R351); a failed Nose reports nothing
(R342). -/
def postEntry (c : Nat) (body : List Byte) (irq : Bool) (s : State) : State :=
  if s.noseUp then
    match s.ctx c with
    | none => s
    | some x => pumpEntries c (x.held.length + 1) (s.setCtx c fun x => { x with held := x.held ++ [(body, irq)] })
  else s

/-- A completion entry's body (Table 15-7). -/
def entryBody (status type cls seq beat : Nat) (record detail : List Byte) : List Byte :=
  (leBytes 2 status ++ leBytes 1 type ++ leBytes 1 cls ++ leBytes 4 seq ++ leBytes 8 beat
    ++ (record ++ leBytes 32 0).take 32 ++ (detail ++ leBytes 16 0).take 16) ++ leBytes 48 0

/-- The item asks for no completion interrupt (Table 15-5). -/
def Item.quiet (i : Item) : Bool := ((i.body[2]?).getD 0).getLsbD 0

/-- A notice of an item (R374). -/
def notice (c seq status : Nat) (record detail : List Byte) (s : State) : State :=
  match s.ctx c with
  | none => s
  | some x =>
    match x.items.find? (·.seq = seq) with
    | some i => postEntry c (entryBody status 3 i.cls seq s.beat record detail) (!i.quiet) s
    | none => postEntry c (entryBody status 3 2 seq s.beat record detail) true s

def State.item (s : State) (c seq : Nat) : Option Item := (s.ctx c).bind fun x => x.items.find? (·.seq = seq)
def State.setItem (s : State) (c seq : Nat) (f : Item → Item) : State :=
  s.setCtx c fun x => { x with items := modFirst (·.seq = seq) f x.items }

/-- Status of a COMPLETE entry (R375): the item's own, or that it moved poisoned lines. -/
def Item.finalStatus (i : Item) : Nat :=
  if i.status ≠ 0 then i.status else if i.poisoned ≠ 0 then ST.dataPoisoned else ST.ok

/-- COMPLETE entries of ended items at the front of the context, in item order (R375). -/
def flushItems (c : Nat) : Nat → State → State
  | 0, s => s
  | n + 1, s =>
    match s.ctx c with
    | none => s
    | some x =>
      match x.items with
      | i :: rest =>
        if i.phase = 3 then
          let s := s.setCtx c fun x => { x with items := rest }
          flushItems c n (postEntry c (entryBody i.finalStatus 1 (i.clsByte.getD i.cls) i.seq i.endBeat
            (leBytes 8 i.moved ++ leBytes 8 i.poisoned) i.detail) (!i.quiet) s)
        else s
      | [] => s

/-- An item ends: those behind it in its context waited for it in this beat, and BULK items for a SOFT one (R68). -/
def markBehind (c seq : Nat) (s : State) : State :=
  let soft := (s.item c seq).any fun i => i.cls = 1 && i.phase = 2
  markLapsed (fun k x i =>
    if k = c && i.seq ≠ seq && (x.items.dropWhile (·.seq ≠ seq)).any (·.seq = i.seq) then some (3, 0xF, 0) else if soft && i.cls = 2 then some (7, 0xF, 0) else none) s
/-- An item ends with a status: its COMPLETE entry follows those of earlier items. -/
def endItem (c seq status : Nat) (s : State) : State :=
  let s := (markBehind c seq s).setItem c seq fun i => { i with phase := 3, running := false, status := status, endBeat := s.beat }
  flushItems c (((s.ctx c).map (·.items.length)).getD 0) s

/-! ## Merged slices (R127, R128) -/

/-- The item fills a running slice together with others. -/
def Item.inMerged (i : Item) : Bool := i.running && (i.member || !i.merged.isEmpty)
/-- Some member's item of a merged slice has been neither cancelled nor stopped. -/
def mergedLive (s : State) (i : Item) : Bool := i.merged.any fun m => (s.item m.1 m.2).any (!·.cancelled)
/-- Members of the slice that an item runs, oldest first: the item alone, or those merged with it. -/
def sliceMembers (s : State) (c seq : Nat) : List (Nat × Nat) :=
  match s.item c seq with
  | some i => if i.merged.isEmpty then [(c, seq)] else i.merged
  | none => [(c, seq)]
/-- Merged slices without a live member end, each member with the status it was given. -/
def settleMerged (s : State) : State :=
  let leads := s.ctxs.flatMap fun e => e.2.items.filter fun i => i.running && !i.merged.isEmpty && !mergedLive s i
  leads.foldl (fun s i => i.merged.foldl (fun s m =>
    endItem m.1 m.2 (((s.item m.1 m.2).map (·.status)).getD 0) s) s) s
/-- One item leaves by cancellation or a stop: the member of a merged slice ends with the slice (R128). -/
def Item.leave (status beat : Nat) (i : Item) : Item :=
  if i.phase = 3 then i
  else if i.inMerged then (if i.cancelled then i else { i with cancelled := true, status := status })
  else { i with phase := 3, running := false, cancelled := true, status := status, endBeat := beat }

/-- A field of an item's body by byte offset and length. -/
def Item.f (i : Item) (off n : Nat) : Nat := leAt i.body off n
/-- The job that an item names: bytes 28 to 31 of a peer or collective item, 52 to 55 of a wait. -/
def Item.job (i : Item) : Nat := if i.kind = 5 || i.kind = 6 then i.f 28 4 else if i.kind = 7 then i.f 52 4 else 0
/-- The signaller of a FIRM wait (R53, Table 02-9). -/
def Item.signaller (i : Item) : Nat × Nat := (i.f 44 4, i.f 48 4)
/-- The item is an accepted FIRM wait on a signal item (R53). -/
def Item.waitsOn (c seq : Nat) (i : Item) : Bool := i.contracted && i.kind = 7 && i.job = 0 && i.signaller = (c, seq)
/-- A signaller under contract is cancelled or stopped: its FIRM waits are demoted at the next guard start (R53). -/
def orphanWaits (c : Nat) (i : Item) (s : State) : State :=
  if i.contracted && i.kind = 8 then
    { s with ctxs := s.ctxs.map fun e => (e.1, { e.2 with
      items := e.2.items.map fun w => if w.waitsOn c i.seq then { w with orphan := true } else w }) }
  else s

/-- A context's unfinished items end. -/
def endAllItems (c status : Nat) (s : State) : State :=
  match s.ctx c with
  | none => s
  | some x =>
    let s := x.items.foldl (fun s i => if i.contracted then leavePlan c i.seq (s.beat + 1) (orphanWaits c i s) else s) s
    let beat := s.beat
    let s := s.setCtx c fun x => { x with items := x.items.map (Item.leave status beat) }
    settleMerged (flushItems c x.items.length s)

/-- A slice runs on: alone until its item or context stops, merged while a member is live (R103, R128, R368). -/
def State.sliceLive (s : State) (ctx seq : Nat) : Bool :=
  match s.item ctx seq with
  | none => false
  | some i => i.phase = 2 && i.running && (if i.merged.isEmpty then !i.cancelled else mergedLive s i)
/-- A group may issue: its slice runs on. -/
def State.groupLive (s : State) (g : Group) : Bool := s.sliceLive g.ctx g.seq

/-- Groups whose context has stopped or whose item is cancelled leave the barriers at which they wait; a barrier that all
have left is idle (R99). -/
def leaveBarriers (s : State) : State :=
  let stays := fun (e : Nat × Nat) => (look (s.core e.1).groups e.2).any s.groupLive
  let leave := fun (t : Tab Barrier) => (t.map fun e => (e.1, { e.2 with waiting := e.2.waiting.filter stays })).filter
    fun e => !e.2.waiting.isEmpty
  { s with barCl := leave s.barCl, barDie := leave s.barDie }

/-- Stalled engines of a context leave their records, and a stalled descriptor of it is abandoned (R281). -/
def leaveStalls (c : Nat) (s : State) : State :=
  let gone := fun x => Stall.ofCtx s c x && (match x with
    | .group k g => !(look (s.core k).groups g).any s.groupLive
    | .atomiser d => !((lookD s.atq d []).find? (·.stalled)).any fun x => s.sliceLive x.ctx x.seq
    | _ => true)
  let s := leaveFaults gone s
  { s with
    atq := (s.atq.map fun e => (e.1, e.2.filter fun d => !(d.stalled && d.ctx = c && !s.sliceLive d.ctx d.seq))).filter fun e => !e.2.isEmpty
    hce := s.hce.filter fun e => e.2.ctx ≠ c }

/-- A context stops (R103, R367): engines leave their fault records, unfinished items end with
ST_CONTEXT_STOPPED, and their budgets are freed as for a cancellation. -/
def stopContext (c stopStatus : Nat) (s : State) : State :=
  match s.ctx c with
  | none => s
  | some x =>
    if x.stopped then s
    else
      let s := s.setCtx c fun x => { x with stopped := true, stopStatus := stopStatus }
      leaveBarriers (leaveStalls c (endAllItems c ST.contextStopped s))

/-- Groups of a context that still hold slots. -/
def residentGroups (s : State) (c : Nat) : Bool := s.cores.any fun e => e.2.groups.any fun g => g.2.ctx = c

/-- A CONTEXT_DESTROY that waits completes once the slots are free and the entries written (R367). -/
def finishDestroys (s : State) : State :=
  s.ctxs.foldl (fun s e =>
    match e.2.destroy with
    | some m =>
      if residentGroups s e.1 || !((s.ctx e.1).any fun x => x.held.isEmpty && x.items.isEmpty) then s
      else complete m ST.ok [] { s with ctxs := del s.ctxs e.1 }
    | none => s) s


/-- A job stops (R401): its record, the event with the missing member and the beat, the contexts with an unfinished item
that names it; its paths and collectives end. -/
def stopJob (id missing beat : Nat) (s : State) : State :=
  let s := { s with peer := { s.peer with
    jobs := modFirst (·.id = id) (fun j => { j with state := 3, stopping := none }) s.peer.jobs
    paths := s.peer.paths.filter (·.job ≠ id)
    colls := s.peer.colls.filter (·.job ≠ id) } }
  let s := logEvent 0x0706 0 (evAt 0 id + evAt 4 missing + evAt 8 beat) s
  let cs := (s.ctxs.filter fun e => e.2.items.any fun i => decide (i.phase < 3) && i.job = id).map (·.1)
  cs.foldl (fun s c => stopContext c ST.contextStopped s) s
/-- The jobs of a partition stop as by the JOB_STOP command (R447). -/
def stopJobs (p : Nat) (s : State) : State :=
  ((s.peer.jobs.filter fun j => j.part = p && decide (j.state < 3)).map (·.id)).foldl (fun s id => stopJob id 0xFFFF s.beat s) s

/-- A die is lost for its partition (R447): it is absent, every context of the partition stops with stop_status
ST_DIE_LOST, and its jobs stop. A second such event only stands in the log (R450). -/
def partitionFatal (d : Nat) (s : State) : State :=
  let s' := s.setDie d fun x => { x with state := 2 }
  match s.partOfDie d with
  | none => s'
  | some p =>
    if (s.part p).any (·.fatal) then s
    else
      let s := s'.setPart p fun q => { q with fatal := true }
      let cs := (s.ctxs.filter fun e => e.2.part = p).map (·.1)
      stopJobs p (cs.foldl (fun s c => stopContext c ST.dieLost s) s)

/-- The end of a command's work on memory: dies found lost act (R447). -/
def settle (s : State) : State := s.run.fatal.foldl (fun s d => partitionFatal d s) s

/-- What remains of a command where an access must wait: the wakes that it asks for, the groups that held it, and the agents to
which a snoop of it is held (R259). -/
def heldRun (t s : State) : State :=
  let s := t.run.wakes.foldl (fun s r => wakeRegion r s) s
  let s := if t.run.snooped.isEmpty then s
    else { s with coh := { s.coh with snooped := t.run.snooped.foldl (fun l a => addSorted a l) s.coh.snooped } }
  if t.run.links.isEmpty then s else { s with felt := { s.felt with heldReq := t.run.links ++ s.felt.heldReq } }
/-- A command that meets the given conditions of storage. -/
def runWith (md : Media) (f : State → State) (s : State) : State :=
  let t := f { s with run := { media := md } }
  if t.run.held then heldRun t s else settle t

/-- An item leaves its contract and goes on as BULK (R69, R70, R74, R453). -/
def demote (c seq : Nat) (s : State) : State :=
  (leavePlan c seq s.beat s).setItem c seq fun i => { i with cls := 2 }

end Sys2Proof.Machine
end

