-- ==== Sys2Proof/Machine/Agents.lean ====
section
/-! DEFINITION. The caching agents' own work: aged replacement (R229), the core L1 (R193, R234), the RLC (R233), the
L3's lines (R250 to R254), and the snoop filter's updates (R253). -/

namespace Sys2Proof.Machine

open Sys2Proof

/-! ## The core L1 -/

/-- Key of way 0 of a line's set (Table 09-1). -/
def l1Base (line : Nat) : Nat := line % 64 * 8
/-- Way that holds a line. -/
def Core.l1Way (k : Core) (line : Nat) : Option Nat :=
  (List.range 8).find? fun w => (look k.l1 (l1Base line + w)).any (·.line = line)
/-- The copy of a line. -/
def Core.l1Line (k : Core) (line : Nat) : Option L1Line := (k.l1Way line).bind fun w => look k.l1 (l1Base line + w)
/-- A demand miss allocates at age 2, with the line's poison. -/
def Core.l1Fill (k : Core) (line : Nat) (g : Got) : Core :=
  match agedVictim 8 fun w => (look k.l1 (l1Base line + w)).map fun e => (e.age, false) with
  | none => k
  | some (w, r) =>
    let aged := (List.range 8).foldl (fun t i =>
      match look t (l1Base line + i) with
      | some e => put t (l1Base line + i) { e with age := olderBy r e.age }
      | none => t) k.l1
    { k with l1 := put aged (l1Base line + w) { line, age := 2, data := g.data, poison := g.poison } }
/-- A hit makes the line young. -/
def Core.l1Hit (k : Core) (line : Nat) : Core :=
  match k.l1Way line with
  | some w => match look k.l1 (l1Base line + w) with
    | some e => { k with l1 := put k.l1 (l1Base line + w) { e with age := 0 } }
    | none => k
  | none => k
def Core.l1Drop (k : Core) (line : Nat) : Core :=
  match k.l1Way line with
  | some w => { k with l1 := del k.l1 (l1Base line + w) }
  | none => k
/-- A lane store updates a present copy (R193). -/
def Core.l1Store (k : Core) (line : Nat) (b : List (Nat × Byte)) : Core :=
  match k.l1Way line with
  | some w => match look k.l1 (l1Base line + w) with
    | some e => { k with l1 := put k.l1 (l1Base line + w) { e with data := b.foldl (fun d x => d.set x.1 x.2) e.data } }
    | none => k
  | none => k
/-- Lines that atomics, flag reads and semaphores touch leave the L1, which never holds them (R193). -/
def l1Leave (c : Nat) (ls : List Nat) (s : State) : State := s.setCore c fun k => ls.foldl (fun k l => k.l1Drop l) k
/-- The whole L1 of a core is invalidated (R193). -/
def l1Invalidate (c : Nat) (s : State) : State := s.setCore c fun k => { k with l1 := [] }

/-! ## Lines of an agent -/

def setAgentLine (agent line : Nat) (e : AgentLine) (s : State) : State :=
  { s with coh := { s.coh with lines := put s.coh.lines (agentKey agent line) e } }
/-- A line leaves an agent, and first the caches of a processor die's cores (R235). -/
def dropAgentLine (agent line : Nat) (s : State) : State :=
  let s := innerDrop (fun k => 16 + k / 24 = agent) line s
  { s with coh := { s.coh with lines := del s.coh.lines (agentKey agent line) } }
/-- Two lines share a set of an agent (R244, R325, Table 09-1). -/
def sameSet (s : State) (agent x y : Nat) : Bool := agentSetOf s agent x = agentSetOf s agent y
/-- The lines of an agent in a line's set: way, line, entry. -/
def agentSet (s : State) (agent line : Nat) : List (Nat × Nat × AgentLine) :=
  s.coh.lines.filterMap fun e =>
    if e.1 / 2 ^ 34 = agent && sameSet s agent (e.1 % 2 ^ 34) line then some (e.2.way, e.1 % 2 ^ 34, e.2) else none
/-- The line in a way of a set. -/
def agentWay (s : State) (agent line way : Nat) : Option (Nat × AgentLine) :=
  ((agentSet s agent line).find? fun e => e.1 = way).map fun e => (e.2.1, e.2.2)
/-- Every line of a set ages. -/
def ageAgentSet (agent line rounds : Nat) (s : State) : State :=
  (agentSet s agent line).foldl (fun s e => setAgentLine agent e.2.1 { e.2.2 with age := olderBy rounds e.2.2.age } s) s
/-- What a line reads as to every coherent agent: a dirty copy, else the home copy. -/
def coherentLine (s : State) (line : Nat) : Got :=
  match dirtyAt s line with
  | some (_, e) => ⟨e.data, e.poison⟩
  | none => ⟨lineBytes s line, s.poisoned line⟩

/-! ## The filter -/

/-- The filter entry of an agent that names a line. -/
def filterOf (s : State) (agent line : Nat) : Option (Nat × FSt) :=
  (s.coh.filter.find? fun e => e.1 / 2 ^ 20 = agent && e.2.line = line).map fun e => (e.1, e.2.st)
/-- Code of a filter state (Table 13-4). -/
def FSt.code : FSt → Nat
  | .S => 1
  | .O => 2
  | .U => 3
/-- The agent's entry for a line is cleared. -/
def filterClear (agent line : Nat) (s : State) : State :=
  match filterOf s agent line with
  | some (k, _) => { s with coh := { s.coh with filter := del s.coh.filter k } }
  | none => s
/-- The filter entry that an acknowledgement of an agent's way would replace: another line's. -/
def filterOld (s : State) (agent line way : Nat) : Option FEntry :=
  (look s.coh.filter (filterKey s agent line way)).bind fun e => if e.line = line then none else some e
/-- An acknowledgement passes: the way takes the line, its home's count rises when the way held no entry for it, and a
replaced entry sends a DROP to its line's home (Table 10-5). `now` applies the DROP at once. -/
def filterAck (agent line way : Nat) (st : FSt) (now : Bool) (s : State) : State :=
  let k := filterKey s agent line way
  let old := look s.coh.filter k
  let s := { s with coh := { s.coh with filter := put s.coh.filter k { line, st } } }
  if old.any (·.line = line) then s
  else
    let s := addPresence line 1 s
    match old with
    | some e =>
      if now then addPresence e.line (-1) s
      else sendFelt { op := 0x34, src := 24, dst := homeOf e.line, tag := 0, line := e.line } s
    | none => s

/-! ## Ways to fill -/

/-- Requests of an agent that are outstanding: on their way, held, waiting or open (R241, R254). -/
def outstanding (s : State) (agent : Nat) : List HomeReq :=
  ((s.coh.txns.map fun e => e.2.req) ++ s.coh.waiting ++ s.felt.held ++ s.felt.stalled.filterMap (·.req)).filter
    fun r => r.q.agent = some agent
/-- The request is a caching one: its requester keeps a copy, and its ACK ends the transaction. -/
def ReqKind.caching : ReqKind → Bool
  | .rdShared | .rdUnique | .upgrade => true
  | _ => false
/-- Ways of a line's set that outstanding requests of an agent have named (R254). -/
def namedWays (s : State) (agent line : Nat) : List Nat :=
  ((outstanding s agent).filter fun r => r.kind.caching && sameSet s agent r.line line).map (·.q.way)
/-- A snoop of a line is on its way to an agent (R254). -/
def snoopComing (s : State) (agent line : Nat) : Bool :=
  (s.coh.net ++ s.felt.stalled).any fun m => decide (0x11 ≤ m.op) && decide (m.op ≤ 0x13) && m.dst = agent && m.line = line
/-- A line may not be its agent's victim: a transaction on it is open, or a snoop of it is on its way (R254, R256). -/
def lineTied (s : State) (agent line : Nat) : Bool := lineBusy s line || snoopComing s agent line

/-- Way for a fill that writes nothing back, ages raised, and the old line gone (R254, R256): an invalid way, or a line in E
or S that nothing ties, and none that a request has named. -/
def agentRoom (agent line : Nat) (s : State) : Option Nat × State :=
  let ls := agentSet s agent line
  let named := namedWays s agent line
  match agedVictim (agentWays s agent) fun w =>
    match ls.find? fun e => e.1 = w with
    | some e => some (e.2.2.age, named.contains w || lineTied s agent e.2.1 || e.2.2.st = .M || e.2.2.st = .O)
    | none => if named.contains w then some (0, true) else none with
  | none => (none, s)
  | some (w, r) =>
    let s := ageAgentSet agent line r s
    (some w, match agentWay s agent line w with
      | some (l, _) => dropAgentLine agent l s
      | none => s)

/-! ## The RLC's fill, as one transaction (R233, R246) -/

/-- Holders other than the requester answer SNP_SHARED (Table 10-4), and the filter follows (Table 10-5). -/
def snoopShared (agent line : Nat) (s : State) : State :=
  (List.range 20).foldl (fun s a =>
    if a = agent then s
    else
      let s := match filterOf s a line with
        | some (k, .U) => { s with coh := { s.coh with filter := put s.coh.filter k { line, st := .O } } }
        | _ => s
      match agentLine s a line with
      | some e =>
        if e.st = .M then setAgentLine a line { e with st := .O } s
        else if e.st = .E then setAgentLine a line { e with st := .S } s else s
      | none => s) s

/-- A line's way from its home to the RLC of a die, which keeps it (R291, R292). -/
def toRlc (die line : Nat) (g : Got) (s : State) : Got × State :=
  let k := homeOf line
  passLine line (0x6000 + k) 0 (receivers s true k die ++ [(0xE000 + die, 1)]) g s
/-- RD_SHARED of the RLC of a die: the line as delivered, and the RLC holding it. -/
def rlcFill (die line : Nat) (s : State) : Got × State :=
  let k := homeOf line
  let others := (filterHits s line).any fun e => e.1 / 2 ^ 20 ≠ die
  let (g, s) := homeRead k line false s
  let (g, s) := toRlc die line g (snoopShared die line s)
  if 64 ≤ (outstanding s die).length then (g, holdRun s)
  else match agentRoom die line s with
  | (none, s) => (g, s)
  | (some w, s) =>
    let s := filterAck die line w (if others then .S else .U) true s
    (g, setAgentLine die line { st := if others then .S else .E, way := w, data := g.data, poison := g.poison } s)

/-! ## A lane's read of a stack line (R193, R233, R234) -/

/-- The RLC's copy is verified where it hits (R296); one that fails is poisoned there (R294). -/
def rlcVerify (die line : Nat) (e : AgentLine) (s : State) : Got × State :=
  let (g, s) := passLine line (nearEnd die) e.sill [(0xE000 + die, 1)] ⟨e.data, e.poison⟩ s
  (g, setAgentLine die line { e with age := 0, poison := g.poison, sill := if g.poison then 0 else e.sill } s)
/-- A hit in the RLC, with its array's condition (Table 09-4); an uncorrectable error too is logged as RLC_CE (DEDUCED, log 92). -/
def rlcRead (die line : Nat) (e : AgentLine) (s : State) : Got × State :=
  let (m, s) := takeMedium line s
  match m with
  | .ue => rlcFill die line (dropAgentLine die line (logEvent 0x0309 1 (evAt 0 die) s))
  | .corrected _ => rlcVerify die line e (logEvent 0x0309 1 (evAt 0 die) s)
  | .flipped x => rlcVerify die line { e with sill := e.sill ^^^ x } s
  | _ => rlcVerify die line e s

/-- A lane load's line of stack `k`: the L1's copy, or the home's through the RLC on another die, verified at the L1's fill
(R296); an L1 copy whose parity fails is a miss. -/
def laneLine (c k line : Nat) (s : State) : Got × State :=
  let die := dieOfCore c
  let miss := fun (s : State) =>
    let (g, s) :=
      if k = die then homeRead k line false s
      else match agentLine s die line with
        | some e => rlcRead die line e s
        | none => rlcFill die line s
    let (g, s) := passLine line (if k = die then 0x6000 + k else 0xE000 + die) 0 [(0x8800 + c, 3)] g s
    (g, s.setCore c fun x => x.l1Fill line g)
  match (s.core c).l1Line line with
  | none => miss s
  | some e =>
    let (m, s) := takeMedium line s
    if m = .good then (⟨e.data, e.poison⟩, s.setCore c fun x => x.l1Hit line)
    else miss (logEvent 0x0304 1 (evAt 0 c) (s.setCore c fun x => x.l1Drop line))

end Sys2Proof.Machine
end

