-- ==== Sys2Proof/Machine/Home.lean ====
section
/-! DEFINITION. The home of a line: atomics (R187 to R190), transactions message by message (R246 to R258), and the
completion of a processor core's access at its L3 (R192, R250). -/

namespace Sys2Proof.Machine

open Sys2Proof

/-! ## Atomics -/

/-- New value of an atomic, by funct5 (Table 13-5): 0x1E SEM.REL, 0x1F SEM.ACQ. -/
def amoNew (f5 bits old v : Nat) : Nat :=
  let so := signed bits old
  let sv := signed bits v
  match f5 with
  | 0x00 => (old + v) % 2 ^ bits
  | 0x01 => v
  | 0x04 => old ^^^ v
  | 0x08 => old ||| v
  | 0x0C => old &&& v
  | 0x10 => if so ≤ sv then old else v
  | 0x14 => if so ≤ sv then v else old
  | 0x18 => Nat.min old v
  | 0x1C => Nat.max old v
  | 0x1E => (old + v) % 2 ^ bits
  | 0x1F => if v ≤ old then old - v else old
  | _ => old

/-- Operands applied in order to a line: word offset and value each; the old values (R189, R190). -/
def amoRun (f5 width : Nat) : List (Nat × W64) → List Byte → List Nat × List Byte
  | [], d => ([], d)
  | (o, v) :: t, d =>
    let old := leAt d (o * width) width
    let new := amoNew f5 (8 * width) old (v.toNat % 2 ^ (8 * width))
    let (l, d) := amoRun f5 width t (d.take (o * width) ++ leBytes width new ++ d.drop (o * width + width))
    (old :: l, d)

/-- Dirty data of a snooped agent reaches the home copy. -/
def mergeDirty (line : Nat) (d : Option (List Byte × Bool)) (s : State) : State :=
  match d with
  | some (b, p) => lineWritten line (storeUnit line (atOffsets 0 (fit b)) p s)
  | none => s

/-- An atomic at the home, every other copy gone: the old values, and whether the line was poisoned. -/
def atomicAt (k line f5 width : Nat) (ops : List (Nat × W64)) (s : State) : List Nat × Bool × State :=
  let s := homeFetch k line 3 .atomic false s
  let before := lineBytes s line
  let (olds, after) := amoRun f5 width ops before
  let changed := ((List.range 256).zip (before.zip after)).filterMap fun e => if e.2.1 = e.2.2 then none else some (e.1, e.2.2)
  let wrote := decide (f5 ≠ 0x1F) || !changed.isEmpty
  let p := s.poisoned line
  let s := storeUnit line changed false s
  (olds, p, if wrote then lineWritten line s else s)

/-- An atomic as one transaction (R187, R247). No atomic executes anywhere but at a stack home: one that an engine or a
peer asks for elsewhere changes nothing (DESIGN CHOICE, log 57). -/
def homeAtomic (line f5 width : Nat) (ops : List (Nat × W64)) (s : State) : List Nat × Bool × State :=
  if 2 ^ 40 ≤ line * 256 then ([], false, s) else
  let k := homeOf line
  atomicAt k line f5 width ops (snoopOut k line true (homeWait line .atomic s))

/-- A watch on a line for a core, while the home has an entry free (R257). -/
def watchLine (line c : Nat) (s : State) : State :=
  let mine := s.coh.watches.filter fun w => homeOf w.1 = homeOf line
  if 1024 ≤ mine.length || s.coh.watches.contains (line, c) then s
  else { s with coh := { s.coh with watches := s.coh.watches ++ [(line, c)] } }

/-! ## A processor core's access at its L3 -/

/-- Agent of a processor core's L3, and the die. -/
def l3Of (k : Nat) : Nat := 16 + k / 24
def setProc (k : Nat) (g : ProcGot) (s : State) : State := { s with proc := put s.proc k g }
/-- Access-fault exception of an operation (R299, R373): fetch 1, load 5, store or AMO 7. -/
def procFaultCode : ProcOp → Nat
  | .fetch => 1
  | .load => 5
  | .lr => 5
  | _ => 7
/-- A poisoned line reaches a core (Table 12-4). -/
def procPoison (k a : Nat) (op : ProcOp) (s : State) : State :=
  setProc k (.exception (procFaultCode op)) (logEvent 0x030C 2 (evAt 0 k + evAt 8 a) s)
/-- A load's value, or the exception of a poisoned line. -/
def procLoad (k : Nat) (r : ProcReq) (g : Got) (s : State) : State :=
  if g.poison then procPoison k r.addr r.op s
  else setProc k (.value (BitVec.ofNat 64 (leAt g.data (r.addr % 256) r.size))) s
/-- A store into a line that the L3 holds alone; E becomes M (R251). -/
def procStore (k : Nat) (r : ProcReq) (e : AgentLine) (s : State) : State :=
  let off := r.addr % 256
  let new := e.data.take off ++ leBytes r.size r.v.toNat ++ e.data.drop (off + r.size)
  setProc k .done (setAgentLine (l3Of k) (lineOf r.addr) { e with st := .M, data := new, sill := 0, age := 0 } s)

/-! ## The caches of a processor core (R224, R235) -/

/-- A line in a cache of `sets` sets and `ways` ways: made young by a hit, or placed at age 2 (R229). -/
def pTouch (sets ways line : Nat) (dirty : Bool) (t : Tab PLine) : Tab PLine :=
  let key := fun w => line % sets * ways + w
  match (List.range ways).find? fun w => (look t (key w)).any (·.line = line) with
  | some w => put t (key w) { line, age := 0, dirty := dirty || (look t (key w)).any (·.dirty) }
  | none =>
    match agedVictim ways fun w => (look t (key w)).map fun e => (e.age, false) with
    | none => t
    | some (w, r) =>
      let t := (List.range ways).foldl (fun t i =>
        match look t (key i) with
        | some e => put t (key i) { e with age := olderBy r e.age }
        | none => t) t
      put t (key w) { line, dirty }
def State.pcacheOf (s : State) (k : Nat) : PCache := lookD s.coh.pcache k {}
def State.setPcache (s : State) (k : Nat) (f : PCache → PCache) : State :=
  { s with coh := { s.coh with pcache := putD s.coh.pcache k (f (s.pcacheOf k)) {} } }
def PCache.has (t : Tab PLine) (line : Nat) : Bool := t.any (·.2.line = line)
/-- A core's access passes through its caches: the L1 of its kind, then the L2, to which a store is written through. -/
def procCaches (k line : Nat) (op : ProcOp) (s : State) : State :=
  s.setPcache k fun p =>
    let store := op = .store
    let hit := if op = .fetch then PCache.has p.l1i line else PCache.has p.l1d line
    { l1i := if op = .fetch then pTouch 32 8 line false p.l1i else p.l1i
      l1d := if op = .fetch then p.l1d else pTouch 32 8 line false p.l1d
      l2 := if hit && !store then p.l2 else pTouch 256 16 line store p.l2 }
/-- The array that serves a core's access, as PRC_CE and PRC_UE number it (Table 18-10): 1 L1D, 2 L1I, 3 L2, 4 L3. -/
def procArray (k line : Nat) (op : ProcOp) (s : State) : Nat :=
  let p := s.pcacheOf k
  if op = .fetch && PCache.has p.l1i line then 2
  else if op ≠ .fetch && PCache.has p.l1d line then 1
  else if PCache.has p.l2 line then 3 else 4

/-- What the L3's line can serve. -/
def procServe (k : Nat) (r : ProcReq) (s : State) : Option State :=
  let line := lineOf r.addr
  match agentLine s (l3Of k) line with
  | none => none
  | some e =>
    match r.op with
    | .load | .fetch =>
      some (procLoad k r ⟨e.data, e.poison⟩ (procCaches k line r.op (setAgentLine (l3Of k) line { e with age := 0 } s)))
    | .store => if e.st = .M || e.st = .E then some (procStore k r e (procCaches k line r.op s)) else none
    | _ => none

/-! ## Messages -/

/-- A message has arrived: its first copy leaves the fabric. -/
def takeFelt (p : FeltMsg → Bool) (s : State) : State := { s with coh := { s.coh with net := dropFirst p s.coh.net } }
/-- A completion reaches a requester that is no caching agent. -/
def gotFelt (m : FeltMsg) (s : State) : State := { s with coh := { s.coh with got := s.coh.got ++ [m] } }
def setTxn (line : Nat) (t : Txn) (s : State) : State := { s with coh := { s.coh with txns := put s.coh.txns line t } }
def delTxn (line : Nat) (s : State) : State := { s with coh := { s.coh with txns := del s.coh.txns line } }

/-- Snoop that a request calls for (Table 10-3): 0 shared, 1 current, 2 invalidating. -/
def ReqKind.snoop : ReqKind → Nat
  | .rdShared => 0
  | .rdCur => 1
  | _ => 2
/-- Requests that are queried whatever the presence count (R249). -/
def HomeReq.alwaysQuery (r : HomeReq) : Bool :=
  r.q.proc.isSome || (match r.kind with | .lr => true | .sc _ => true | _ => false)
/-- What a request is to the home's L2 (Table 09-2). -/
def ReqKind.l2 : ReqKind → L2Req
  | .rdShared | .rdUnique | .upgrade | .rdCur | .lr => .read
  | .wrFull _ => .write
  | .wrPart _ | .sc _ => .part
  | .atomic _ _ _ => .atomic
/-- Message code of a request (Table 13-4). -/
def ReqKind.code : ReqKind → Nat
  | .rdShared => 0x01
  | .rdUnique => 0x02
  | .upgrade => 0x03
  | .rdCur => 0x04
  | .wrFull _ => 0x05
  | .wrPart _ => 0x06
  | .atomic _ _ _ => 0x07
  | .lr => 0x08
  | .sc _ => 0x09

/-- DAT to the requester. -/
def datTo (r : HomeReq) (grant : Nat) (g : Got) (s : State) : State :=
  sendFelt { op := 0x20, src := homeOf r.line, dst := r.q.die, tag := r.q.tag, line := r.line, body := grant
             data := g.data, poison := g.poison, crown := r.kind.caching } s
/-- RSP_DONE to the requester. -/
def doneTo (r : HomeReq) (ok : Bool) (s : State) : State :=
  sendFelt { op := 0x1D, src := homeOf r.line, dst := r.q.die, tag := r.q.tag, line := r.line, body := b01 ok } s

/-- Bytes of a masked write. -/
def maskedBytes (mask : BitVec 256) (data : List Byte) : List (Nat × Byte) :=
  ((List.range 256).zip data).filter fun e => mask.getLsbD e.1
/-- The line read at the home for a request, or the dirty data that a snoop returned. -/
def txnData (t : Txn) (s : State) : Got × State :=
  match t.dirty with
  | some (d, p) => (⟨d, p⟩, s)
  | none =>
    let s := homeFetch (homeOf t.req.line) t.req.line 1 .read t.req.q.streaming s
    (⟨lineBytes s t.req.line, s.poisoned t.req.line⟩, s)
/-- A write hint that leads to an offer (R256). -/
def offerTo (t : Txn) (hint : Option Nat) : Option Nat :=
  match hint with
  | some a => if a = homeOf t.req.line || t.answered.contains a || 20 ≤ a then none else some a
  | none => none

/-- The flag holds what a core waits for (R95). -/
def watchMet (w : WatchFor) (data : List Byte) : Bool :=
  let n := leAt data w.off 8
  if w.ge then decide (w.v.toNat ≤ n) else n = w.v.toNat
/-- Key of a processor core's reservation at a home (R258). -/
def resvKey (c k : Nat) : Nat := c * 16 + k

/-- `perform` and the completion of R247; the state, and whether an answer of the requester or of an offer ends the
transaction. -/
def performTxn (t : Txn) (s : State) : Bool × State :=
  let r := t.req
  let line := r.line
  let k := homeOf line
  let s := { s with run := { s.run with media := [(line, r.medium)] } }
  match r.kind with
  | .rdShared =>
    let (g, s) := txnData t s
    let grant := if t.other then 1 else 2
    (true, setTxn line { t with ackAwaited := true, grant } (datTo r grant g s))
  | .rdUnique =>
    let s := mergeDirty line t.dirty s
    let (g, s) := txnData { t with dirty := none } s
    let grant := if t.dirty.isSome then 3 else 2
    (true, setTxn line { t with ackAwaited := true, grant } (datTo r grant g s))
  | .upgrade =>
    let s := mergeDirty line t.dirty s
    let s := setTxn line { t with ackAwaited := true, grant := 3 } s
    if t.entry ≠ 0 then
      (true, sendFelt { op := 0x1C, src := k, dst := r.q.die, tag := r.q.tag, line, body := 3 } s)
    else
      let (g, s) := txnData { t with dirty := none } s
      (true, datTo r 3 g s)
  | .rdCur =>
    let (g, s) := txnData t s
    let s := match r.q.watch with
      | some w => if g.poison || watchMet w g.data then s else watchLine line w.core s
      | none => s
    (false, datTo r 0 g s)
  | .wrFull hint =>
    let s := lineWritten line (storeUnit line (atOffsets 0 r.data) r.poison (l2Touch k line .write r.q.streaming s))
    let s := doneTo r false s
    match offerTo t hint with
    | some a =>
      (true, setTxn line { t with ackAwaited := true } (sendFelt { op := 0x21, src := k, dst := a, tag := r.q.tag, line
                                                                   data := r.data, poison := r.poison } s))
    | none => (false, s)
  | .wrPart mask =>
    let s := homeFetch k line 3 .part r.q.streaming (mergeDirty line t.dirty s)
    (false, doneTo r false (lineWritten line (storeUnit line (maskedBytes mask r.data) r.poison s)))
  | .atomic f5 width ops =>
    let (olds, p, s) := atomicAt k line f5 width ops (mergeDirty line t.dirty s)
    let short := f5 = 0x1F && (olds.zip ops).any fun e => decide (e.1 < e.2.2.toNat)
    let s := match r.q.watch with
      | some w => if short then watchLine line w.core s else s
      | none => s
    (false, datTo r 0 ⟨olds.flatMap (leBytes 8), p⟩ s)
  | .lr =>
    let (g, s) := txnData { t with dirty := none } (mergeDirty line t.dirty s)
    let s := match r.q.proc with
      | some c => { s with coh := { s.coh with resv := put s.coh.resv (resvKey c k) line } }
      | none => s
    (false, datTo r 0 g s)
  | .sc mask =>
    let s := mergeDirty line t.dirty s
    let ok := r.q.proc.any fun c => look s.coh.resv (resvKey c k) = some line
    let s := match r.q.proc with
      | some c => { s with coh := { s.coh with resv := del s.coh.resv (resvKey c k) } }
      | none => s
    if ok then
      let s := homeFetch k line 3 .part false s
      (false, doneTo r true (lineWritten line (storeUnit line (maskedBytes mask r.data) false s)))
    else (false, doneTo r false s)

/-- A request is accepted: the line is blocked, and the filter is queried where R247 and R249 call for it. -/
def openTxn (r : HomeReq) (s : State) : State :=
  if presenceOf s r.line ≠ 0 || r.alwaysQuery then
    sendFelt { op := 0x10, src := homeOf r.line, dst := 24, tag := r.q.tag, line := r.line, body := r.kind.snoop, cls := r.q.cls }
      (setTxn r.line { req := r, query := true } s)
  else setTxn r.line { req := r, query := false } s

/-- Order in which waiting requests are accepted (R248): processor cores, the Nose and the host count as SOFT. The requests of
the Crown's host copy engines, its streaming ones, go by the class of their items. -/
def HomeReq.order (r : HomeReq) : Nat := if r.q.proc.isSome || (r.q.die = 24 && !r.q.streaming) then 1 else r.q.cls
/-- A transaction awaits nothing but its performance: every snoop is answered, every crossing write-back applied, and its
bank has a way (R229, R247). -/
def Txn.ready (t : Txn) (s : State) : Bool :=
  !t.query && !t.ackAwaited && decide (t.replies ≤ t.answered.length) && t.wbs.isEmpty && !l2Waits t.req.line t.req.kind.l2 s
/-- The request that a home accepts next (R242, R248). -/
def nextWaiting (k : Nat) (s : State) : Option HomeReq :=
  let ready := s.coh.waiting.filter fun r => homeOf r.line = k && (look s.coh.txns r.line).isNone
  let best := ready.foldl (fun m r => Nat.min m r.order) 3
  if 1024 ≤ homeOpen s k then none else ready.find? fun r => r.order = best
/-- A home goes on: transactions that are ready are performed, and end unless an answer of a requester or of an offer ends
them; then waiting requests are accepted. -/
def runHome (k : Nat) : Nat → State → State
  | 0, s => s
  | n + 1, s =>
    match s.coh.txns.find? fun e => homeOf e.1 = k && e.2.ready s with
    | some (line, t) =>
      let (waits, s) := performTxn t s
      runHome k n (if waits then s else delTxn line s)
    | none =>
      match nextWaiting k s with
      | none => s
      | some r => runHome k n (openTxn r { s with coh := { s.coh with waiting := dropFirst (· = r) s.coh.waiting } })
/-- A home goes on as far as it can. -/
def pumpHome (k : Nat) (s : State) : State := runHome k (2 * s.coh.waiting.length + s.coh.txns.length + 1) s
/-- The line is unblocked. -/
def unblock (line : Nat) (s : State) : State := pumpHome (homeOf line) (delTxn line s)

/-- An access of a request goes by the Crown where a message of it between an agent, a home and the filter does (R244). -/
def HomeReq.use (r : HomeReq) : Use := { crown := r.kind.caching }
/-- Status with which a home refuses a request (R308): no stack line, or not the requester's partition. The Crown and
the port dies act for the partition of the item or operation they carry. -/
def homeStatus (r : HomeReq) (s : State) : Nat :=
  let a := r.line * 256
  match placeOf s a with
  | .stack k => accessStatus (if r.q.die < 20 then s.partOfDie r.q.die else s.partOfBrim k) r.q.die a r.use s
  | _ => accessStatus (s.partOfDie r.q.die) r.q.die a r.use s

/-- The point that made the words of a request's data. A request names no engine: a processor core's leaves its L3, a Brim
die's its copy engine or a core's L1, the Crown's a host copy engine or BAR4, and a port die's its first port (DESIGN
CHOICE, log 89). -/
def reqMaker (q : Requester) : Nat :=
  if q.proc.isSome then 0xE000 + q.die
  else if q.die < 16 then (if q.streaming then 0xC000 + q.die else 0x8800 + q.die * 64)
  else if q.die = 24 then (if q.streaming then 0x1000 else 0x1010)
  else if 20 ≤ q.die then 0x3000 + (q.die - 20) * 4 else 0xE000 + q.die
/-- The request carries a line of data to be stored. -/
def ReqKind.writes : ReqKind → Bool
  | .wrFull _ | .wrPart _ | .sc _ => true
  | _ => false
/-- A refused request ends with RSP_ERR; the refusal of a processor core's is always an event (R35, R373). -/
def refuseReq (r : HomeReq) (src st : Nat) (s : State) : State :=
  let s := if refusalLogged st || r.q.proc.isSome then logRefused st (if r.q.proc.isSome then 5 else 1) r.q.die
    ((r.q.proc.map (2 ^ 31 + ·)).getD noCtx) (r.line * 256) s else s
  sendFelt { op := 0x1E, src, dst := r.q.die, tag := r.q.tag, line := r.line, body := st, crown := r.kind.caching } s
/-- A request arrives: its data is verified on its way (R292), and it waits to be accepted; or it is refused. -/
def arriveHome (r : HomeReq) (s : State) : State :=
  let st := homeStatus r s
  match placeOf s (r.line * 256) with
  | .stack k =>
    if st = ST.ok then
      let (g, s) :=
        if r.kind.writes then
          passLine r.line (reqMaker r.q) 0 (receivers s r.kind.caching r.q.die k ++ [(0x6000 + k, 1)]) ⟨r.data, r.poison⟩
            { s with run := { s.run with media := [(r.line, r.medium)] } }
        else (⟨r.data, r.poison⟩, s)
      pumpHome k { s with coh := { s.coh with waiting := s.coh.waiting ++ [{ r with poison := g.poison }] } }
    else refuseReq r k st s
  | _ => refuseReq r (homeDie s (r.line * 256)) (if st = ST.ok then ST.addressHole else st) s

/-- A request message. -/
def HomeReq.msg (r : HomeReq) (s : State) : FeltMsg :=
  { op := r.kind.code, src := r.q.die, dst := homeDie s (r.line * 256), tag := r.q.tag, line := r.line, cls := r.q.cls
    data := r.data, poison := r.poison, req := some r }
/-- A request is sent: it takes a credit of the REQ channel on each hop, or waits for one (R242, R311). -/
def sendReq (r : HomeReq) (s : State) : State :=
  let m := r.msg s
  if s.felt.stalled.any (fun k => k.src = m.src && vcOf k.op = 0) || !m.credited s then
    { s with felt := { s.felt with stalled := s.felt.stalled ++ [m] } }
  else arriveHome r (takeCredits m s)
/-- A message that waited for credit goes, a request to its home. -/
def sendAgain (m : FeltMsg) (s : State) : State :=
  match m.req with
  | some r => sendReq r s
  | none => sendFelt m s

/-! ## Lines that leave an agent -/

/-- A line of an agent in a write-back buffer. -/
def pendingWb (s : State) (agent line : Nat) : Option (Nat × WbBuf) :=
  (s.coh.wb.find? fun e => e.1 / 64 = agent && e.2.line = line).map fun e => (e.1 % 64, e.2)
/-- Key of a phase (R255). -/
def phaseKey (agent buf home : Nat) : Nat := (agent * 64 + buf) * 16 + home
/-- Most requests that an agent keeps outstanding (Table 10-1). -/
def mostOutstanding (agent : Nat) : Nat := if agent < 16 then 64 else 256
/-- The way that an L3 gives to a line (R229, R254): no way whose line is tied or that another request has named. -/
def l3Way (agent line : Nat) (s : State) : Option (Nat × Nat) :=
  let ls := agentSet s agent line
  let named := ((s.procReq.filter fun e => l3Of e.1 = agent && sameSet s agent (lineOf e.2.addr) line).map (·.2.way)) ++ namedWays s agent line
  agedVictim (agentWays s agent) fun w =>
    match ls.find? fun e => e.1 = w with
    | some e => some (e.2.2.age, named.contains w || lineTied s agent e.2.1)
    | none => if named.contains w then some (0, true) else none
/-- A write-back buffer of an agent that is free. -/
def freeBuf (agent : Nat) (s : State) : Option Nat :=
  (List.range 64).find? fun b => (look s.coh.wb (agent * 64 + b)).isNone
/-- The line in a way leaves the agent: a dirty line by its WB, whose phase then turns (R254, R255). The word that goes with it
is made from the line as held (Table 12-3). -/
def evictWay (agent line way : Nat) (s : State) : State :=
  match agentWay s agent line way with
  | none => s
  | some (l, e) =>
    let s := dropAgentLine agent l s
    if e.st = .M || e.st = .O then
      match freeBuf agent s with
      | none => s
      | some b =>
        let key := phaseKey agent b (homeOf l)
        let ph := lookD s.coh.phases key true
        let s := { s with coh := { s.coh with
          wb := put s.coh.wb (agent * 64 + b) { line := l, phase := ph, way }
          phases := putD s.coh.phases key (!ph) true } }
        sendFelt { op := 0x28, src := agent, dst := homeOf l, tag := b * 256 + 128 * b01 ph, line := l, data := e.data
                   poison := e.poison } s
    else s

/-- What a request's sending does at its own die: the victim that it names leaves (R254), and a write that passes the die's
egress takes the line from its RLC (R233). -/
def atSender (r : HomeReq) (s : State) : State :=
  match r.kind with
  | .rdShared | .rdUnique => (r.q.agent.map fun a => evictWay a r.line r.q.way s).getD s
  | .upgrade | .rdCur | .lr => s
  | _ => if r.q.die < 16 && homeOf r.line ≠ r.q.die then dropAgentLine r.q.die r.line s else s
/-- A requester sends a request: held while a group on its way retrains (R318). -/
def requestHome (r : HomeReq) (s : State) : State :=
  let r := { r with beat := s.beat }
  let s := atSender r s
  if homeStatus r s = ST.ok && wayTo s r.use r.q.die (homeDie s (r.line * 256)) = 1 then
    { s with felt := { s.felt with held := s.felt.held ++ [r] } }
  else sendReq r s
/-- A held request goes when its group returns (R318). -/
def releaseReq (r : HomeReq) (s : State) : State :=
  if homeStatus r s = ST.ok && wayTo s r.use r.q.die (homeDie s (r.line * 256)) = 1 then
    { s with felt := { s.felt with held := s.felt.held ++ [r] } }
  else sendReq r s

/-! ## Snoops, answers and acknowledgements -/

/-- Body of RSP_FCOUNT (Table 13-4). -/
def fcountBody (sent cleared entry : Nat) (other : Bool) : Nat :=
  inFld sent 29 5 + inFld cleared 24 5 + inFld entry 22 2 + inFld (b01 other) 21 1
/-- A filter slice answers a query: one snoop to every listed agent but a caching requester; the Crown answers for a
lost agent (R253, R259). -/
def filterQuery (t : Txn) (s : State) : State :=
  let r := t.req
  let kind := r.kind.snoop
  let me := if r.kind.caching then r.q.agent else none
  let hits := (filterHits s r.line).map fun e => (e.1 / 2 ^ 20, e.1, e.2.st)
  let others := hits.filter fun h => some h.1 ≠ me
  let agents := (List.range 20).filter fun a => others.any (·.1 = a)
  let entry := ((hits.find? fun h => some h.1 = me).map fun h => h.2.2.code).getD 0
  let filter := others.foldl (fun f h =>
    if kind = 2 then del f h.2.1
    else if kind = 0 && h.2.2 = .U then put f h.2.1 { line := r.line, st := .O } else f) s.coh.filter
  let s := agents.foldl (fun s a =>
    if s.coh.lost.contains a then sendFelt { op := 0x19, src := a, dst := homeOf r.line, tag := r.q.tag, line := r.line } s
    else sendFelt { op := 0x11 + kind, src := 24, dst := a, tag := r.q.tag, line := r.line, cls := r.q.cls } s)
    { s with coh := { s.coh with filter } }
  sendFelt { op := 0x18, src := 24, dst := homeOf r.line, tag := r.q.tag, line := r.line
             body := fcountBody agents.length (if kind = 2 then others.length else 0) entry (!others.isEmpty) } s

/-- An agent answers a snoop from its state (Table 10-4): a line that it holds, though an earlier WB of it awaits its WB_ACK;
else one that is pending. -/
def answerSnoop (agent line tag kind : Nat) (s : State) : State :=
  let reply := fun (op body : Nat) (g : Got) (s : State) =>
    sendFelt { op, src := agent, dst := homeOf line, tag, line, body, data := g.data, poison := g.poison, crown := true } s
  match agentLine s agent line with
  | some e =>
    let dirty := e.st = .M || e.st = .O
    let s := if kind = 2 then dropAgentLine agent line s
      else if kind = 0 then
        setAgentLine agent line { e with st := if e.st = .M then .O else if e.st = .E then .S else e.st } s
      else s
    if dirty then reply 0x20 0 ⟨e.data, e.poison⟩ s
    else if kind = 2 then reply 0x19 0 ⟨[], false⟩ s else reply 0x1A 0 ⟨[], false⟩ s
  | none =>
    match pendingWb s agent line with
    | some (buf, b) => reply 0x1B (inFld buf 28 6 + inFld (b01 b.phase) 27 1) ⟨[], false⟩ s
    | none => reply 0x19 0 ⟨[], false⟩ s

/-- One snoop reply reaches the home. -/
def replyHome (agent line : Nat) (f : Txn → Txn) (s : State) : State :=
  match look s.coh.txns line with
  | none => s
  | some t =>
    if t.ackAwaited || t.answered.contains agent then s
    else pumpHome (homeOf line) (setTxn line (f { t with answered := t.answered ++ [agent] }) s)

/-- A write-back reaches the home copy on arrival (R255); that of a stack taken off line has nowhere to go (R223, DEDUCED, log 38). Its
phase is recorded and it is acknowledged. -/
def applyWb (agent line buf : Nat) (phase : Bool) (g : Got) (s : State) : State :=
  let k := homeOf line
  let s := if s.stackState k = 0 then
      lineWritten line (storeUnit line (atOffsets 0 (fit g.data)) g.poison (l2Touch k line .writeBack false s))
    else s
  let s := { s with coh := { s.coh with applied := putD s.coh.applied (phaseKey agent buf k) phase false } }
  let s := sendFelt { op := 0x33, src := k, dst := agent, tag := buf * 256 + 128 * b01 phase, line, crown := true } s
  match look s.coh.txns line with
  | none => pumpHome k s
  | some t => pumpHome k (setTxn line { t with wbs := t.wbs.filter (· ≠ (agent, buf, phase)) } s)

/-- A request of a core goes to the home of its line. -/
def procAsk (k : Nat) (r : ProcReq) (kind : ReqKind) (data : List Byte) (m : Medium) (s : State) : State :=
  let q : Requester :=
    { die := l3Of k, tag := k, streaming := false, cls := 1, proc := some k, watch := none, agent := some (l3Of k), way := r.way }
  requestHome { q, kind, line := lineOf r.addr, data, medium := m } { s with procReq := put s.procReq k r }

/-- Requests of a die's cores on a line are served once its L3 has the line; a store that finds it shared asks for the
upgrade. -/
def procFinish (agent line : Nat) (s : State) : State :=
  s.procReq.foldl (fun s e =>
    if l3Of e.1 = agent && lineOf e.2.addr = line then
      match procServe e.1 e.2 s with
      | some t => { t with procReq := del t.procReq e.1 }
      | none => if e.2.op = .store then procAsk e.1 e.2 .upgrade [] .good s else s
    else s) s

/-- The ACK of a granted line leaves, or waits for the WB_ACK of the line that its way held (R254). -/
def sendAck (agent line way tag : Nat) (s : State) : State :=
  match s.coh.wb.find? fun e => e.1 / 64 = agent && e.2.way = way && sameSet s agent e.2.line line && e.2.ack.isNone with
  | some e => { s with coh := { s.coh with wb := put s.coh.wb e.1 { e.2 with ack := some (line, tag) } } }
  | none => sendFelt { op := 0x30, src := agent, dst := homeOf line, tag, line, body := way } s

/-- The line comes to rest at a caching agent in the granted state, and its ACK leaves (R248, R252). An RLC holds no line in M
(R233). -/
def grantLine (agent line way tag grant : Nat) (g : Got) (s : State) : State :=
  let st : Moesi := if grant = 1 then .S else if grant = 2 || agent < 16 then .E else .M
  let s := setAgentLine agent line { st, way, data := fit g.data, poison := g.poison } s
  procFinish agent line (sendAck agent line way tag s)

/-! ## Write hints of the engines (R256) -/

/-- The agent that a hint byte names (Table 13-5). -/
def hintOf (b : Nat) : Option Nat := if b.testBit 7 && decide (b % 32 < 20) then some (b % 32) else none
/-- The line that the engine at work has written whole is offered to the agent of its hint, and stays blocked for its answer:
not to the home's own RLC, nor to an agent that the write's snoop invalidated. -/
def offerLine (hint : Option Nat) (snooped : List Nat) (line : Nat) (g : Got) (s : State) : State :=
  match hint, placeOf s (line * 256) with
  | some a, .stack k =>
    if a = k || snooped.contains a then s
    else
      let q : Requester :=
        { die := s.run.die.getD 24, tag := 0, streaming := true, cls := 1, proc := none, watch := none, agent := none, way := 0 }
      let r : HomeReq := { q, kind := .wrFull (some a), line, data := g.data, poison := g.poison, beat := s.beat }
      sendFelt { op := 0x21, src := k, dst := a, tag := 0, line, data := g.data, poison := g.poison }
        (setTxn line { req := r, query := false, ackAwaited := true } s)
  | _, _ => s
/-- A line write of an engine with a write hint. -/
def hintedWrite (hint : Option Nat) (line : Nat) (b : List (Nat × Byte)) (poison : Bool) (s : State) : State :=
  let snooped := (filterHits s line).map fun e => e.1 / 2 ^ 20
  let s := lineWrite line b poison true s
  if coversLine b then offerLine hint snooped line ⟨lineBytes s line, s.poisoned line⟩ s else s

end Sys2Proof.Machine
end

