-- ==== Sys2Proof/Machine/Flags.lean ====
section
/-! DEFINITION. Binary floating point by exact arithmetic: formats (Table 05-1), rounding with the exception
flags of RISC-V F and D (R80, R142), and the operations that lanes and engines share. -/

namespace Sys2Proof.Machine

open Sys2Proof

/-- A binary format: exponent and mantissa bits, bias, and its special values: 2 infinities and NaNs as IEEE 754,
1 a NaN at all ones only (E4M3), 0 neither. -/
structure Fmt where
  ebits : Nat
  mbits : Nat
  bias : Nat
  special : Nat
  deriving DecidableEq, Repr

abbrev fmtE4M3 : Fmt := ⟨4, 3, 7, 1⟩
abbrev fmtE5M2 : Fmt := ⟨5, 2, 15, 2⟩
abbrev fmtE3M2 : Fmt := ⟨3, 2, 3, 0⟩
abbrev fmtE2M3 : Fmt := ⟨2, 3, 1, 0⟩
abbrev fmtE2M1 : Fmt := ⟨2, 1, 1, 0⟩
abbrev fmtBf16 : Fmt := ⟨8, 7, 127, 2⟩
abbrev fmtF16 : Fmt := ⟨5, 10, 15, 2⟩
abbrev fmtF32 : Fmt := ⟨8, 23, 127, 2⟩
abbrev fmtF64 : Fmt := ⟨11, 52, 1023, 2⟩

/-- A value: a NaN (signalling or not), an infinity, or a finite number ±m × 2^e, with zero signed. -/
inductive Fv where
  | nan (sig : Bool)
  | inf (neg : Bool)
  | fin (neg : Bool) (m : Nat) (e : Int)
  deriving DecidableEq, Repr

/-- Bits below the sign. -/
def Fmt.low (f : Fmt) : Nat := f.ebits + f.mbits
/-- Exponent of the last place of a subnormal. -/
def Fmt.emin (f : Fmt) : Int := 1 - (f.bias : Int) - (f.mbits : Int)
/-- Magnitude bits above the largest finite value. -/
def Fmt.top (f : Fmt) : Nat :=
  if f.special = 2 then (2 ^ f.ebits - 1) * 2 ^ f.mbits else if f.special = 1 then 2 ^ f.low - 1 else 2 ^ f.low
/-- The canonical NaN (Table 05-1). -/
def Fmt.nanBits (f : Fmt) : Nat := if f.special = 2 then f.top + 2 ^ (f.mbits - 1) else f.top
/-- The sign bit at its place. -/
def Fmt.sign (f : Fmt) (neg : Bool) : Nat := if neg then 2 ^ f.low else 0

/-- The value of a bit pattern. -/
def Fmt.read (f : Fmt) (n : Nat) : Fv :=
  let neg := bit n f.low
  let x := fld n f.mbits f.ebits
  let m := n % 2 ^ f.mbits
  if f.special = 2 && x = 2 ^ f.ebits - 1 then (if m = 0 then .inf neg else .nan (!bit m (f.mbits - 1)))
  else if f.special = 1 && n % 2 ^ f.low = f.top then .nan false
  else if x = 0 then .fin neg m f.emin else .fin neg (2 ^ f.mbits + m) ((x : Int) - f.bias - f.mbits)

/-! Rounding modes as RISC-V numbers them: 0 nearest even, 1 to zero, 2 down, 3 up, 4 nearest away. -/

/-- `m ÷ 2^sh` rounded; `sticky` says that a further part below `m` was cut off. -/
def roundShift (rm : Nat) (neg : Bool) (m sh : Nat) (sticky : Bool) : Nat × Bool :=
  let q := m / 2 ^ sh
  let r := m % 2 ^ sh
  let inexact := decide (r ≠ 0) || sticky
  let up := match rm with
    | 0 => decide (2 ^ sh < 2 * r) || (decide (2 * r = 2 ^ sh) && (sticky || q % 2 = 1))
    | 1 => false
    | 2 => neg && inexact
    | 3 => !neg && inexact
    | _ => decide (2 ^ sh ≤ 2 * r)
  (q + b01 up, inexact)

/-- `m × 2^e` rounded to a multiple of `2^t`. -/
def roundAt (rm : Nat) (neg : Bool) (m : Nat) (e t : Int) (sticky : Bool) : Nat × Bool :=
  if t ≤ e then (m * 2 ^ (e - t).toNat, sticky) else roundShift rm neg m (t - e).toNat sticky

/-- Magnitude bits and flags (OF 4, UF 2, NX 1) of ±m × 2^e rounded; tininess is found after rounding. -/
def Fmt.round (f : Fmt) (rm : Nat) (neg : Bool) (m : Nat) (e : Int) (sticky : Bool) : Nat × Nat :=
  if m = 0 then (0, 0)
  else
    let p : Int := f.mbits + 1
    let t0 : Int := e + (Nat.log2 m + 1 : Nat) - p
    let t := max t0 f.emin
    let (q, inexact) := roundAt rm neg m e t sticky
    let enc := (t - f.emin).toNat * 2 ^ f.mbits + q
    if f.top ≤ enc then
      ((if rm = 1 || (rm = 2 && !neg) || (rm = 3 && neg) then f.top - 1 else f.top), 5)
    else
      let (q0, _) := roundAt rm neg m e t0 sticky
      let high := if q0 = 2 ^ (f.mbits + 1) then t0 + p else t0 + p - 1
      let tiny := decide (high < 1 - (f.bias : Int))
      (enc, b01 inexact + 2 * b01 (tiny && inexact))

/-- An exact or truncated result with its flags so far (NV 16, DZ 8). -/
structure Fres where
  v : Fv
  sticky : Bool := false
  flags : Nat := 0
  deriving DecidableEq, Repr

/-- A result as a bit pattern of a format, with all flags. -/
def Fmt.finish (f : Fmt) (rm : Nat) (r : Fres) : Nat × Nat :=
  match r.v with
  | .nan _ => (f.nanBits, r.flags)
  | .inf neg => (f.sign neg + f.top, r.flags)
  | .fin neg m e =>
    let (b, fl) := f.round rm neg m e r.sticky
    (f.sign neg + b, r.flags ||| fl)

/-! ## Operations -/

def Fv.isSig : Fv → Bool | .nan s => s | _ => false
def Fv.isNan : Fv → Bool | .nan _ => true | _ => false
def Fv.neg : Fv → Fv
  | .nan s => .nan s
  | .inf n => .inf (!n)
  | .fin n m e => .fin (!n) m e
/-- NaN result of an operation over operands: NV when one signals or `bad`. -/
def nanRes (bad : Bool) (l : List Fv) : Fres := { v := .nan false, flags := if bad || l.any (·.isSig) then 16 else 0 }
/-- ±m as an integer. -/
def signedMag (neg : Bool) (m : Nat) : Int := if neg then -(m : Int) else (m : Int)

/-- Sum; an exact zero of operands that differ in sign is +0, or −0 when rounding down. -/
def fvAdd (rm : Nat) (a b : Fv) : Fres :=
  match a, b with
  | .inf x, .inf y => if x = y then { v := .inf x } else nanRes true []
  | .inf x, .fin .. => { v := .inf x }
  | .fin .., .inf y => { v := .inf y }
  | .fin n1 m1 e1, .fin n2 m2 e2 =>
    let e := min e1 e2
    let x := signedMag n1 (m1 * 2 ^ (e1 - e).toNat) + signedMag n2 (m2 * 2 ^ (e2 - e).toNat)
    if x = 0 then { v := .fin (if n1 = n2 then n1 else rm = 2) 0 e } else { v := .fin (decide (x < 0)) x.natAbs e }
  | _, _ => nanRes false [a, b]

/-- Exact product. -/
def fvMul (a b : Fv) : Fres :=
  match a, b with
  | .inf x, .inf y => { v := .inf (x != y) }
  | .inf x, .fin n m _ => if m = 0 then nanRes true [] else { v := .inf (x != n) }
  | .fin n m _, .inf y => if m = 0 then nanRes true [] else { v := .inf (n != y) }
  | .fin n1 m1 e1, .fin n2 m2 e2 => { v := .fin (n1 != n2) (m1 * m2) (e1 + e2) }
  | _, _ => nanRes false [a, b]

/-- a × b + c with one rounding; ∞ × 0 is invalid whatever c is (RISC-V). -/
def fvFma (rm : Nat) (a b c : Fv) : Fres :=
  let p := fvMul a b
  let r := fvAdd rm p.v c
  { r with flags := r.flags ||| p.flags }

/-- Quotient with 66 or more bits, and whether bits were cut off. -/
def fvDiv (a b : Fv) : Fres :=
  match a, b with
  | .inf _, .inf _ => nanRes true []
  | .inf x, .fin n _ _ => { v := .inf (x != n) }
  | .fin n _ _, .inf y => { v := .fin (n != y) 0 0 }
  | .fin n1 m1 e1, .fin n2 m2 e2 =>
    if m2 = 0 then (if m1 = 0 then nanRes true [] else { v := .inf (n1 != n2), flags := 8 })
    else if m1 = 0 then { v := .fin (n1 != n2) 0 0 }
    else
      let sh := 66 + Nat.log2 m2
      let x := m1 * 2 ^ sh
      { v := .fin (n1 != n2) (x / m2) (e1 - e2 - sh), sticky := decide (x % m2 ≠ 0) }
  | _, _ => nanRes false [a, b]

/-- ⌊√n⌋, bit by bit from bit `k`. -/
def isqrtFrom (n : Nat) : Nat → Nat → Nat
  | 0, r => if (r + 1) * (r + 1) ≤ n then r + 1 else r
  | k + 1, r => isqrtFrom n k (if (r + 2 ^ (k + 1)) * (r + 2 ^ (k + 1)) ≤ n then r + 2 ^ (k + 1) else r)
/-- ⌊√n⌋. -/
def isqrt (n : Nat) : Nat := isqrtFrom n (Nat.log2 n / 2) 0

/-- Square root with 66 or more bits. -/
def fvSqrt (a : Fv) : Fres :=
  match a with
  | .nan _ => nanRes false [a]
  | .inf n => if n then nanRes true [] else { v := .inf false }
  | .fin n m e =>
    if m = 0 then { v := .fin n 0 0 }
    else if n then nanRes true []
    else
      let (m, e) := if e % 2 = 0 then (m, e) else (2 * m, e - 1)
      let x := m * 2 ^ 132
      let r := isqrt x
      { v := .fin false r (e / 2 - 66), sticky := decide (r * r ≠ x) }

/-- Order of two values that are no NaNs: −1, 0 or 1, with +0 equal to −0. -/
def fvCmp (a b : Fv) : Int :=
  let key : Fv → Int := fun v => match v with | .inf n => if n then -1 else 1 | _ => 0
  match a, b with
  | .fin n1 m1 e1, .fin n2 m2 e2 =>
    let e := min e1 e2
    let x := signedMag n1 (m1 * 2 ^ (e1 - e).toNat)
    let y := signedMag n2 (m2 * 2 ^ (e2 - e).toNat)
    if x < y then -1 else if x = y then 0 else 1
  | a, b => if key a < key b then -1 else if key a = key b then 0 else 1

def Fv.isZero : Fv → Bool | .fin _ 0 _ => true | _ => false
def Fv.sign : Fv → Bool | .nan _ => false | .inf n => n | .fin n _ _ => n

/-- An integer as a value. -/
def fvInt (x : Int) : Fv := .fin (decide (x < 0)) x.natAbs 0

/-! ## RISC-V lane operations -/

/-- FMIN and FMAX: the number against a NaN; −0 below +0; NV for a signalling NaN. -/
def laneMinMax (f : Fmt) (max : Bool) (x y : Nat) : Nat × Nat :=
  let a := f.read x
  let b := f.read y
  let fl := if a.isSig || b.isSig then 16 else 0
  if a.isNan && b.isNan then (f.nanBits, fl)
  else if a.isNan then (y, fl)
  else if b.isNan then (x, fl)
  else
    let less := fvCmp a b < 0 || (a.isZero && b.isZero && a.sign)
    ((if less != max then x else y), fl)

/-- FEQ (kind 2), FLT (1), FLE (0): FLT and FLE signal for any NaN. -/
def laneCompare (f : Fmt) (kind x y : Nat) : Nat × Nat :=
  let a := f.read x
  let b := f.read y
  if a.isNan || b.isNan then (0, if a.isSig || b.isSig || kind ≠ 2 then 16 else 0)
  else
    let c := fvCmp a b
    (b01 (if kind = 2 then decide (c = 0) else if kind = 1 then decide (c < 0) else decide (c ≤ 0)), 0)

/-- FCLASS. -/
def laneClass (f : Fmt) (x : Nat) : Nat :=
  match f.read x with
  | .inf n => if n then 2 ^ 0 else 2 ^ 7
  | .nan s => if s then 2 ^ 8 else 2 ^ 9
  | .fin n m _ =>
    if m = 0 then (if n then 2 ^ 3 else 2 ^ 4)
    else if fld x f.mbits f.ebits = 0 then (if n then 2 ^ 2 else 2 ^ 5) else (if n then 2 ^ 1 else 2 ^ 6)

/-- FCVT to an integer of `w` bits: out of range and NaN saturate with NV. -/
def laneToInt (rm w : Nat) (uns : Bool) (v : Fv) : Int × Nat :=
  let lo : Int := if uns then 0 else -(2 ^ (w - 1) : Nat)
  let hi : Int := if uns then (2 ^ w : Nat) - 1 else (2 ^ (w - 1) : Nat) - 1
  match v with
  | .nan _ => (hi, 16)
  | .inf n => ((if n then lo else hi), 16)
  | .fin n m e =>
    let (q, inexact) := roundAt rm n m e 0 false
    let x := signedMag n q
    if x < lo then (lo, 16) else if hi < x then (hi, 16) else (x, b01 inexact)

end Sys2Proof.Machine
end

