-- ==== Sys2Proof/Machine/Operands.lean ====
section
/-! DEFINITION. Operand forms of a lane's instruction word (R80, R87, R88, R95, R118, R158), which row of the table
a word belongs to, and the registers of a group (R79, R89). -/

namespace Sys2Proof.Machine

open Sys2Proof

/-! ## Fields (Table 03-5 and the RISC-V base formats) -/

def wOpcode (w : Nat) : Nat := fld w 0 7
def wRd (w : Nat) : Nat := fld w 7 5
def wF3 (w : Nat) : Nat := fld w 12 3
def wRs1 (w : Nat) : Nat := fld w 15 5
def wRs2 (w : Nat) : Nat := fld w 20 5
def wF7 (w : Nat) : Nat := fld w 25 7
def wRs3 (w : Nat) : Nat := fld w 27 5
def wImm12 (w : Nat) : Nat := fld w 20 12
def immI (w : Nat) : Int := signed 12 (wImm12 w)
def immS (w : Nat) : Int := signed 12 (wF7 w * 32 + wRd w)
def immB (w : Nat) : Int :=
  signed 13 (inFld (fld w 31 1) 12 1 + inFld (fld w 7 1) 11 1 + inFld (fld w 25 6) 5 6 + inFld (fld w 8 4) 1 4)
def immU (w : Nat) : Int := signed 32 (w / 4096 * 4096)
def immJ (w : Nat) : Int :=
  signed 21 (inFld (fld w 31 1) 20 1 + inFld (fld w 12 8) 12 8 + inFld (fld w 20 1) 11 1 + inFld (fld w 21 10) 1 10)
/-- The address an MSK instruction names: a signed count of instructions from its own address (R88). -/
def mskTarget (pc w : Nat) : Nat := (((pc : Int) + 4 * immI w) % (2 ^ 64 : Nat)).toNat

/-! ## Rows -/

/-- What a word is, named by the row of the table that it belongs to. -/
inductive Row where
  | alu | branch | load | store | amo | csr
  | mskPush | mskElse | mskLoop | mskBrk | mskPop | mskBal | mskAny | mskAll
  | barCl | barDie | dbgBrk | xwGaddr | grpEnd
  | flgRel | flgAcqEq | flgAcqGe | semRel | semAcq | fenceX
  | mxCfg | mxLdt | mxMma | mxDrn | mxLda | mxTrk | atSub
  | vx (op : Nat) | vxTrk | vxUpd
  deriving DecidableEq, Repr

/-- A static rounding mode of RISC-V, or the lane's own. -/
def rmOk (rm : Nat) : Bool := decide (rm < 5) || rm = 7

/-- The F and D encodings of OP-FP. -/
def fpOk (w : Nat) : Bool :=
  let f3 := wF3 w
  let rs2 := wRs2 w
  let fmt := wF7 w % 4
  decide (fmt < 2) && match wF7 w / 4 with
  | 0x00 => rmOk f3
  | 0x01 => rmOk f3
  | 0x02 => rmOk f3
  | 0x03 => rmOk f3
  | 0x0B => rs2 = 0 && rmOk f3
  | 0x04 => decide (f3 < 3)
  | 0x05 => decide (f3 < 2)
  | 0x08 => rs2 = 1 - fmt && rmOk f3
  | 0x14 => decide (f3 < 3)
  | 0x18 => decide (rs2 < 4) && rmOk f3
  | 0x1A => decide (rs2 < 4) && rmOk f3
  | 0x1C => rs2 = 0 && decide (f3 < 2)
  | 0x1E => rs2 = 0 && f3 = 0
  | _ => false

/-- A lane AMO's funct5, LR and SC apart (R80). -/
def amoOk (f5 : Nat) : Bool :=
  f5 = 0x00 || f5 = 0x01 || f5 = 0x04 || f5 = 0x08 || f5 = 0x0C || f5 = 0x10 || f5 = 0x14 || f5 = 0x18 || f5 = 0x1C

/-- Operation codes of VX.op that Table 06-4 defines. -/
def vxCodeOk (op : Nat) : Bool := decide (op ≤ 0x19) || op = 0x20 || op = 0x21 || op = 0x22 || op = 0x28

/-- Row of a custom-0 word (Table 03-6). -/
def custom0Row (w : Nat) : Option Row :=
  let f7 := wF7 w
  let rd0 := wRd w = 0
  let rs10 := wRs1 w = 0
  let rs20 := wRs2 w = 0
  match wF3 w with
  | 0 => if rd0 then some .mskPush else none
  | 1 => if rd0 && rs10 then some .mskElse else none
  | 2 => if rd0 && rs10 then some .mskLoop else none
  | 3 =>
    if f7 = 0 && rd0 && rs10 && rs20 then some .mskPop
    else if f7 = 1 && rd0 && rs20 then some .mskBrk
    else if f7 = 2 && rs20 then some .mskBal
    else if f7 = 3 && rs20 then some .mskAny
    else if f7 = 4 && rs20 then some .mskAll else none
  | 4 => if rd0 && wImm12 w / 8 = 0 then some .barCl else if rd0 && wImm12 w / 8 = 1 then some .barDie else none
  | 5 => if rd0 && rs10 then some .dbgBrk else none
  | 6 => if f7 = 0 then some .xwGaddr else none
  | _ => if rd0 && rs10 && wImm12 w = 0 then some .grpEnd else none

/-- Row of a custom-1 word (Table 03-7): funct7 bits 6:2 zero. -/
def custom1Row (w : Nat) : Option Row :=
  let rd0 := wRd w = 0
  if 4 ≤ wF7 w then none
  else match wF3 w with
  | 0 => if rd0 then some .flgRel else none
  | 1 => some .flgAcqEq
  | 2 => some .flgAcqGe
  | 3 => if rd0 then some .semRel else none
  | 4 => some .semAcq
  | 5 => if rd0 && wRs1 w = 0 && wRs2 w = 0 then some .fenceX else none
  | _ => none

/-- Row of a custom-2 word (Table 04-2). -/
def custom2Row (w : Nat) : Option Row :=
  let rd0 := wRd w = 0
  if wF7 w ≠ 0 then none
  else match wF3 w with
  | 0 => if rd0 then some .mxCfg else none
  | 1 => if rd0 then some .mxLdt else none
  | 2 => if rd0 then some .mxMma else none
  | 3 => if rd0 then some .mxDrn else none
  | 4 => if rd0 then some .mxLda else none
  | 5 => if wRs1 w = 0 && wRs2 w = 0 then some .mxTrk else none
  | 6 => if wRs2 w = 0 then some .atSub else none
  | _ => none

/-- Row of a custom-3 word (Table 06-1). -/
def custom3Row (w : Nat) : Option Row :=
  match wF3 w with
  | 0 => if vxCodeOk (wF7 w) && wRd w = 0 then some (.vx (wF7 w)) else none
  | 1 => if wF7 w = 0 && wRs1 w = 0 && wRs2 w = 0 then some .vxTrk else none
  | 2 => if wF7 w = 0 && wRd w = 0 then some .vxUpd else none
  | _ => none

/-- Row of a word; none for an encoding that R80, R87 or a reserved funct3 makes illegal. -/
def rowOf (w : Nat) : Option Row :=
  let f3 := wF3 w
  let f7 := wF7 w
  match wOpcode w with
  | 0x37 => some .alu
  | 0x17 => some .alu
  | 0x13 =>
    if f3 = 1 then (if f7 / 2 = 0 then some .alu else none)
    else if f3 = 5 then (if f7 / 2 = 0 || f7 / 2 = 16 then some .alu else none) else some .alu
  | 0x1B =>
    if f3 = 0 then some .alu
    else if f3 = 1 then (if f7 = 0 then some .alu else none)
    else if f3 = 5 then (if f7 = 0 || f7 = 32 then some .alu else none) else none
  | 0x33 => if f7 ≤ 1 || (f7 = 32 && (f3 = 0 || f3 = 5)) then some .alu else none
  | 0x3B =>
    if f7 = 0 && (f3 = 0 || f3 = 1 || f3 = 5) then some .alu
    else if f7 = 32 && (f3 = 0 || f3 = 5) then some .alu
    else if f7 = 1 && (f3 = 0 || 4 ≤ f3) then some .alu else none
  | 0x43 => if f7 % 4 < 2 && rmOk f3 then some .alu else none
  | 0x47 => if f7 % 4 < 2 && rmOk f3 then some .alu else none
  | 0x4B => if f7 % 4 < 2 && rmOk f3 then some .alu else none
  | 0x4F => if f7 % 4 < 2 && rmOk f3 then some .alu else none
  | 0x53 => if fpOk w then some .alu else none
  | 0x63 => if f3 = 2 || f3 = 3 then none else some .branch
  | 0x6F => some .branch
  | 0x67 => if f3 = 0 then some .branch else none
  | 0x03 => if f3 = 7 then none else some .load
  | 0x07 => if f3 = 2 || f3 = 3 then some .load else none
  | 0x23 => if f3 < 4 then some .store else none
  | 0x27 => if f3 = 2 || f3 = 3 then some .store else none
  | 0x2F => if (f3 = 2 || f3 = 3) && amoOk (f7 / 4) then some .amo else none
  | 0x0F => if f3 = 0 then some .fenceX else none
  | 0x73 => if f3 = 0 then (if w = 0x00100073 then some .dbgBrk else none) else if f3 = 4 then none else some .csr
  | 0x0B => custom0Row w
  | 0x2B => custom1Row w
  | 0x5B => custom2Row w
  | 0x7B => custom3Row w
  | _ => none

/-! ## Registers of a group -/

/-- Integer register `r` of a lane; x0 reads zero. -/
def Group.xr (g : Group) (lane r : Nat) : W64 := if r = 0 then 0 else lookD g.x (lane * 32 + r) 0
/-- Integer register written; a write of x0 is discarded. -/
def Group.setX (g : Group) (lane r : Nat) (v : W64) : Group :=
  if r = 0 then g else { g with x := putD g.x (lane * 32 + r) v 0 }
def Group.fr (g : Group) (lane r : Nat) : W64 := lookD g.f (lane * 32 + r) 0
def Group.setF (g : Group) (lane r : Nat) (v : W64) : Group := { g with f := putD g.f (lane * 32 + r) v 0 }
/-- fcsr of a lane: fflags in bits 4:0, frm in bits 7:5. -/
def Group.fcsrOf (g : Group) (lane : Nat) : BitVec 8 := lookD g.fcsr lane 0
def Group.setFcsr (g : Group) (lane : Nat) (v : BitVec 8) : Group := { g with fcsr := putD g.fcsr lane v 0 }
/-- Exceptions of a floating-point operation stand in fflags (R80). -/
def Group.raise (g : Group) (lane fl : Nat) : Group :=
  if fl = 0 then g else g.setFcsr lane (g.fcsrOf lane ||| BitVec.ofNat 8 (fl % 32))

/-- Lanes of a mask, rising. -/
def lanesOf (m : W32) : List Nat := bitsOf 32 m.toNat
/-- The lane from which a group-uniform instruction reads (R89). -/
def Group.lead (g : Group) : Nat := (lanesOf g.active).headD 0
/-- A group-uniform operand. -/
def Group.ux (g : Group) (r : Nat) : W64 := g.xr g.lead r
/-- A group-uniform result, written in every active lane. -/
def Group.setAll (g : Group) (r : Nat) (v : W64) : Group := (lanesOf g.active).foldl (fun g l => g.setX l r v) g
/-- The mask of active lanes with a non-zero register (R89, R90). -/
def Group.ballot (g : Group) (r : Nat) : W32 :=
  BitVec.ofNat 32 (ofBits ((lanesOf g.active).filter fun l => decide (g.xr l r ≠ 0)))
/-- The next instruction. -/
def Group.next (g : Group) : Group := { g with pc := (g.pc + 4) % 2 ^ 64 }

end Sys2Proof.Machine
end

