-- ==== Sys2Proof/Machine/LaneAlu.lean ====
section
/-! DEFINITION. What one lane computes: RV64I, M, F and D (R80, R142). -/

namespace Sys2Proof.Machine

open Sys2Proof

/-- A 32-bit result, sign-extended. -/
def sext32 (v : Nat) : W64 := BitVec.ofInt 64 (signed 32 v)

/-- Integer arithmetic of 64 bits, by funct3; `alt` is SUB or SRA. -/
def aluBase (f3 : Nat) (alt : Bool) (a b : W64) : W64 :=
  match f3 with
  | 0 => if alt then a - b else a + b
  | 1 => a <<< (b.toNat % 64)
  | 2 => BitVec.ofNat 64 (b01 (decide (a.toInt < b.toInt)))
  | 3 => BitVec.ofNat 64 (b01 (decide (a.toNat < b.toNat)))
  | 4 => a ^^^ b
  | 5 => if alt then a.sshiftRight (b.toNat % 64) else a >>> (b.toNat % 64)
  | 6 => a ||| b
  | _ => a &&& b

/-- Integer arithmetic of 32 bits, sign-extended. -/
def aluWord (f3 : Nat) (alt : Bool) (a b : W64) : W64 :=
  let x := a.toNat % 2 ^ 32
  let y := b.toNat % 2 ^ 32
  match f3 with
  | 0 => sext32 (if alt then x + 2 ^ 32 - y else x + y)
  | 1 => sext32 (x * 2 ^ (y % 32))
  | _ => if alt then BitVec.ofInt 64 (signed 32 x / (2 ^ (y % 32) : Nat)) else sext32 (x / 2 ^ (y % 32))

/-- Quotient and remainder as RISC-V M gives them: division by zero, and overflow of the most negative number. -/
def divSigned (a b : Int) : Int × Int := if b = 0 then (-1, a) else (Int.tdiv a b, Int.tmod a b)

/-- The M extension, 64 bits. -/
def aluMul (f3 : Nat) (a b : W64) : W64 :=
  let ua : Int := a.toNat
  let ub : Int := b.toNat
  match f3 with
  | 0 => a * b
  | 1 => BitVec.ofInt 64 (a.toInt * b.toInt / (2 ^ 64 : Nat))
  | 2 => BitVec.ofInt 64 (a.toInt * ub / (2 ^ 64 : Nat))
  | 3 => BitVec.ofInt 64 (ua * ub / (2 ^ 64 : Nat))
  | 4 => BitVec.ofInt 64 (divSigned a.toInt b.toInt).1
  | 5 => if b = 0 then BitVec.allOnes 64 else BitVec.ofNat 64 (a.toNat / b.toNat)
  | 6 => BitVec.ofInt 64 (divSigned a.toInt b.toInt).2
  | _ => if b = 0 then a else BitVec.ofNat 64 (a.toNat % b.toNat)

/-- The M extension, 32 bits. -/
def aluMulWord (f3 : Nat) (a b : W64) : W64 :=
  let x := a.toNat % 2 ^ 32
  let y := b.toNat % 2 ^ 32
  let sx := signed 32 x
  let sy := signed 32 y
  match f3 with
  | 0 => sext32 (x * y)
  | 4 => sext32 ((divSigned sx sy).1 % (2 ^ 32 : Nat)).toNat
  | 5 => if y = 0 then BitVec.allOnes 64 else sext32 (x / y)
  | 6 => sext32 ((divSigned sx sy).2 % (2 ^ 32 : Nat)).toNat
  | _ => if y = 0 then sext32 x else sext32 (x % y)

/-- A single in a register is boxed in ones; what is not boxed reads as the canonical NaN (RISC-V D). -/
def unbox (v : W64) : Nat := if v.toNat / 2 ^ 32 = 0xFFFFFFFF then v.toNat % 2 ^ 32 else 0x7FC00000
def box (n : Nat) : W64 := BitVec.ofNat 64 (0xFFFFFFFF * 2 ^ 32 + n % 2 ^ 32)
/-- A floating-point operand of width bit `d` (0 single, 1 double), and a result of it. -/
def fpIn (d : Nat) (v : W64) : Nat := if d = 1 then v.toNat else unbox v
def fpOut (d n : Nat) : W64 := if d = 1 then BitVec.ofNat 64 n else box n
def fpFmt (d : Nat) : Fmt := if d = 1 then fmtF64 else fmtF32

/-- What a lane writes: an integer register, a floating-point register, flags; or the word is illegal in the lane, its
frm holding no rounding mode. -/
structure LaneRes where
  x : Option W64 := none
  f : Option W64 := none
  flags : Nat := 0
  illegal : Bool := false
  deriving DecidableEq, Repr

/-- A finished floating-point result. -/
def fpRes (d rm : Nat) (r : Fres) : LaneRes :=
  let (b, fl) := (fpFmt d).finish rm r
  { f := some (fpOut d b), flags := fl }

/-- OP-FP. -/
def fpOp (w rm : Nat) (x1 f1 f2 : W64) : LaneRes :=
  let d := wF7 w % 4
  let f := fpFmt d
  let a := fpIn d f1
  let b := fpIn d f2
  let va := f.read a
  let vb := f.read b
  let low := 2 ^ f.low
  match wF7 w / 4 with
  | 0x00 => fpRes d rm (fvAdd rm va vb)
  | 0x01 => fpRes d rm (fvAdd rm va vb.neg)
  | 0x02 => fpRes d rm (fvMul va vb)
  | 0x03 => fpRes d rm (fvDiv va vb)
  | 0x0B => fpRes d rm (fvSqrt va)
  | 0x04 =>
    let sa := a / low % 2
    let sb := b / low % 2
    let s := match wF3 w with | 0 => sb | 1 => 1 - sb | _ => (sa + sb) % 2
    { f := some (fpOut d (a % low + s * low)) }
  | 0x05 =>
    let (r, fl) := laneMinMax f (wF3 w = 1) a b
    { f := some (fpOut d r), flags := fl }
  | 0x08 =>
    let v := (fpFmt (1 - d)).read (fpIn (1 - d) f1)
    fpRes d rm (if v.isNan then nanRes false [v] else { v })
  | 0x14 =>
    let (r, fl) := laneCompare f (wF3 w) a b
    { x := some (BitVec.ofNat 64 r), flags := fl }
  | 0x18 =>
    let bits := if wRs2 w < 2 then 32 else 64
    let (r, fl) := laneToInt rm bits (wRs2 w % 2 = 1) va
    { x := some (if bits = 32 then sext32 (r % (2 ^ 32 : Nat)).toNat else BitVec.ofInt 64 r), flags := fl }
  | 0x1A =>
    let v : Int := match wRs2 w with
      | 0 => signed 32 x1.toNat
      | 1 => (x1.toNat % 2 ^ 32 : Nat)
      | 2 => x1.toInt
      | _ => (x1.toNat : Nat)
    fpRes d rm { v := fvInt v }
  | 0x1C =>
    if wF3 w = 1 then { x := some (BitVec.ofNat 64 (laneClass f a)) }
    else { x := some (if d = 1 then f1 else sext32 (f1.toNat % 2 ^ 32)) }
  | _ => { f := some (if d = 1 then x1 else box x1.toNat) }

/-- Whether a word's rounding mode is the lane's own. -/
def wDynamic (w : Nat) : Bool :=
  let o := wOpcode w
  wF3 w = 7 && (o = 0x43 || o = 0x47 || o = 0x4B || o = 0x4F ||
    (o = 0x53 && (wF7 w / 4 < 4 || wF7 w / 4 = 0x0B || wF7 w / 4 = 0x08 || wF7 w / 4 = 0x18 || wF7 w / 4 = 0x1A)))

/-- An arithmetic word in one lane of a group. -/
def aluLane (g : Group) (l w : Nat) : LaneRes :=
  let x1 := g.xr l (wRs1 w)
  let x2 := g.xr l (wRs2 w)
  let f1 := g.fr l (wRs1 w)
  let f2 := g.fr l (wRs2 w)
  let f3 := g.fr l (wRs3 w)
  let imm := BitVec.ofInt 64 (immI w)
  let frm := (g.fcsrOf l).toNat / 32
  let rm := if wF3 w = 7 then frm else wF3 w
  let d := wF7 w % 4
  let fma := fun (np nc : Bool) =>
    let p := (fpFmt d).read (fpIn d f1)
    let c := (fpFmt d).read (fpIn d f3)
    fpRes d rm (fvFma rm (if np then p.neg else p) ((fpFmt d).read (fpIn d f2)) (if nc then c.neg else c))
  if wDynamic w && decide (4 < frm) then { illegal := true }
  else match wOpcode w with
  | 0x37 => { x := some (BitVec.ofInt 64 (immU w)) }
  | 0x17 => { x := some (BitVec.ofNat 64 g.pc + BitVec.ofInt 64 (immU w)) }
  | 0x13 => { x := some (aluBase (wF3 w) (wF3 w = 5 && fld w 30 1 = 1) x1 imm) }
  | 0x1B => { x := some (aluWord (wF3 w) (wF3 w = 5 && fld w 30 1 = 1) x1 imm) }
  | 0x33 => { x := some (if wF7 w = 1 then aluMul (wF3 w) x1 x2 else aluBase (wF3 w) (wF7 w = 32) x1 x2) }
  | 0x3B => { x := some (if wF7 w = 1 then aluMulWord (wF3 w) x1 x2 else aluWord (wF3 w) (wF7 w = 32) x1 x2) }
  | 0x43 => fma false false
  | 0x47 => fma false true
  | 0x4B => fma true false
  | 0x4F => fma true true
  | _ => fpOp w rm x1 f1 f2

/-- A lane's result put into the group. -/
def Group.putRes (g : Group) (l w : Nat) (r : LaneRes) : Group :=
  let g := match r.x with | some v => g.setX l (wRd w) v | none => g
  let g := match r.f with | some v => g.setF l (wRd w) v | none => g
  g.raise l r.flags

/-- A branch in one lane: whether it is taken, and its target (R81). -/
def branchLane (g : Group) (l w : Nat) : Bool × Nat :=
  let x1 := g.xr l (wRs1 w)
  let x2 := g.xr l (wRs2 w)
  let aim := fun (d : Int) => (((g.pc : Int) + d) % (2 ^ 64 : Nat)).toNat
  match wOpcode w with
  | 0x6F => (true, aim (immJ w))
  | 0x67 => (true, (x1 + BitVec.ofInt 64 (immI w)).toNat / 2 * 2)
  | _ =>
    let t : Bool := match wF3 w with
      | 0 => decide (x1 = x2)
      | 1 => decide (x1 ≠ x2)
      | 4 => decide (x1.toInt < x2.toInt)
      | 5 => decide (x2.toInt ≤ x1.toInt)
      | 6 => decide (x1.toNat < x2.toNat)
      | _ => decide (x2.toNat ≤ x1.toNat)
    (t, aim (immB w))

end Sys2Proof.Machine
end

