-- ==== Sys2Proof/Machine/Mailbox.lean ====
section
/-! DEFINITION. Mailboxes: how a command is submitted and checked (R339, R340, R359), and the commands of Table 15-1
that concern the package, dies, partitions, contexts, address spaces, memory, time, caches, power and debug. -/

namespace Sys2Proof.Machine

open Sys2Proof

/-! ## Submission -/

/-- BAR accesses are decoded (R328); what cannot reach the device over a link that is down has no effect (R357). -/
def State.decodes (s : State) : Bool := s.host.memEn && !s.host.d3hot
/-- The last completion given. -/
def State.answer (s : State) (r : Reply) : State := { s with host := { s.host with reply := r } }

/-- A BAR access: no effect over a dead link, Unsupported Request where decoding is off, else `f`. -/
def barAccess (f : State → State) (s : State) : State :=
  if !s.host.linkUp then s else if s.decodes then f s else s.answer .ur

/-- Acceptance of a command whose write sets go (R339, R340). -/
def accept (m op : Nat) (seq : BitVec 16) (inWords : Nat) (run : State → State) (s : State) : State :=
  if !s.shellUp || 64 ≤ m then s
  else
    let b := s.mailbox m
    if b.state = 1 then s.setMailbox m { b with collision := true }
    else run (s.setMailbox m { b with opcode := op, inWords := inWords, seq := seq, stsSeq := seq, state := 1 })

/-- The checks that come first, in their order (R359), then the command. -/
def guarded (m len : Nat) (body : State → State) (s : State) : State :=
  if s.idState = 2 then complete m ST.deviceFailed [] s
  else if s.idState = 3 then complete m ST.hostLost [] s
  else if (s.mailbox m).inWords ≠ len then complete m ST.badPayload [] s
  else body s

/-- A command posted in mailbox `m`: opcode, request length in words, and its body. -/
def submit (m op : Nat) (seq : BitVec 16) (inWords len : Nat) (body : State → State) (s : State) : Out :=
  done s (barAccess (accept m op seq inWords (guarded m len body)) s)

/-- Payload word `k` of mailbox `m`. -/
def State.pw (s : State) (m k : Nat) : Nat := (s.mailbox m).word k

/-- The contents of an output buffer after a failed access: free values (R360). -/
def scribble (a : Nat) : Nat → State → State
  | 0, s => s
  | n + 1, s =>
    let (w, s) := drawWord s
    scribble (a + 8) n { s with hostMem := cellsPut s.hostMem a (leBytes 8 w.toNat) }

/-- A reply written to a host buffer, then the completion (R360). -/
def replyBuffer (m a size : Nat) (ok : Bool) (data : List Byte) (reply : List Nat) (s : State) : State :=
  if ok then complete m ST.ok reply (hostReq (.write a data false false) s)
  else complete m ST.hostBuffer [] (scribble a (size / 8) s)

/-- A host buffer is aligned to 4 KiB (R360). -/
def bufferOk (a : Nat) : Bool := a % 4096 = 0

/-! ## Package-wide commands (R361) -/

/-- NOP (R361). -/
def cmdNop (m : Nat) (s : State) : State := complete m ST.ok [] s

/-- DIE_INVENTORY: 25 records in die-level order, the Crown last (Table 15-1). -/
def cmdDieInventory (m : Nat) (s : State) : State :=
  complete m ST.ok ((List.range 25).flatMap fun d =>
    [(s.die d).identity.toNat, (s.die d).state + 256 * (s.die d).check]) s

/-- STK_STATUS (Table 08-4). -/
def stkStatus (s : State) (k : Nat) : Nat :=
  let z := s.stack k
  inFld z.temp 40 8 + inFld (b01 z.elevated + 2 * b01 z.repair.isSome) 32 2
    + inFld (s.flash.retired.filter fun a => a / 2 ^ 36 = k).length 16 16 + s.stackState k

/-- MEMORY_INVENTORY (Table 15-1). -/
def cmdMemoryInventory (m : Nat) (linkOk : Bool) (s : State) : State :=
  let a := s.pw m 0
  if !bufferOk a then complete m ST.badPayload [] s
  else replyBuffer m a 4096 linkOk (s.flash.retired.flatMap (leBytes 8))
    ((List.range 16).map (stkStatus s) ++ [s.flash.retired.length]) s

/-- A module's word (Table 13-10). -/
def moduleWord (x : Module) : Nat :=
  inFld x.crc 32 32 + inFld x.retrains 24 8 + inFld x.mismatches 16 2 + inFld x.sparesHi 14 2 + inFld x.sparesLo 12 2
    + inFld x.width 4 2 + inFld x.state 0 2

/-- LINK_STATUS (Table 15-1). -/
def cmdLinkStatus (m : Nat) (s : State) : State :=
  complete m ST.ok ((List.range 88).map fun k => moduleWord (s.module k)) s

/-- Levels and their instances (Table 01-7). -/
def satLevels : List (Nat × Nat) := [(0, 1024), (1, 256), (2, 64), (3, 24), (4, 1), (5, 16)]
/-- A saturation record (Table 01-8). -/
def satRecord (s : State) (level i : Nat) : Nat :=
  let (last, total) := lookD s.sat (level * 1024 + i) (0, 0)
  inFld level 60 4 + inFld i 50 10 + inFld last 39 11 + inFld total 0 39

/-- SAT_READ (Table 15-1). -/
def cmdSatRead (m : Nat) (linkOk : Bool) (s : State) : State :=
  let a := s.pw m 0
  if !bufferOk a then complete m ST.badPayload [] s
  else replyBuffer m a 12288 linkOk
    (satLevels.flatMap fun l => (List.range l.2).flatMap fun i => leBytes 8 (satRecord s l.1 i)) [] s

/-! ## Partitions (R362 to R364) -/

/-- The Atomisers and debug windows that the capability list reports (R333): those of the dies present at reset. -/
def capLists (s : State) (brims : BitVec 16) : Bool := brims &&& s.rst.capBrims = brims

/-- The payload of Table 15-2. -/
structure PartPayload where
  p : Nat
  flags : Nat
  procs : Nat
  route : Nat
  brims : Nat
  window : Nat
  shares : List Nat
  wake : Nat
  select : Nat
  zero : Bool
  deriving DecidableEq, Repr
def partPayload (s : State) (m : Nat) : PartPayload :=
  let a := s.pw m 0
  let b := s.pw m 1
  let c := s.pw m 2
  { p := fld a 0 8, flags := fld a 8 8, procs := fld a 16 8, route := fld a 24 8, brims := fld a 32 16
    window := fld a 48 8, shares := (List.range 4).map fun i => fld b (16 * i) 16, wake := fld c 0 32
    select := fld c 32 8, zero := fld a 56 8 = 0 && fld c 40 24 = 0 }
/-- Fields in their ranges, whatever is selected. -/
def PartPayload.inRange (x : PartPayload) : Bool :=
  x.zero && decide (x.p < 16) && decide (x.flags < 16) && decide (x.procs < 16) && decide (x.route ≤ 2)
    && decide (x.window < 16) && x.shares.all (· ≤ 256) && decide (x.wake ≤ 1000000)

/-- Sums of the shares of every partition. -/
def shareSums (s : State) : List Nat :=
  [(s.parts.map (·.2.shareCrown)).sum, (s.parts.map (·.2.sharePeer)).sum, (s.parts.map (·.2.shareTable)).sum,
   (s.parts.map (·.2.shareEnergy)).sum]

/-- PARTITION_CREATE (R362). -/
def cmdPartitionCreate (m : Nat) (s : State) : State :=
  let x := partPayload s m
  let brims := BitVec.ofNat 16 x.brims
  let dies := bitsOf 16 x.brims ++ (bitsOf 4 x.procs).map (16 + ·)
  let shares := x.shares.map fun v => if v = 0 then 16 * (bitsOf 16 x.brims).length else v
  if !x.inRange || x.brims = 0 || x.select ≠ 0 then complete m ST.badPayload [] s
  else if (x.route = 2 || x.flags.testBit 1) && !capLists s brims then complete m ST.capability [] s
  else if (s.part x.p).isSome then complete m ST.partitionExists [] s
  else if dies.any fun d => !s.dieHere d then complete m ST.dieAbsent [] s
  else if dies.any fun d => (s.partOfDie d).isSome then complete m ST.dieTaken [] s
  else if ((shareSums s).zip shares).any fun e => decide (256 < e.1 + e.2) then complete m ST.shareFull [] s
  else
    let q : Partition :=
      { brims := brims, procs := BitVec.ofNat 4 x.procs, scopedModel := x.flags.testBit 0
        debug := x.flags.testBit 1, observe := x.flags.testBit 2, migrate := !x.flags.testBit 3, route := x.route
        window := x.window, shareCrown := shares[0]?.getD 0, sharePeer := shares[1]?.getD 0
        shareTable := shares[2]?.getD 0, shareEnergy := shares[3]?.getD 0, wakeUs := x.wake }
    complete m ST.ok [] { s with parts := put s.parts x.p q }

/-- Regions of Brim dies. -/
def regionsOf (dies : List Nat) : List Nat := dies.flatMap fun d => (List.range 4).map (4 * d + ·)

/-- A region goes off: its scratchpads, slots and L1s are lost (Table 17-7). -/
def clearRegion (r : Nat) (s : State) : State :=
  let lo := windowBase (16 * r)
  let hi := windowBase (16 * (r + 1))
  { s with
    mem := { s.mem with
      bytes := s.mem.bytes.filter fun e => e.1 < lo || hi ≤ e.1
      poison := s.mem.poison.filter fun l => l * 256 < lo || hi ≤ l * 256
      sill := s.mem.sill.filter fun e => e.1 * 256 < lo || hi ≤ e.1 * 256 }
    cores := s.cores.filter fun e => e.1 / 16 ≠ r }
def regionOff (r : Nat) (s : State) : State := (clearRegion r s).setRegion r 3

/-- PARTITION_DESTROY (R364). -/
def cmdPartitionDestroy (m : Nat) (s : State) : State :=
  let p := s.pw m 0
  if 16 ≤ p then complete m ST.badPayload [] s
  else match s.part p with
    | none => complete m ST.noPartition [] s
    | some q =>
      if s.ctxs.any (·.2.part = p) || s.aspaces.any (·.2.part = p) then complete m ST.partitionLive [] s
      else
        let s := (regionsOf q.brimList).foldl (fun s r => regionOff r s) s
        complete m ST.ok [] { s with parts := del s.parts p }

/-- A halted region (Table 03-13). -/
def State.dbgOf (s : State) (r : Nat) : DbgRegion := lookD s.dbg r {}
def State.setDbg (s : State) (r : Nat) (f : DbgRegion → DbgRegion) : State :=
  { s with dbg := putD s.dbg r (f (s.dbgOf r)) {} }
def State.halted (s : State) (r : Nat) : Bool := (s.dbgOf r).cause ≠ 0
/-- A halt with its cause; the region is held active (R109). -/
def haltRegion (r cause : Nat) (s : State) : State :=
  if s.halted r then s
  else wakeRegion r (s.setDbg r fun x => { x with cause := cause, haltedInBeat := true })
def resumeRegion (r : Nat) (s : State) : State :=
  s.setDbg r fun x => { x with cause := 0, stepping := false }

/-- PARTITION_SET (R363). -/
def cmdPartitionSet (m : Nat) (s : State) : State :=
  let x := partPayload s m
  let sel := x.select.testBit
  let unselected := x.procs ≠ 0 || x.brims ≠ 0 || x.shares.any (· ≠ 0) || x.flags.testBit 0
    || (!sel 0 && x.flags.testBit 1) || (!sel 1 && x.flags.testBit 2) || (!sel 2 && x.flags.testBit 3)
    || (!sel 3 && decide (x.route ≠ 0)) || (!sel 4 && decide (x.window ≠ 0)) || (!sel 5 && decide (x.wake ≠ 0))
  if !x.inRange || unselected || 64 ≤ x.select then complete m ST.badPayload [] s
  else match s.part x.p with
    | none => complete m ST.noPartition [] s
    | some q =>
      if ((sel 3 && x.route = 2) || (sel 0 && x.flags.testBit 1)) && !capLists s q.brims then
        complete m ST.capability [] s
      else if sel 1 && !(firmItems s x.p).isEmpty then complete m ST.firmPending [] s
      else
        let off := sel 0 && !x.flags.testBit 1
        let s := if off then (regionsOf q.brimList).foldl (fun s r => if s.halted r then resumeRegion r s else s) s else s
        let s := s.setPart x.p fun q => { q with
          debug := if sel 0 then x.flags.testBit 1 else q.debug
          nextObserve := if sel 1 then some (x.flags.testBit 2) else q.nextObserve
          migrate := if sel 2 then !x.flags.testBit 3 else q.migrate
          nextRoute := if sel 3 then some x.route else q.nextRoute
          nextWindow := if sel 4 then some x.window else q.nextWindow
          nextWake := if sel 5 then some x.wake else q.nextWake }
        let later := sel 1 || sel 3 || sel 4 || sel 5
        complete m ST.ok [s.beat + b01 later] s

/-! ## Address spaces and pages (R264, R270 to R273, R364) -/

/-- An address in usable, online memory of a partition's stacks. -/
def inPartMemory (s : State) (p a : Nat) : Bool :=
  match placeOf s a with
  | .stack k => s.partOfBrim k = some p && s.stackState k ≠ 2
  | _ => false

/-- ASPACE_CREATE (R364). -/
def cmdAspaceCreate (m : Nat) (s : State) : State :=
  let a := s.pw m 0
  let asid := fld a 0 12
  let p := fld a 16 4
  let root := s.pw m 1
  if a ≠ inFld asid 0 12 + inFld p 16 4 then complete m ST.badPayload [] s
  else if (look s.aspaces asid).isSome then complete m ST.aspaceExists [] s
  else match s.part p with
    | none => complete m ST.noPartition [] s
    | some q =>
      if q.fatal then complete m ST.dieAbsent [] s
      else if root % 65536 ≠ 0 then complete m ST.badPayload [] s
      else if !inPartMemory s p root then complete m ST.stackForeign [] s
      else complete m ST.ok [] { s with aspaces := put s.aspaces asid { part := p, root := root } }

/-- ASPACE_DESTROY: the address space goes at once, its cached translations as a shootdown's do, and the command ends
once no request holds one (R364). -/
def cmdAspaceDestroy (m : Nat) (s : State) : State :=
  let asid := s.pw m 0
  if 4096 ≤ asid then complete m ST.badPayload [] s
  else match look s.aspaces asid with
    | none => complete m ST.noAspace [] s
    | some a =>
      if s.ctxs.any (·.2.asid = asid) then complete m ST.aspaceLive [] s
      else if !a.pins.isEmpty then complete m ST.pagePinned [] s
      else
        let s := dropSpace asid { s with aspaces := del s.aspaces asid }
        { s with shoots := s.shoots ++ [{ mbx := m, asid := asid, first := 0, count := 2 ^ 31, destroys := true }] }

/-- A run of pages in the payload of PAGE_PIN (Table 15-1): ASID, first page number, count. -/
def pageRun (s : State) (m : Nat) : Option (Nat × Nat × Nat) :=
  let asid := s.pw m 0
  let va := s.pw m 1
  let n := s.pw m 2
  if 4096 ≤ asid || va % 2 ^ 26 ≠ 0 || n = 0 || 8192 < n || 2 ^ 57 < va + n * 2 ^ 26 then none
  else some (asid, va / 2 ^ 26, n)

/-- Firmware's own walks (R270). -/
def noseEngine (asid part : Nat) : Engine := { die := 24, code := 6, ctx := 0, asid, part, stall := .nose (2 ^ 20) }

/-- A leaf that R270 lets be pinned. -/
def pinnable (s : State) (p : Nat) (e : W64) (big : Bool) (va : Nat) : Bool :=
  match leafTarget e big va with
  | .dev a =>
    let size := if big then 2 ^ 31 else 2 ^ 26
    let base := a / size * size
    (inPartMemory s p base && inPartMemory s p (base + size - 1)
        && !(s.flash.retired.any fun f => decide (base ≤ f) && decide (f < base + size)))
      || (!big && decide (2 ^ 40 ≤ base) && decide (base < 2 ^ 40 + 2 ^ 30)
        && s.partOfBrim ((base - 2 ^ 40) / 2 ^ 26) = some p)
  | _ => false

/-- Leaves of a run of pages, walked in order; none when one is unsuitable. -/
def pinLeaves (asid p first : Nat) : Nat → State → Option (List TcEntry) × State
  | 0, s => (some [], s)
  | n + 1, s =>
    let (l, s) := pinLeaves asid p first n s
    match l with
    | none => (none, s)
    | some l =>
      let va := (first + n) * 2 ^ 26
      match walk (noseEngine asid p) va {} s with
      | (.leaf e big, s) =>
        if pinnable s p e big va then
          let t : TcEntry := { asid, big, vpn := vpnOf big va, leaf := e, locked := true }
          (some (if l.contains t then l else t :: l), s)
        else (none, s)
      | (_, s) => (none, s)

/-- Dies that lock a partition's pins (R270): its own, the port dies and the Crown. -/
def pinDies (q : Partition) : List Nat := q.brimList ++ (bitsOf 4 q.procs.toNat).map (16 + ·) ++ [20, 21, 22, 23, 24]
/-- PAGE_PIN (R270). -/
def cmdPagePin (m : Nat) (s : State) : State :=
  match pageRun s m with
  | none => complete m ST.badPayload [] s
  | some (asid, first, n) =>
    match look s.aspaces asid with
    | none => complete m ST.noAspace [] s
    | some a =>
      match s.part a.part with
      | none => complete m ST.noPartition [] s
      | some q =>
        if q.fatal then complete m ST.dieAbsent [] s
        else match pinLeaves asid a.part first n s with
          | (none, s) => complete m ST.pinInvalid [] s
          | (some l, s) =>
            let full := (pinDies q).any fun d =>
              let held := (s.tcOf d).filter (·.locked)
              decide (16384 < (held.filter fun x => !l.any x.same).length + l.length)
            if full then complete m ST.pinFull [] s
            else
              let s := (pinDies q).foldl (fun s d => l.foldl (fun s t => tcAdd d t s) s) s
              let pins := (List.range n).foldl (fun z i => addSorted (first + i) z) a.pins
              complete m ST.ok [] { s with aspaces := put s.aspaces asid { a with pins := pins } }

/-- PAGE_UNPIN (R271). -/
def cmdPageUnpin (m : Nat) (s : State) : State :=
  match pageRun s m with
  | none => complete m ST.badPayload [] s
  | some (asid, first, n) =>
    match look s.aspaces asid with
    | none => complete m ST.noAspace [] s
    | some a =>
      if pageContracted s asid first n then complete m ST.pageContracted [] s
      else
        let pins := a.pins.filter fun v => v < first || first + n ≤ v
        let still := fun (x : TcEntry) => pins.any fun v => if x.big then v / 32 = x.vpn else v = x.vpn
        let free := fun (x : TcEntry) => if x.asid = asid && !still x then { x with locked := false } else x
        complete m ST.ok [] { s with
          aspaces := put s.aspaces asid { a with pins := pins }
          tc := s.tc.map fun e => (e.1, e.2.map free) }

/-- A shootdown of a run of pages is refused by its pins (R271). -/
def pinsRefuse (s : State) (asid first n : Nat) : Option Nat :=
  if pageContracted s asid first n then some ST.pageContracted
  else if (look s.aspaces asid).any fun a => a.pins.any fun v => decide (first ≤ v) && decide (v < first + n) then
    some ST.pagePinned
  else none
/-- A request that the model holds between steps has a translation of the run: a processor core's, on its way (R272). -/
def holdsLeaf (s : State) (asid first n : Nat) : Bool := s.procReq.any fun e => e.2.asid = asid && runsMeet first n e.2.page 1

/-- SHOOTDOWN (R272, R273): the leaves go, and the command ends once no request holds a removed translation. -/
def cmdShootdown (m : Nat) (s : State) : State :=
  match pageRun s m with
  | none => complete m ST.badPayload [] s
  | some (asid, first, n) =>
    match look s.aspaces asid with
    | none => complete m ST.noAspace [] s
    | some _ =>
      match pinsRefuse s asid first n with
      | some st => complete m st [] s
      | none =>
        let busy := (List.range n).any fun i => s.migrating asid (first + i)
        let s := if busy then s else dropLeaves asid first n s
        { s with shoots := s.shoots ++ [{ mbx := m, asid, first, count := n, destroys := false, started := !busy }] }

/-- The last request that held a removed translation has ended (R272): the command completes; one held back by a
migration that runs does not, and removes its leaves first when that has ended (R273). -/
def shootdownDone (m elapsed : Nat) (s : State) : State :=
  match s.shoots.find? (·.mbx = m) with
  | none => s
  | some x =>
    if !x.started && (List.range x.count).any fun i => s.migrating x.asid (x.first + i) then s
    else if x.started && holdsLeaf s x.asid x.first x.count then s
    else
      let s := if x.started then s else dropLeaves x.asid x.first x.count s
      if holdsLeaf s x.asid x.first x.count then
        { s with shoots := modFirst (·.mbx = m) (fun x => { x with started := true }) s.shoots }
      else
        complete m ST.ok (if x.destroys then [] else [elapsed]) { s with shoots := dropFirst (·.mbx = m) s.shoots }

/-! ## Faults (R280 to R286) -/

/-- The record that a command names, or why it cannot act: one under migration is taken (R281, R287). -/
def faultNamed (s : State) (m : Nat) : Except Nat FaultRec :=
  let p := s.pw m 0
  let i := s.pw m 1
  if 16 ≤ p || 2 ^ 32 ≤ i then .error ST.badPayload
  else match s.part p with
    | none => .error ST.noPartition
    | some _ => match s.faults.find? fun r => r.part = p && r.id = i with
      | some r => if r.migrating.isSome then .error ST.faultGone else .ok r
      | none => .error ST.faultGone

/-- FAULT_RESUME (R280, R285). -/
def cmdFaultResume (m : Nat) (s : State) : State :=
  match faultNamed s m with
  | .error e => complete m e [] s
  | .ok r =>
    if r.reason = frHostAtomic && !((s.part r.part).any (·.migrate)) then complete m ST.migrationOff [] s
    else complete m ST.ok [] (resolveFault r s)

/-- Contexts with an engine stalled on a record; a group of a merged slice is an engine of every member's (R128). -/
def stalledCtxs (s : State) (r : FaultRec) : List Nat :=
  let groups := r.stalled.filterMap fun x => match x with | .group k g => look (s.core k).groups g | _ => none
  let members := groups.flatMap fun g => (sliceMembers s g.ctx g.seq).map (·.1)
  (s.ctxs.filter fun e => members.contains e.1 || r.stalled.any fun x => Stall.ofCtx s e.1 x).map (·.1)

/-- A context stops with a notice, of its running item. -/
def stopWithNotice (c status : Nat) (record detail : List Byte) (s : State) : State :=
  match s.ctx c with
  | none => s
  | some x =>
    if x.stopped then s
    else
      let seq := ((x.items.find? (·.running)).map (·.seq)).getD 0
      stopContext c status (notice c seq status record detail s)

/-- FAULT_ABORT (R280): contexts stop with ST_FAULT_ABORTED and the fault entry; a processor core's access ends as an
access fault on the core. -/
def cmdFaultAbort (m : Nat) (s : State) : State :=
  match faultNamed s m with
  | .error e => complete m e [] s
  | .ok r =>
    let cs := stalledCtxs s r
    let procs := r.stalled.filterMap fun x => match x with | .proc k code => some (k, code) | _ => none
    let s := cs.foldl (fun s c => stopWithNotice c ST.faultAborted (faultEntry r (s.fqOf r.part).phase) [] s) s
    let s := match s.faults.find? fun x => x.part = r.part && x.id = r.id with
      | some r => resolveFault r s
      | none => s
    complete m ST.ok [] { s with proc := procs.foldl (fun t e => put t e.1 (.exception e.2)) s.proc }

/-- Level-3 table of a page, if its pointers exist (R283). -/
def levelThree (g : Engine) (va : Nat) (t : Nat) : Nat → State → Option Nat
  | 0, _ => some t
  | left + 1, s =>
    let (lo, len) := if left = 1 then (44, 13) else (31, 13)
    let a := t + fld va lo len * 8
    let (x, s') := lineRead (lineOf a) false s
    let e := BitVec.ofNat 64 (leAt x.data (a % 256) 8)
    if x.poison || !e.getLsbD 0 || fld e.toNat 1 2 ≠ 0 || pteBad e (2 - left) then none
    else levelThree g va (pteAddr e) left s'

/-- FAULT_MIGRATE (R283): checks, then the shootdown with its pins (R272); the host copy engines move the page, and the
command ends with MIGRATION_COPY_DONE. -/
def cmdFaultMigrate (m : Nat) (s : State) : State :=
  let host := s.pw m 2
  let frame := s.pw m 3
  let leaf := BitVec.ofNat 64 (s.pw m 4)
  match faultNamed s m with
  | .error e => complete m e [] s
  | .ok r =>
    if host % 2 ^ 26 ≠ 0 || frame % 2 ^ 26 ≠ 0 || fld leaf.toNat 62 2 ≠ 0 || pteAddr leaf ≠ frame
        || fld leaf.toNat 1 2 ≠ 1 || !leaf.getLsbD 0 || pteBad leaf 3 then complete m ST.badPayload [] s
    else if !((s.part r.part).any (·.migrate)) then complete m ST.migrationOff [] s
    else if !inPartMemory s r.part frame then complete m ST.stackForeign [] s
    else if s.flash.retired.contains frame then complete m ST.frameRetired [] s
    else match (look s.aspaces r.asid).bind fun a => levelThree (noseEngine r.asid r.part) r.va a.root 2 s with
      | none => complete m ST.noTable [] s
      | some _ =>
        match pinsRefuse s r.asid r.page 1 with
        | some st => complete m st [] s
        | none =>
          let s := dropLeaves r.asid r.page 1 s
          let g : Migration := { mbx := m, host, frame, leaf, target := s.beat, age := s.plan.nextAge }
          { s with
            plan := { s.plan with nextAge := s.plan.nextAge + 1 }
            faults := modFirst (fun x => x.part = r.part && x.id = r.id) (fun x => { x with migrating := some g }) s.faults }

/-- Lines of which an agent or the filter holds something. -/
def knownLines (s : State) : List Nat :=
  List.map (fun e => e.1 % 2 ^ 34) s.coh.lines ++ List.map (fun e => e.2.line) s.coh.filter

/-- A frame whose migration the host's loss cut off: what its bytes are is open (R286), one free value each. -/
def scrambleFrame (frame : Nat) (s : State) : State :=
  let inF := fun (a : Nat) => decide (frame ≤ a) && decide (a < frame + 2 ^ 26)
  let s := ((knownLines s).filter fun l => inF (l * 256)).foldl (fun s l => purgeAgents l s) s
  let cells := (List.range (2 ^ 26)).filterMap fun i =>
    let b := (Config.freeWord (s.free + i)).setWidth 8
    if b = 0 then none else some (frame + i, b)
  { s with
    free := s.free + 2 ^ 26
    mem := { s.mem with bytes := s.mem.bytes.filter (·.1 < frame) ++ cells ++ s.mem.bytes.filter (frame + 2 ^ 26 ≤ ·.1) } }

/-- Steps 3 and 4 of a migration, once every piece has moved (R283, R281). -/
def migrationDone (p fid : Nat) (s : State) : State :=
  match s.faults.find? fun r => r.part = p && r.id = fid with
  | none => s
  | some r =>
    match r.migrating with
    | none => s
    | some g =>
      if g.left ≠ 0 then s
      else
        let s := match (look s.aspaces r.asid).bind fun a => levelThree (noseEngine r.asid r.part) r.va a.root 2 s with
          | some t => byEngine 24 0 [] (bytesWrite (t + fld r.va 26 5 * 8) (leBytes 8 g.leaf.toNat) false false) s
          | none => s
        complete g.mbx ST.ok [] (resolveFault r s)

/-! ## Frames and stacks (R217, R223) -/

/-- FRAME_RETIRE (R217). -/
def cmdFrameRetire (m : Nat) (s : State) : State :=
  let a := s.pw m 0
  match placeOf s a with
  | .stack _ =>
    if a % 2 ^ 26 ≠ 0 then complete m ST.badPayload [] s
    else if deviceContracted s fun x => x / 2 ^ 26 = a / 2 ^ 26 then complete m ST.pageContracted [] s
    else if s.flash.retired.contains a then complete m ST.ok [] s
    else if 512 ≤ s.flash.retired.length then complete m ST.retireFull [] s
    else complete m ST.ok [] { s with flash := { s.flash with retired := addSorted a s.flash.retired } }
  | _ => complete m ST.badPayload [] s

/-- FRAME_UNRETIRE (R217, R361). -/
def cmdFrameUnretire (m : Nat) (s : State) : State :=
  let a := s.pw m 0
  match placeOf s a with
  | .stack _ =>
    if a % 2 ^ 26 ≠ 0 then complete m ST.badPayload [] s
    else if s.flash.retired.contains a then
      complete m ST.ok [] { s with flash := { s.flash with retired := s.flash.retired.filter (· ≠ a) } }
    else complete m ST.notRetired [] s
  | _ => complete m ST.badPayload [] s

/-- STACK_RETEST (R223): the stack goes offline until STACK_RETEST_DONE. -/
def cmdStackRetest (m : Nat) (s : State) : State :=
  let k := s.pw m 0
  if 16 ≤ k then complete m ST.badPayload [] s
  else if !(((s.partOfBrim k).bind s.part).any (·.maintenance)) then complete m ST.notMaintenance [] s
  else if s.stackState k ≠ 0 then complete m (if s.stackState k = 1 then ST.stackOffline else ST.dieAbsent) [] s
  else if deviceContracted s fun x => decide (x < 2 ^ 40) && x / 2 ^ 36 = k then complete m ST.pageContracted [] s
  else s.setStack k fun z => { z with state := 1, retest := some m }

/-- A write-back on its way to a stack is taken without effect: its home answers it (R223, R245). -/
def sinkWbs (k : Nat) (s : State) : State :=
  let mine := fun (m : FeltMsg) => m.op = 0x28 && homeOf m.line = k
  let all := s.coh.net.filter mine ++ s.felt.stalled.filter mine
  let s := { s with
    coh := { s.coh with net := s.coh.net.filter fun m => !mine m }
    felt := { s.felt with stalled := s.felt.stalled.filter fun m => !mine m } }
  all.foldl (fun s m =>
    let key := (m.src * 64 + m.tag / 256) * 16 + k
    sendFelt { op := 0x33, src := k, dst := m.src, tag := m.tag, line := m.line }
      { s with coh := { s.coh with applied := putD s.coh.applied key (m.tag % 256 = 128) false } }) s
/-- Every line of a stack reads as zero with a valid word, and no cache and no write-back on its way holds one (R223,
R431). -/
def zeroStack (k : Nat) (s : State) : State :=
  let here := fun (l : Nat) => homeOf l = k
  let lines := (knownLines s).filter here
  let s := sinkWbs k (lines.foldl (fun s l => purgeAgents l s) s)
  let s := s.setL2 k fun z => { z with lines := [], side := [], flight := [] }
  { s with mem := { s.mem with
      bytes := s.mem.bytes.filter fun e => e.1 / 2 ^ 36 ≠ k
      poison := s.mem.poison.filter fun l => !here l
      sill := s.mem.sill.filter fun e => !here e.1 } }

/-- The retest ends: the stack is online, and the reply lists the frames with faults (R223, Table 15-1). -/
def retestDone (k : Nat) (bad : List Nat) (s : State) : State :=
  match (s.stack k).retest with
  | none => s
  | some m =>
    let s := zeroStack k (s.setStack k fun z => { z with state := 0, retest := none })
    complete m ST.ok ((List.range 16).map fun i => ofBits ((bad.filter fun f => f / 64 = i && f < 992).map (· % 64))) s

/-- RESERVE_MODE (R221). -/
def cmdReserveMode (m : Nat) (s : State) : State :=
  let w := s.pw m 0
  let p := fld w 0 4
  let on := w.testBit 8
  if w ≠ inFld p 0 4 + inFld (b01 on) 8 1 then complete m ST.badPayload [] s
  else if s.rst.capReserve = 0 then complete m ST.capability [] s
  else match s.part p with
    | none => complete m ST.noPartition [] s
    | some _ =>
      if on && s.parts.any fun e => e.1 ≠ p && e.2.maintenance then complete m ST.reserveBusy [] s
      else complete m ST.ok [] (s.setPart p fun q => { q with maintenance := on })

/-! ## Beat, time, accords (R44, R45, R49, R361) -/

/-- ACCORD_READ (R361, R45). -/
def cmdAccordRead (m : Nat) (linkOk : Bool) (s : State) : State :=
  let b := s.pw m 0
  let mask := s.pw m 1
  let buf := s.pw m 2
  let size := s.pw m 3
  if 65536 ≤ mask || !bufferOk buf then complete m ST.badPayload [] s
  else if b + 16 < s.beat || s.beat + 2 < b || b < s.time.gridStart then complete m ST.accordGone [] s
  else
    let data := ((bitsOf 16 mask).filter fun p => (s.part p).isSome).flatMap fun p => accordBytes s p b
    if size < data.length then complete m ST.bufferSmall [data.length] s
    else if linkOk then complete m ST.ok [data.length] (hostReq (.write buf data false false) s)
    else complete m ST.hostBuffer [] (scribble buf (data.length / 8) s)

/-- A lockstep job is armed, committed or running. -/
def State.lockstepLive (s : State) : Bool := s.peer.jobs.any fun j => j.lockstep && decide (j.state < 3)
/-- Some accepted FIRM item is unfinished. -/
def State.firmPending (s : State) : Bool := s.ctxs.any fun e => e.2.items.any (·.contracted)

/-- A change of epoch or period, or a step of the counter, waits for the boundary at which the grid turns (R45). -/
def State.gridWaits (s : State) : Bool := s.time.newGrid.isSome || s.time.stepped
/-- BEAT_SET (R44, R45): the change applies at the next boundary. -/
def cmdBeatSet (m : Nat) (s : State) : State :=
  let epoch := s.pw m 0
  let period := s.pw m 1
  if period < 50 || 2000 < period || s.time.nextBoundary < epoch then complete m ST.badPayload [] s
  else if s.firmPending then complete m ST.firmPending [] s
  else if s.lockstepLive then complete m ST.jobArmed [] s
  else complete m ST.ok [s.time.nextBoundary] { s with time := { s.time with newGrid := some (epoch, period) } }

/-- TIME_SOURCE (R361, Table 19-1): lock is reported afresh. -/
def cmdTimeSource (m : Nat) (s : State) : State :=
  let v := s.pw m 0
  if 3 ≤ v then complete m ST.badPayload [] s
  else if s.lockstepLive then complete m ST.jobArmed [] s
  else if v = s.time.source then complete m ST.ok [] s
  else complete m ST.ok [] { s with time := { s.time with
    source := v, locked := false, accuracy := 0xFFFFF, holdover := none, unlockedAt := none
    ptp := { s.time.ptp with offsets := [], below := 0 }, sync := { s.time.sync with offsets := [], below := 0 } } }

/-! ## Caches (R239) -/

/-- Partition and dies that a cache command names, or its refusal. -/
def cacheDies (s : State) (m : Nat) : Except Nat (Nat × List Nat) :=
  let p := s.pw m 0
  let mask := s.pw m 1
  if 16 ≤ p || 65536 ≤ mask then .error ST.badPayload
  else match s.part p with
    | none => .error ST.noPartition
    | some q => if BitVec.ofNat 16 mask &&& q.brims = BitVec.ofNat 16 mask then .ok (p, bitsOf 16 mask) else .error ST.badPayload

/-- A cache command: every die is checked before any acts (R239). -/
def cacheCommand (m : Nat) (refuse : Nat → Nat → State → Option Nat) (act : L2 → L2) (s : State) : State :=
  match cacheDies s m with
  | .error e => complete m e [] s
  | .ok (p, ds) =>
    match ds.findSome? fun d => refuse p d s with
    | some e => complete m e [] s
    | none => complete m ST.ok [] (ds.foldl (fun s d => s.setL2 d act) s)

/-- CACHE_INVALIDATE_ALL (Table 09-5). -/
def cmdCacheInvalidateAll (m : Nat) (s : State) : State :=
  cacheCommand m (fun _ d s => if (s.l2Of d).enabled then some ST.cacheEnabled else none)
    (fun z => { z with lines := [], side := [], flight := [], invalidated := true }) s

/-- CACHE_ENABLE (Table 09-5). -/
def cmdCacheEnable (m : Nat) (s : State) : State :=
  cacheCommand m (fun p d s =>
      if !(s.l2Of d).invalidated then some ST.cacheNotInvalidated
      else if !(firmItems s p).isEmpty then some ST.firmPending else none)
    (fun z => { z with enabled := true }) s

/-- Every line of an L2 leaves it, a dirty one by its write-back (R239). -/
def l2Empty (d : Nat) (s : State) : State := (s.l2Of d).lines.foldl (fun s e => l2Drop d e.1 s) s

/-- CACHE_DISABLE (Table 09-5). -/
def cmdCacheDisable (m : Nat) (s : State) : State :=
  match cacheDies s m with
  | .error e => complete m e [] s
  | .ok (p, ds) =>
    if !(firmItems s p).isEmpty then complete m ST.firmPending [] s
    else
      let off := fun (z : L2) =>
        { z with lines := [], side := [], flight := [], stores := [], reads := [], enabled := false, invalidated := false }
      complete m ST.ok [] (ds.foldl (fun s d => (l2Empty d s).setL2 d off) s)

/-- CACHE_POLICY (Table 09-5): entries are emptied when prefetch or the detector is turned off. -/
def cmdCachePolicy (m : Nat) (s : State) : State :=
  let w := s.pw m 2
  if 4 ≤ w then complete m ST.badPayload [] s
  else
    let pf := w.testBit 0
    let sd := w.testBit 1
    cacheCommand m (fun _ _ _ => none)
      (fun z => { z with
        prefetch := pf, seqDetect := sd
        reads := if pf then z.reads else []
        side := if pf then z.side else []
        flight := if pf then z.flight else []
        stores := if sd then z.stores else [] }) s

/-! ## Power and debug (R407, R416, R361) -/

/-- POWER_CAP (R407, R61): the reply is the beat after the last that holds a slice accepted under a higher cap. -/
def cmdPowerCap (m : Nat) (s : State) : State :=
  let c := s.pw m 0
  if c < 3200 || 4000 < c then complete m ST.capRange [] s
  else if s.peer.jobs.any fun j => j.lockstep && decide (j.state < 3) && decide (issueOf c < j.floor) then
    complete m ST.jobFloor [] s
  else
    let last := (s.plan.placed.filter fun x => !x.ghost && decide (c < x.cap)).foldl (fun n x => Nat.max n x.beat) s.plan.sealedTo
    complete m ST.ok [last + 1] { s with
      pwr := { s.pwr with cap := c }, plan := { s.plan with caps := (s.firstOpen, c) :: s.plan.caps } }

/-- First beat from `b` at which a partition's planned power reaches the smoothing floor (R416). -/
def floorReached (s : State) (p : Nat) : Nat :=
  let ps := openPowers s p s.plan.placed
  let n := (ps.takeWhile fun v => decide (v < smoothTarget s p)).length
  s.firstOpen + n

/-- SMOOTHING (R416). -/
def cmdSmoothing (m : Nat) (s : State) : State :=
  let w := s.pw m 0
  let on := w.testBit 0
  let f := fld w 8 8
  if w ≠ b01 on + inFld f 8 8 then complete m ST.badPayload [] s
  else if (on && (decide (f < 16) || decide (230 < f))) || (!on && decide (f ≠ 0)) then complete m ST.smoothRange [] s
  else
    let s := { s with pwr := { s.pwr with smoothing := on, floor256 := f } }
    complete m ST.ok [s.parts.foldl (fun b e => Nat.max b (floorReached s e.1)) s.firstOpen] s

/-- DEBUG_HALT (R361): cause 3, or resume. -/
def cmdDebugHalt (m : Nat) (s : State) : State :=
  let p := s.pw m 0
  let mask := s.pw m 1
  let w := s.pw m 2
  if 16 ≤ p || 2 ≤ w then complete m ST.badPayload [] s
  else match s.part p with
    | none => complete m ST.noPartition [] s
    | some q =>
      if !q.debug then complete m ST.debugOff [] s
      else if (bitsOf 64 mask).any fun r => !q.brims.getLsbD (r / 4) then complete m ST.badPayload [] s
      else complete m ST.ok [] ((bitsOf 64 mask).foldl (fun s r => if w = 0 then haltRegion r 3 s else resumeRegion r s) s)

/-! ## Contexts (R365 to R369) -/

/-- A ring or head word lies in host memory, or in usable memory of the partition (R365). -/
def ringOk (s : State) (p : Nat) (host : Bool) (a n : Nat) : Bool :=
  host || (inPartMemory s p a && inPartMemory s p (a + n - 1) && (placeOf s a = placeOf s (a + n - 1)))

/-- Stack of a partition with most free context entries, lowest first (R366). -/
def storeFor (s : State) (q : Partition) : Option Nat :=
  let free := fun k => 65536 - (s.ctxs.filter (·.2.store = k)).length
  q.brimList.foldl (fun best k =>
    match best with
    | none => if 0 < free k then some k else none
    | some b => if free b < free k then some k else some b) none

/-- The payload of Table 15-3 keeps its ranges. -/
def ctxPayloadOk (s : State) (m : Nat) : Bool :=
  let a := s.pw m 0
  let d := s.pw m 3
  let flags := fld a 48 8
  fld a 20 12 = 0 && fld a 44 4 = 0 && decide (flags < 64)
    && decide (6 ≤ fld a 56 8) && decide (fld a 56 8 ≤ 16) && s.pw m 1 % 4096 = 0 && s.pw m 2 % 4096 = 0
    && decide (6 ≤ fld d 0 8) && decide (fld d 0 8 ≤ 16) && fld d 8 8 = 0 && decide (fld d 16 16 < 2048)
    && fld d 48 16 = 0 && !(flags.testBit 5 && decide (fld d 32 16 ≠ 0)) && s.pw m 4 % 8 = 0 && s.pw m 7 = 0

/-- CONTEXT_CREATE (R365). -/
def cmdContextCreate (m : Nat) (s : State) : State :=
  let a := s.pw m 0
  let d := s.pw m 3
  let id := fld a 0 20
  let asid := fld a 32 12
  let flags := fld a 48 8
  if !ctxPayloadOk s m then complete m ST.badPayload [] s
  else if s.parts.isEmpty then complete m ST.noPartition [] s
  else if (s.ctx id).isSome then complete m ST.contextExists [] s
  else match look s.aspaces asid with
    | none => complete m ST.noAspace [] s
    | some sp =>
      match s.part sp.part with
      | none => complete m ST.noPartition [] s
      | some q =>
        if q.fatal then complete m ST.dieAbsent [] s
        else if !(ringOk s sp.part (flags.testBit 1) (s.pw m 1) (128 * 2 ^ fld a 56 8)
            && ringOk s sp.part (flags.testBit 2) (s.pw m 2) (128 * 2 ^ fld d 0 8)
            && ringOk s sp.part (flags.testBit 3) (s.pw m 4) 8) then complete m ST.stackForeign [] s
        else match storeFor s q with
          | none => complete m ST.contextFull [] s
          | some k =>
            let x : Ctx :=
              { asid, part := sp.part, nonsat := flags.testBit 0, sqHost := flags.testBit 1, cqHost := flags.testBit 2
                headHost := flags.testBit 3, irq := flags.testBit 4, sqLog2 := fld a 56 8, cqLog2 := fld d 0 8
                sqBase := s.pw m 1, cqBase := s.pw m 2, vector := fld d 16 16
                watchdog := if flags.testBit 5 then 64 else fld d 32 16, headAddr := s.pw m 4
                seed := BitVec.ofNat 64 (s.pw m 5), winbase := s.pw m 6, store := k }
            complete m ST.ok [] { s with ctxs := put s.ctxs id x }

/-- The context of payload word 0. -/
def ctxNamed (s : State) (m : Nat) : Except Nat (Nat × Ctx) :=
  let c := s.pw m 0
  if 2 ^ 20 ≤ c then .error ST.badPayload
  else match s.ctx c with
    | some x => .ok (c, x)
    | none => .error ST.noContext

/-- CONTEXT_STOP (R367). -/
def cmdContextStop (m : Nat) (s : State) : State :=
  match ctxNamed s m with
  | .error e => complete m e [] s
  | .ok (c, _) => complete m ST.ok [] (stopContext c ST.contextStopped s)

/-- CONTEXT_DESTROY (R367): it ends when the groups have left their slots and the entries are written. A second one of a context
that is being destroyed finds none (DESIGN CHOICE, log 12). -/
def cmdContextDestroy (m : Nat) (s : State) : State :=
  match ctxNamed s m with
  | .error e => complete m e [] s
  | .ok (c, x) =>
    if x.destroy.isSome then complete m ST.noContext [] s
    else finishDestroys ((stopContext c ST.contextStopped s).setCtx c fun x => { x with destroy := some m })

/-- How an item_seq stands to the next one to be assigned (R370): past (true), or naming no item. -/
def seqPast (next seq : Nat) : Bool :=
  let d := if seq < next then next - seq else next + (2 ^ 32 - 1) - seq
  decide (seq ≠ 0) && decide (1 ≤ d) && decide (d ≤ 2 ^ 31 - 1)

/-- CONTEXT_QUERY (R369, Table 15-4). -/
def cmdContextQuery (m : Nat) (s : State) : State :=
  match ctxNamed s m with
  | .error e => complete m e [] s
  | .ok (_, x) =>
    let seq := s.pw m 1
    let item := if seq = 0 then none else x.items.find? fun i => i.seq = seq && i.phase < 3
    if 2 ^ 32 ≤ seq then complete m ST.badPayload [] s
    else if seq ≠ 0 && item.isNone then
      complete m (if seqPast x.nextSeq seq then ST.itemDone else ST.noItem) [] s
    else
      let live := x.items.filter (·.phase < 3)
      let run := live.find? (·.phase = 2)
      let st := if x.stopped then 2 else if run.isSome then 1 else 0
      let adm := match item.bind (·.adm) with
        | some a => leBytes 4 seq ++ leBytes 1 a.verdict ++ leBytes 1 a.reason ++ leBytes 2 a.index ++ leBytes 4 a.slice
            ++ leBytes 4 0 ++ leBytes 8 a.beat ++ leBytes 8 a.earliest
        | none => leBytes 32 0
      let delay := match item with
        | some i => leBytes 4 i.delay.age ++ leBytes 4 i.delay.queue ++ leBytes 1 i.delay.cause ++ leBytes 1 i.delay.level
            ++ leBytes 2 i.delay.inst ++ leBytes 4 i.seq
        | none => leBytes 16 0
      let bytes := leBytes 1 st ++ leBytes 1 0 ++ leBytes 2 x.sqHead ++ leBytes 2 x.lastSeq.toNat ++ leBytes 2 0
        ++ leBytes 4 live.length ++ leBytes 4 ((run.map (·.seq)).getD 0) ++ adm ++ delay
        ++ leBytes 2 x.stopStatus ++ leBytes 6 0
      complete m ST.ok ((List.range 9).map fun k => leAt bytes (8 * k) 8) s

/-- ITEM_CANCEL (R368, R65). -/
def cmdItemCancel (m : Nat) (s : State) : State :=
  match ctxNamed s m with
  | .error e => complete m e [] s
  | .ok (c, x) =>
    let seq := s.pw m 1
    if 2 ^ 32 ≤ seq then complete m ST.badPayload [] s
    else match x.items.find? fun i => i.seq = seq && i.phase < 3 with
      | none => complete m (if seqPast x.nextSeq seq then ST.itemDone else ST.noItem) [] s
      | some i =>
        let s := if i.contracted then leavePlan c seq (s.beat + 1) (orphanWaits c i s) else s
        let n := s.beat
        let s := (markBehind c seq s).setItem c seq (Item.leave ST.itemCancelled n)
        let s := settleMerged (flushItems c x.items.length s)
        let s := if i.running then leaveStalls c s else s
        complete m ST.ok [n] (leaveBarriers s)

/-! ## Firmware images (R377) -/

/-- FW_STAGE (R377): the image read from the host buffer is verified, then written to the inactive slot. -/
def cmdFwStage (m : Nat) (linkOk flashOk : Bool) (s : State) : State :=
  let a := s.pw m 0
  let n := s.pw m 1
  if !bufferOk a || n < 65536 || 2 ^ 25 < n then complete m ST.badPayload [] s
  else if !linkOk then complete m ST.hostBuffer [] s
  else
    let image := cellsGet s.hostMem a n
    if !Config.imageGood image then complete m ST.imageBad [] s
    else if Config.imageOld image then complete m ST.imageOld [] s
    else
      let v := Config.imageVersion image % 2 ^ 32
      if flashOk then complete m ST.ok [v] { s with flash := { s.flash with staged := some v, stagedGood := true } }
      else complete m ST.flashFail [] s

/-- FW_UNSTAGE (R377). -/
def cmdFwUnstage (m : Nat) (s : State) : State :=
  complete m ST.ok [] { s with flash := { s.flash with staged := none, stagedGood := true } }

end Sys2Proof.Machine
end

