-- ==== Sys2Proof/Machine/Lane.lean ====
section
/-! DEFINITION. How a group issues an instruction (R92, R93), how it fails (R102, R103), and how its lanes reach memory
(R82 to R85, R191, R193, R275). -/

namespace Sys2Proof.Machine

open Sys2Proof

/-! ## Exceptions (Tables 03-8, 03-10) -/

/-- An exception: cause, lanes, the access's status, tval, and an engine detail record. -/
structure Exc where
  cause : Nat
  lanes : W32
  status : Nat := 0
  tval : Nat := 0
  detail : List Byte := []
  deriving DecidableEq, Repr

/-- Causes of Table 03-8. -/
abbrev exIllegal := 0x01
abbrev exMisaligned := 0x02
abbrev exAccess := 0x03
abbrev exScratch := 0x04
abbrev exAtomicScratch := 0x05
abbrev exMaskOver := 0x06
abbrev exMaskUnder := 0x07
abbrev exMaskKind := 0x08
abbrev exDivergent := 0x09
abbrev exBarMismatch := 0x0A
abbrev exEngine := 0x0B
abbrev exStall := 0x0C
abbrev exPoison := 0x0D
abbrev exBarCount := 0x0E

/-- The group fault record (Table 03-10). -/
def faultRecord (c slot ctx depth : Nat) (e : Exc) (others pc : Nat) : List Byte :=
  leBytes 4 ctx ++ leBytes 2 c ++ leBytes 1 slot ++ leBytes 1 e.cause ++ leBytes 4 e.lanes.toNat
    ++ leBytes 1 depth ++ leBytes 1 (Nat.min others 255) ++ leBytes 2 e.status ++ leBytes 8 pc ++ leBytes 8 e.tval

/-- An exception of a group of an item (R103): a notice with the record to the context, or to every member's of a
merged slice (R127); then the contexts stop. -/
def raiseIn (c slot ctx seq depth : Nat) (e : Exc) (others pc : Nat) (s : State) : State :=
  let st := if e.cause = exStall then ST.groupStall else ST.groupException
  let ms := (sliceMembers s ctx seq).filter fun m => (s.ctx m.1).any (!·.stopped)
  let r := faultRecord c slot ctx depth e others pc
  let s := ms.foldl (fun s m => notice m.1 m.2 st r e.detail s) s
  ms.foldl (fun s m => stopContext m.1 st s) s

/-- A group raises an exception. -/
def raiseExc (c slot : Nat) (g : Group) (e : Exc) (others pc : Nat) (s : State) : State :=
  raiseIn c slot g.ctx g.seq g.stack.length e others pc s

/-- Class of the slice a group runs: its item's now, or that of a merged slice (R127). -/
def sliceClass (s : State) (g : Group) : Nat :=
  match s.item g.ctx g.seq with
  | some i => if i.merged.isEmpty then i.cls else g.cls
  | none => g.cls

/-! ## Issue -/

/-- What an instruction does. -/
inductive LaneOut where
  /-- It completes, or the group waits; the group and the state after. -/
  | next (g : Group) (s : State)
  /-- The group's slot is free. -/
  | ended (s : State)
  | exc (e : Exc) (s : State)
  /-- Translation faults were opened; the word replays. -/
  | stall (s : State)
  /-- The group is not ready for it: an engine queue is full. -/
  | idle

/-- The group in a slot of a core. -/
def State.group (s : State) (c slot : Nat) : Option Group := look (s.core c).groups slot
def putGroup (c slot : Nat) (g : Group) (s : State) : State :=
  s.setCore c fun k => { k with groups := put k.groups slot g }

/-- A debug step of the slot has not ended (R110). -/
def steppingSlot (c slot : Nat) (s : State) : Bool :=
  let z := s.dbgOf (regionOfCore c)
  z.stepping && z.stepCore = c % 16 && z.stepGroup = slot
/-- The engine instruction of a step stands in its queue. -/
def Core.steppedQueued (k : Core) (slot : Nat) : Bool := (k.mxq ++ k.vxq).any fun o => o.slot = slot && o.stepped
/-- A halted region runs nothing but the one instruction that it steps (R109, R110). -/
def runnable (s : State) (c slot : Nat) : Bool :=
  (s.dbgOf (regionOfCore c)).cause = 0 || (steppingSlot c slot s && !(s.core c).steppedQueued slot)

/-- An unfinished FIRM slice of another item than (ctx, seq), placed on a core in the current beat. -/
def firmElsewhere (s : State) (c ctx seq : Nat) : Bool :=
  (firmOn s c s.beat).any fun p => !(p.ctx = ctx && p.seq = seq) &&
    (s.item p.ctx p.seq).any fun i => decide (i.phase < 3) && decide (i.slice ≤ p.slice)
/-- The group of a demoted slice issues nothing on a core that holds a FIRM slice in the beat, until that slice ends (R70). -/
def yieldsCore (s : State) (c : Nat) (g : Group) : Bool :=
  (s.item g.ctx g.seq).any (fun i => i.cls = 2 && i.adm.any fun a => a.verdict = 1) && firmElsewhere s c g.ctx g.seq
/-- The instruction of another slice waits at the head of the matrix queue (R116). -/
def mxHeadWaits (s : State) (c slot : Nat) : Bool :=
  match (s.core c).mxq with
  | o :: _ => o.slot = slot && (s.core c).mx.holder.any (· ≠ (o.ctx, o.seq, o.slice))
  | [] => false
/-- The group in a slot that may go on (R93). -/
def readyIn (c slot : Nat) (s : State) : Option Group :=
  match s.group c slot with
  | none => none
  | some g =>
    if s.alive && g.wait = .none && s.groupLive g && s.regionState (regionOfCore c) = 0 && runnable s c slot
        && !yieldsCore s c g && !mxHeadWaits s c slot
    then some g else none
/-- The group runs Tamcen's update kernel: the words that it fetches are the device's own, and what they do is the kernel's
blocks (R174, log 53). -/
def inKernel (s : State) (g : Group) : Bool := (s.item g.ctx g.seq).any (·.kind = 4)
/-- The group that may issue the word of a command. -/
def readyGroup (c slot : Nat) (s : State) : Option Group :=
  match readyIn c slot s with
  | none => none
  | some g => if inKernel s g then none else some g

/-- Engine of a group's accesses (Table 11-10). -/
def engineOf (c slot : Nat) (g : Group) (s : State) : Engine :=
  let x := s.ctx g.ctx
  { die := dieOfCore c, code := 1, ctx := g.ctx, asid := (x.map (·.asid)).getD 4096, part := (x.map (·.part)).getD 16
    stall := .group c slot }

/-- Base of the core-local aperture (R83). -/
def apertureBase : Nat := 2 ^ 57 - 2 ^ 26
/-- The aperture (Table 03-2): none outside it; a reserved part, or a device physical address of a scratchpad. -/
def apertureAt (c va : Nat) : Option (Option Nat) :=
  if va < apertureBase || 2 ^ 57 ≤ va then none
  else
    let o := va - apertureBase
    if o < 2 ^ 20 then some (some (windowBase c + o))
    else if o < 5 * 2 ^ 20 then some (some (windowBase (c / 4 * 4 + (o / 2 ^ 20 - 1)) + o % 2 ^ 20))
    else some none

/-- Where one address of a group leads. -/
inductive Where where
  | dev (a : Nat) (aperture : Bool)
  | host (a : Nat)
  | range                          -- reserved part of the aperture
  | status (st : Nat)
  | fault (reason status : Nat)
  deriving DecidableEq, Repr

/-- One address through the aperture or the die's translation cache. -/
def whereIs (e : Engine) (c va : Nat) (acc : Acc) (s : State) : Where × State :=
  match apertureAt c va with
  | some (some a) => (.dev a true, s)
  | some none => (.range, s)
  | none =>
    match translate e va acc s with
    | (.dev a, s) => (.dev a false, s)
    | (.host a, s) => (.host a, s)
    | (.status st, s) => (.status st, s)
    | (.fault r st, s) => (.fault r st, s)

/-- Mask of lanes. -/
def maskOf (l : List Nat) : W32 := BitVec.ofNat 32 (ofBits l)

/-- Instruction fetch: an exception or a stall, or none. The word is the command's operand (log 13). -/
def fetchCheck (c slot : Nat) (g : Group) (s : State) : Option LaneOut × State :=
  let e := engineOf c slot g s
  let acc : Acc := { fetch := true }
  if g.pc % 4 ≠ 0 then (some (.exc { cause := exMisaligned, lanes := g.active, tval := g.pc } s), s)
  else match whereIs e c g.pc acc s with
    | (.range, s) => (some (.exc { cause := exScratch, lanes := g.active, tval := g.pc } s), s)
    | (.status st, s) => (some (.exc { cause := exAccess, lanes := g.active, status := st, tval := g.pc } s), s)
    | (.fault r st, s) => (some (.stall (openFault e g.pc acc r st s)), s)
    | (.host _, s) => (none, if s.host.canIssue || s.host.hostLost then s else holdRun s)
    | (.dev a true, s) => (none, windowWake (regionOfCore ((a - 2 ^ 40) / 2 ^ 20)) s)
    | (.dev a false, s) =>
      let (st, s) := accessCheck (some e.part) e.die 1 e.ctx a {} s
      if st = ST.ok then (none, s)
      else (some (.exc { cause := exAccess, lanes := g.active, status := st, tval := g.pc } s), s)

/-- A step has ended (R110). -/
def stepEnds (c slot : Nat) (waiting : Bool) (s : State) : State :=
  if steppingSlot c slot s then
    s.setDbg (regionOfCore c) fun z => { z with stepping := false, stepDone := true, stepWait := waiting }
  else s

/-- A matrix or vector instruction of the slot stands in a queue. -/
def Core.queued (k : Core) (slot : Nat) : Bool := k.mxq.any (·.slot = slot) || k.vxq.any (·.slot = slot)

/-- What an instruction did takes effect: counters of issue, the group's new state, the end of a step. -/
def issued (c slot : Nat) (g : Group) (w : Nat) (o : LaneOut) (s : State) : State :=
  let mark := fun (g : Group) => { g with issued := true, instret := g.instret + 1 }
  let core := fun (s : State) => useRegion (regionOfCore c) (s.setCore c fun k => { k with last := slot })
  match o with
  | .next g' t =>
    let engine := wOpcode w = 0x5B || wOpcode w = 0x7B
    let t := core (putGroup c slot (if g'.wait = .fence then g' else mark g') t)
    if g'.wait = .none && !engine then stepEnds c slot false t else t
  | .ended t => stepEnds c slot false (core t)
  | .exc e t => stepEnds c slot false (raiseExc c slot g e 0 g.pc t)
  | .stall t => putGroup c slot { g with wait := .fault (BitVec.ofNat 32 w) } t
  | .idle => s

/-- A group issues the word that it fetched, if the word belongs to the row and the group is ready. -/
def issue (c slot : Nat) (row : Row → Bool) (w : W32) (body : Row → Group → State → LaneOut) (s : State) : State :=
  match readyGroup c slot s with
  | none => s
  | some g =>
    let n := w.toNat
    if !(match rowOf n with | some r => row r | none => true) then s
    else match fetchCheck c slot g s with
      | (some o, t) => issued c slot g n o t
      | (none, t) =>
        match rowOf n with
        | none => issued c slot g n (.exc { cause := exIllegal, lanes := g.active, tval := n } t) t
        | some r => issued c slot g n (body r g t) t

/-- A command of a group that may meet conditions of storage and host memory. -/
def laneCmd (h : HostWrites) (md : Media) (f : State → State) (s : State) : Out := done s (runWith md f (hostWrote h s))

/-! ## Scopes, release and acquire (R95, R178, R179) -/

/-- Scope in force: package under PACKAGE_ONLY. -/
def scopeIn (g : Group) (scope : Nat) (s : State) : Nat :=
  if ((s.ctx g.ctx).bind fun x => s.part x.part).any (·.scopedModel) then scope else 3
/-- An acquire at a scope by a group of a core (R193). -/
def acquireAt (c scope : Nat) (s : State) : State := if scope = 0 then s else l1Invalidate c s

/-! ## Lane memory -/

/-- Resolution of the addresses of a group's lanes. -/
structure Resolved where
  /-- Lane and its place. -/
  at_ : List (Nat × Where)
  s : State

/-- Every lane's address resolved, lanes in ascending order. -/
def resolveLanes (e : Engine) (c : Nat) (acc : Acc) : List (Nat × Nat) → State → Resolved
  | [], s => ⟨[], s⟩
  | (l, va) :: t, s =>
    let (x, s) := whereIs e c va acc s
    let r := resolveLanes e c acc t s
    ⟨(l, x) :: r.at_, r.s⟩

/-- Lines of device memory that places touch, each once, in lane order. -/
def linesTouched : List (Nat × Where) → List Nat
  | [] => []
  | (_, .dev a _) :: t => lineOf a :: (linesTouched t).filter (· ≠ lineOf a)
  | _ :: t => linesTouched t

/-- What a lane's access of a line is for: a load of another die's stack goes through the RLC, whose messages cross the Crown
(R233, R244). -/
def laneUse (s : State) (e : Engine) (load : Bool) (line : Nat) : Use :=
  match placeOf s (line * 256) with
  | .stack k => { crown := load && decide (k ≠ e.die) }
  | _ => {}
/-- Access checks, one per line; the lines that fail, with their status. Accesses through the aperture are not
checked (R83). -/
def checkLines (e : Engine) (load : Bool) (places : List (Nat × Where)) : List Nat → State → List (Nat × Nat) × State
  | [], s => ([], s)
  | l :: t, s =>
    if places.any fun p => match p.2 with | .dev a true => lineOf a = l | _ => false then checkLines e load places t s
    else
      let (st, s) := accessCheck (some e.part) e.die 1 e.ctx (l * 256) (laneUse s e load l) s
      let (r, s) := checkLines e load places t s
      (if st = ST.ok then r else (l, st) :: r, s)

/-- The lanes of a group's access, each with its place in memory; or what stops it: misalignment, the reserved
aperture, a scratchpad under an atomic, faults, an error status, in this order (R82, R83, R85, R102, R275). -/
def laneTargets (c slot : Nat) (g : Group) (acc : Acc) (size : Nat) (addrs : List (Nat × Nat)) (s : State) :
    (List (Nat × Where)) × Option LaneOut × State :=
  let e := engineOf c slot g s
  let exc := fun (cause status : Nat) (bad : List Nat) (s : State) =>
    let va := ((addrs.find? fun x => bad.contains x.1).map (·.2)).getD 0
    (([] : List (Nat × Where)), some (LaneOut.exc { cause, lanes := maskOf bad, status, tval := va } s), s)
  let odd := (addrs.filter fun x => x.2 % size ≠ 0).map (·.1)
  if !odd.isEmpty then exc exMisaligned 0 odd s
  else
    let r := resolveLanes e c acc addrs (readsFor e s)
    let s := r.s
    let reserved := (r.at_.filter fun x => x.2 = .range).map (·.1)
    let inScratch := (r.at_.filter fun x => match x.2 with
      | .dev a _ => (match placeOf s a with | .window _ => true | _ => false)
      | _ => false).map (·.1)
    if !reserved.isEmpty then exc exScratch 0 reserved s
    else if acc.atomic && !inScratch.isEmpty then exc exAtomicScratch 0 inScratch s
    else
      let faults := (addrs.zip r.at_).filterMap fun x => match x.2.2 with | .fault re st => some (x.1.2, re, st) | _ => none
      if !faults.isEmpty then
        ([], some (.stall (faults.foldl (fun s f => openFault e f.1 acc f.2.1 f.2.2 s) s)), s)
      else
        let lost := (r.at_.filter fun x => match x.2 with | .status _ => true | _ => false).map (·.1)
        let (bad, s) := checkLines e (acc.rd && !acc.flag && !acc.atomic) r.at_ (linesTouched r.at_) s
        let refused := fun (x : Nat × Where) => match x.2 with
          | .dev a _ => (bad.find? fun b => b.1 = lineOf a).map (·.2)
          | _ => none
        match r.at_.filterMap fun x => (refused x).map fun st => (x.1, st) with
        | (_, st) :: _ => exc exAccess st ((r.at_.filter fun x => refused x = some st).map (·.1)) s
        | [] =>
          if !lost.isEmpty then exc exAccess ST.dieLost lost s
          else
            let hosts := r.at_.any fun x => match x.2 with | .host _ => true | _ => false
            (r.at_, none, if hosts && !s.host.canIssue && !s.host.hostLost then holdRun s else s)

/-- One line as a lane load reads it. -/
def loadLine (c line : Nat) (s : State) : Got × State :=
  match placeOf s (line * 256) with
  | .stack k => laneLine c k line s
  | _ => lineRead line false s
/-- Lines loaded, each once: line, bytes, poison. -/
def loadLines (c : Nat) : List Nat → State → List (Nat × Got) × State
  | [], s => ([], s)
  | l :: t, s =>
    let (x, s) := loadLine c l s
    let (r, s) := loadLines c t s
    ((l, x) :: r, s)
/-- Bytes of a place, from lines loaded or host memory; a lost host poisons (R357). -/
def placeBytes (ls : List (Nat × Got)) (size : Nat) (s : State) : Where → Got
  | .dev a _ =>
    match ls.find? fun l => l.1 = lineOf a with
    | some (_, g) => ⟨slice g.data (a % 256) size, g.poison⟩
    | none => ⟨[], false⟩
  | .host a => ⟨cellsGet s.hostMem a size, s.host.hostLost⟩
  | _ => ⟨[], false⟩

/-- A poisoned line in some lane: POISON (R299). -/
def poisonExc (addrs : List (Nat × Nat)) (vals : List (Nat × Got)) (s : State) : Option LaneOut :=
  match vals.filter (·.2.poison) with
  | [] => none
  | bad =>
    let lanes := bad.map (·.1)
    some (.exc { cause := exPoison, lanes := maskOf lanes
                 tval := ((addrs.find? fun x => lanes.contains x.1).map (·.2)).getD 0 } s)

/-- What remains where several lanes write one place: any lane's value, whole (R84, log 26). -/
def pickOf {α : Type} [DecidableEq α] (d : α) (l : List α) (s : State) : α × State :=
  match l with
  | [] => (d, s)
  | b :: t =>
    if t.all (· = b) then (b, s)
    else
      let (i, s) := drawBelow l.length s
      ((l[i]?).getD b, s)
/-- Bytes of a group's store, from each lane's address and value: one lane's access whole for each address (R84). -/
def mergeStores : List Nat → List (Nat × List Byte) → State → List (Nat × Byte) × State
  | [], _, s => ([], s)
  | a :: t, all, s =>
    let (v, s) := pickOf [] ((all.filter (·.1 = a)).map (·.2)) s
    let (r, s) := mergeStores t all s
    (atOffsets a v ++ r, s)

/-- A group's store: one write unit per line, the core's own L1 copies updated, and lines of other dies leaving this
die's RLC (R82, R186, R193, R233). -/
def storeLines (c : Nat) (b : List (Nat × Byte)) : List Nat → State → State
  | [], s => s
  | l :: t, s =>
    let unit := (b.filter fun x => lineOf x.1 = l).map fun x => (x.1 % 256, x.2)
    let s := lineWrite l unit false false s
    storeLines c b t (s.setCore c fun k => k.l1Store l unit)

end Sys2Proof.Machine
end

