-- ==== Sys2Proof/Machine/LaneOps.lean ====
section
/-! DEFINITION. The lane instructions and the custom-0 and custom-1 instructions (03): one meaning each. -/

namespace Sys2Proof.Machine

open Sys2Proof

/-! ## Arithmetic, branches, control and status registers -/

/-- An arithmetic instruction in every active lane; an frm that holds no mode is illegal in its lanes (R80). -/
def doAlu (w : Nat) (g : Group) (s : State) : LaneOut :=
  let rs := (lanesOf g.active).map fun l => (l, aluLane g l w)
  match (rs.filter (·.2.illegal)).map (·.1) with
  | [] => .next (rs.foldl (fun g r => g.putRes r.1 w r.2) g).next s
  | bad => .exc { cause := exIllegal, lanes := maskOf bad, tval := w } s
/-- LANE_ALU (R80). -/
def execLaneAlu (c g : Nat) (w : W32) (s : State) : Out :=
  laneCmd [] [] (issue c g (· = .alu) w fun _ x s => doAlu w.toNat x s) s

/-- A branch taken or not by the whole group; a link is written in every active lane (R81). A taken target that is
not 4-byte aligned is misaligned (log 27). -/
def doBranch (w : Nat) (g : Group) (s : State) : LaneOut :=
  let rs := (lanesOf g.active).map fun l => (l, branchLane g l w)
  match rs with
  | [] => .next g.next s
  | (_, t, a) :: rest =>
    if !(rest.all fun r => r.2.1 = t && (!t || r.2.2 = a)) then .exc { cause := exDivergent, lanes := g.active, tval := w } s
    else if t && a % 4 ≠ 0 then .exc { cause := exMisaligned, lanes := g.active, tval := a } s
    else
      let link := wOpcode w = 0x6F || wOpcode w = 0x67
      let h := if link then g.setAll (wRd w) (BitVec.ofNat 64 (g.pc + 4)) else g
      .next (if t then { h with pc := a } else h.next) s
/-- LANE_BRANCH (R81). -/
def execLaneBranch (c g : Nat) (w : W32) (s : State) : Out :=
  laneCmd [] [] (issue c g (· = .branch) w fun _ x s => doBranch w.toNat x s) s

/-- Array-clock cycles since a group was launched: package time since then at the clock of the die's arrays, whose rate
above the contract clock the spec leaves open (R86, log 82). -/
def groupCycles (c : Nat) (g : Group) (s : State) : Nat :=
  (s.time.now - g.launched) * (s.clock + Config.arrayAbove (dieOfCore c)) / 1000

/-- Value of a control and status register in a lane (Table 03-3, RISC-V F); none where it does not exist. -/
def csrRead (c : Nat) (g : Group) (l n : Nat) (s : State) : Option W64 :=
  let fc := (g.fcsrOf l).toNat
  match n with
  | 0x001 => some (BitVec.ofNat 64 (fc % 32))
  | 0x002 => some (BitVec.ofNat 64 (fc / 32))
  | 0x003 => some (BitVec.ofNat 64 fc)
  | 0xC00 => some (BitVec.ofNat 64 (groupCycles c g s))
  | 0xC01 => some (BitVec.ofNat 64 s.time.now)
  | 0xC02 => some (BitVec.ofNat 64 g.instret)
  | 0xCC0 => some (BitVec.ofNat 64 l)
  | 0xCC1 => some (BitVec.ofNat 64 g.xgroup)
  | 0xCC2 => some (BitVec.ofNat 64 c)
  | 0xCC3 => some (BitVec.ofNat 64 g.ctx)
  | 0xCC4 => some (BitVec.ofNat 64 s.beat)
  | 0xCC5 => some (BitVec.ofNat 64 (((s.ctx g.ctx).map (·.winbase)).getD 0))
  | 0x8C0 => some (g.scope.setWidth 64)
  | _ => none

/-- New value that a CSR instruction writes in a lane; none when it does not write. -/
def csrNew (g : Group) (l w : Nat) (old : W64) : Option W64 :=
  let src := if 4 ≤ wF3 w then BitVec.ofNat 64 (wRs1 w) else g.xr l (wRs1 w)
  match wF3 w % 4 with
  | 1 => some src
  | 2 => if wRs1 w = 0 then none else some (old ||| src)
  | _ => if wRs1 w = 0 then none else some (old &&& ~~~src)

/-- A per-lane floating-point register written. -/
def csrPut (g : Group) (l n : Nat) (v : W64) : Group :=
  let fc := (g.fcsrOf l).toNat
  match n with
  | 0x001 => g.setFcsr l (BitVec.ofNat 8 (fc / 32 * 32 + v.toNat % 32))
  | 0x002 => g.setFcsr l (BitVec.ofNat 8 (v.toNat % 8 * 32 + fc % 32))
  | 0x003 => g.setFcsr l (BitVec.ofNat 8 v.toNat)
  | _ => g

/-- A read or write of a control and status register in every active lane (R86); xatomscope is the group's, so lanes
that write different values leave any of them (log 26). -/
def doCsr (c : Nat) (w : Nat) (g : Group) (s : State) : LaneOut :=
  let n := wImm12 w
  let illegal := LaneOut.exc { cause := exIllegal, lanes := g.active, tval := w } s
  let ls := (lanesOf g.active).map fun l => (l, csrRead c g l n s)
  if ls.any (·.2.isNone) then illegal
  else
    let vals := ls.map fun e => (e.1, e.2.getD 0)
    let news := vals.filterMap fun e => (csrNew g e.1 w e.2).map (e.1, ·)
    if n / 0x400 = 3 && !news.isEmpty then illegal
    else
      let h := vals.foldl (fun h e => h.setX e.1 (wRd w) e.2) g
      let h := news.foldl (fun h e => csrPut h e.1 n e.2) h
      if n = 0x8C0 && !news.isEmpty then
        let (b, s) := pickOf 0 (news.map fun e => e.2.setWidth 8) s
        .next { h with scope := b.setWidth 2 }.next s
      else .next h.next s
/-- CSR_ACCESS (R86). -/
def execCsrAccess (c g : Nat) (w : W32) (s : State) : Out :=
  laneCmd [] [] (issue c g (· = .csr) w fun _ x s => doCsr c w.toNat x s) s

/-! ## Loads, stores and atomics -/

/-- Bytes of a load or store. -/
def memSize (w : Nat) : Nat := 2 ^ (wF3 w % 4)
/-- Addresses of the active lanes. -/
def laneAddrs (g : Group) (r : Nat) (off : Int) : List (Nat × Nat) :=
  (lanesOf g.active).map fun l => (l, (g.xr l r + BitVec.ofInt 64 off).toNat)
/-- A loaded value, extended or boxed, in its register. -/
def putLoad (w : Nat) (g : Group) (l : Nat) (n : Nat) : Group :=
  let size := memSize w
  if wOpcode w = 0x07 then g.setF l (wRd w) (if size = 4 then box n else BitVec.ofNat 64 n)
  else g.setX l (wRd w) (if wF3 w < 4 then BitVec.ofInt 64 (signed (8 * size) n) else BitVec.ofNat 64 n)

/-- A group load (R82, R83, R193): one request for each line, POISON for a poisoned line. -/
def doLoad (c slot w : Nat) (g : Group) (s : State) : LaneOut :=
  let addrs := laneAddrs g (wRs1 w) (immI w)
  match laneTargets c slot g { rd := true } (memSize w) addrs s with
  | (_, some o, _) => o
  | (ps, none, s) =>
    let (ls, s) := loadLines c (linesTouched ps) s
    let vals := ps.map fun p => (p.1, placeBytes ls (memSize w) s p.2)
    match poisonExc addrs vals s with
    | some o => o
    | none => .next (vals.foldl (fun g v => putLoad w g v.1 (leNat v.2.data)) g).next s
/-- LANE_LOAD (R82). -/
def execLaneLoad (c g : Nat) (w : W32) (h : HostWrites) (md : Media) (s : State) : Out :=
  laneCmd h md (issue c g (· = .load) w fun _ x s => doLoad c g w.toNat x s) s

/-- Host memory written by lanes, one posted write for each lane; discarded once the host is lost (R357). -/
def hostStores (b : List (Nat × List Byte)) (s : State) : State :=
  b.foldl (fun s e => hostReq (.write e.1 e.2 false false) s) s
/-- A group store (R82, R185, R186): one unit for each line. -/
def doStore (c slot w : Nat) (g : Group) (s : State) : LaneOut :=
  let addrs := laneAddrs g (wRs1 w) (immS w)
  match laneTargets c slot g { wr := true } (memSize w) addrs s with
  | (_, some o, _) => o
  | (ps, none, s) =>
    let val := fun (l : Nat) => leBytes (memSize w) (if wOpcode w = 0x27 then g.fr l (wRs2 w) else g.xr l (wRs2 w)).toNat
    let units := ps.filterMap fun p => match p.2 with | .dev a _ => some (a, val p.1) | _ => none
    let firsts := units.foldr (fun b acc => if acc.contains b.1 then acc else b.1 :: acc) []
    let (merged, s) := mergeStores firsts units s
    let hosts := ps.filterMap fun p => match p.2 with | .host a => some (a, val p.1) | _ => none
    .next g.next (hostStores hosts (storeLines c merged (linesTouched ps) s))
/-- LANE_STORE (R82). -/
def execLaneStore (c g : Nat) (w : W32) (h : HostWrites) (md : Media) (s : State) : Out :=
  laneCmd h md (issue c g (· = .store) w fun _ x s => doStore c g w.toNat x s) s

/-- A release waits for the group's engine instructions (R94, R95). -/
def mustFence (c slot : Nat) (s : State) : Bool := (s.core c).queued slot

/-- Operations of an AMO, one for each address, its lanes in ascending order (R189, R190): old values by lane, and
whether the line was poisoned. -/
def amoGroup (f5 size : Nat) (vals : List (Nat × Nat × W64)) : List Nat → State → List (Nat × Nat × Bool) × State
  | [], s => ([], s)
  | a :: t, s =>
    let mine := vals.filter fun v => v.2.1 = a
    let (olds, p, s) := homeAtomic (lineOf a) f5 size (mine.map fun v => (a % 256 / size, v.2.2)) s
    let (r, s) := amoGroup f5 size vals t s
    (((mine.map (·.1)).zip olds).map (fun e => (e.1, e.2, p)) ++ r, s)
/-- A lane AMO (R85, R188 to R191): performed at the home even where its poisoned value raises POISON (R102). -/
def doAmo (c slot w : Nat) (g : Group) (s : State) : LaneOut :=
  let rl := fld w 25 1 = 1
  let aq := fld w 26 1 = 1
  if rl && mustFence c slot s then .next { g with wait := .fence } s
  else
    let size := memSize w
    let addrs := laneAddrs g (wRs1 w) 0
    match laneTargets c slot g { atomic := true } size addrs s with
    | (_, some o, _) => o
    | (ps, none, s) =>
      let vals := ps.filterMap fun p => match p.2 with | .dev a _ => some (p.1, a, g.xr p.1 (wRs2 w)) | _ => none
      let firsts := vals.foldr (fun v acc => v.2.1 :: acc.filter (· ≠ v.2.1)) []
      let (olds, s) := amoGroup (wF7 w / 4) size vals firsts (l1Leave c (linesTouched ps) s)
      match poisonExc addrs (olds.map fun o => (o.1, ⟨[], o.2.2⟩)) s with
      | some o => o
      | none =>
        let g := olds.foldl (fun g o => g.setX o.1 (wRd w) (BitVec.ofInt 64 (signed (8 * size) o.2.1))) g
        .next g.next (if aq then acquireAt c (scopeIn g g.scope.toNat s) s else s)
/-- LANE_AMO (R189). -/
def execLaneAmo (c g : Nat) (w : W32) (h : HostWrites) (md : Media) (s : State) : Out :=
  laneCmd h md (issue c g (· = .amo) w fun _ x s => doAmo c g w.toNat x s) s

/-! ## The mask stack (R90) -/

/-- MSK_PUSH. -/
def doMskPush (w : Nat) (g : Group) (s : State) : LaneOut :=
  let cnd := g.ballot (wRs1 w)
  let e := mskTarget g.pc w
  if g.stack.length = 32 then .exc { cause := exMaskOver, lanes := g.active, tval := w } s
  else if cnd ≠ 0 then
    .next { g with stack := ⟨false, e, g.active, g.active &&& ~~~cnd⟩ :: g.stack, active := cnd }.next s
  else .next { g with stack := ⟨false, e, g.active, 0⟩ :: g.stack, pc := e } s
def execMskPush (c g : Nat) (w : W32) (s : State) : Out :=
  laneCmd [] [] (issue c g (· = .mskPush) w fun _ x s => doMskPush w.toNat x s) s

/-- MSK_ELSE. -/
def doMskElse (w : Nat) (g : Group) (s : State) : LaneOut :=
  match g.stack with
  | [] => .exc { cause := exMaskUnder, lanes := g.active, tval := w } s
  | t :: rest =>
    if t.loop then .exc { cause := exMaskKind, lanes := g.active, tval := w } s
    else if t.other ≠ 0 then .next { g with active := t.other, stack := { t with other := 0 } :: rest }.next s
    else .next { g with pc := mskTarget g.pc w } s
def execMskElse (c g : Nat) (w : W32) (s : State) : Out :=
  laneCmd [] [] (issue c g (· = .mskElse) w fun _ x s => doMskElse w.toNat x s) s

/-- MSK_LOOP. -/
def doMskLoop (w : Nat) (g : Group) (s : State) : LaneOut :=
  if g.stack.length = 32 then .exc { cause := exMaskOver, lanes := g.active, tval := w } s
  else .next { g with stack := ⟨true, mskTarget g.pc w, g.active, 0⟩ :: g.stack }.next s
def execMskLoop (c g : Nat) (w : W32) (s : State) : Out :=
  laneCmd [] [] (issue c g (· = .mskLoop) w fun _ x s => doMskLoop w.toNat x s) s

/-- MSK_BRK. -/
def doMskBrk (w : Nat) (g : Group) (s : State) : LaneOut :=
  match g.stack with
  | [] => .exc { cause := exMaskUnder, lanes := g.active, tval := w } s
  | t :: rest =>
    if !t.loop then .exc { cause := exMaskKind, lanes := g.active, tval := w } s
    else
      let cnd := g.ballot (wRs1 w)
      let other := t.other ||| cnd
      let left := g.active &&& ~~~cnd
      let h := { g with stack := { t with other } :: rest }
      if left = 0 then .next { h with active := other, pc := t.addr } s else .next { h with active := left }.next s
def execMskBrk (c g : Nat) (w : W32) (s : State) : Out :=
  laneCmd [] [] (issue c g (· = .mskBrk) w fun _ x s => doMskBrk w.toNat x s) s

/-- MSK_POP. -/
def doMskPop (w : Nat) (g : Group) (s : State) : LaneOut :=
  match g.stack with
  | [] => .exc { cause := exMaskUnder, lanes := g.active, tval := w } s
  | t :: rest => .next { g with active := t.outer, stack := rest }.next s
def execMskPop (c g : Nat) (w : W32) (s : State) : Out :=
  laneCmd [] [] (issue c g (· = .mskPop) w fun _ x s => doMskPop w.toNat x s) s

/-- MSK_BAL (R89). -/
def execMskBal (c g : Nat) (w : W32) (s : State) : Out :=
  laneCmd [] [] (issue c g (· = .mskBal) w fun _ x s =>
    .next (x.setAll (wRd w.toNat) ((x.ballot (wRs1 w.toNat)).setWidth 64)).next s) s
/-- MSK_ANY (R89). -/
def execMskAny (c g : Nat) (w : W32) (s : State) : Out :=
  laneCmd [] [] (issue c g (· = .mskAny) w fun _ x s =>
    .next (x.setAll (wRd w.toNat) (if x.ballot (wRs1 w.toNat) ≠ 0 then 1 else 0)).next s) s
/-- MSK_ALL (R89). -/
def execMskAll (c g : Nat) (w : W32) (s : State) : Out :=
  laneCmd [] [] (issue c g (· = .mskAll) w fun _ x s =>
    .next (x.setAll (wRd w.toNat) (if x.ballot (wRs1 w.toNat) = x.active then 1 else 0)).next s) s

/-! ## Barriers (R97 to R99) -/

/-- Groups that the slice of a group launched on the cores of a range, from its cost record (R100). -/
def launchedOn (g : Group) (cores : List Nat) (s : State) : Nat :=
  match (s.item g.ctx g.seq).bind fun i => i.costs[g.slice]? with
  | some k => ((cores.filter fun c => k.regions.getLsbD (regionOfCore c) && k.cores.getLsbD (c % 16)).length) * k.slots
  | none => 0

/-- A group passes the barrier at which it waited: it goes on, and acquires at the barrier's scope. -/
def passBarrier (e : Nat × Nat) (s : State) : State :=
  match s.group e.1 e.2 with
  | none => s
  | some g => stepEnds e.1 e.2 false (l1Invalidate e.1 (putGroup e.1 e.2 { g with wait := .none }.next s))

/-- Arrival at a barrier: key among those of its kind, greatest count, cores that share it. -/
def doBarrier (die : Bool) (c slot w : Nat) (g : Group) (s : State) : LaneOut :=
  let id := wImm12 w % 8
  let unit := if die then c / 64 else c / 4
  let size := if die then 64 else 4
  let key := unit * 8 + id
  let n := (g.ux (wRs1 w)).toNat
  let exc := fun (cause : Nat) => LaneOut.exc { cause, lanes := g.active, tval := w } s
  let put := fun (b : Option Barrier) (s : State) =>
    if die then { s with barDie := match b with | some x => put s.barDie key x | none => del s.barDie key }
    else { s with barCl := match b with | some x => put s.barCl key x | none => del s.barCl key }
  let arrive := fun (ws : List (Nat × Nat)) =>
    if ws.length + 1 = n then
      .next { g with wait := .none }.next (l1Invalidate c (ws.foldl (fun s e => passBarrier e s) (put none s)))
    else .next { g with wait := .barrier die key } (put (some { count := n, ctx := g.ctx, waiting := ws ++ [(c, slot)] }) s)
  match look (if die then s.barDie else s.barCl) key with
  | some b => if b.count ≠ n || b.ctx ≠ g.ctx then exc exBarMismatch else if mustFence c slot s then .next { g with wait := .fence } s else arrive b.waiting
  | none =>
    let cores := (List.range size).map (unit * size + ·)
    if n = 0 || (if die then 1024 else 64) < n || launchedOn g cores s < n then exc exBarCount
    else if mustFence c slot s then .next { g with wait := .fence } s else arrive []
/-- BAR_CL (R97). -/
def execBarCl (c g : Nat) (w : W32) (s : State) : Out :=
  laneCmd [] [] (issue c g (· = .barCl) w fun _ x s => doBarrier false c g w.toNat x s) s
/-- BAR_DIE (R97). -/
def execBarDie (c g : Nat) (w : W32) (s : State) : Out :=
  laneCmd [] [] (issue c g (· = .barDie) w fun _ x s => doBarrier true c g w.toNat x s) s

/-! ## DBG.BRK, XW.GADDR, GRP.END -/

/-- DBG_BRK and EBREAK (R80, R109): the region halts when debug mode is on. -/
def doDbgBrk (c : Nat) (g : Group) (s : State) : LaneOut :=
  let on := ((s.partOfBrim (dieOfCore c)).bind s.part).any (·.debug)
  .next g.next (if on then haltRegion (regionOfCore c) 2 s else s)
def execDbgBrk (c g : Nat) (w : W32) (s : State) : Out :=
  laneCmd [] [] (issue c g (· = .dbgBrk) w fun _ x s => doDbgBrk c x s) s

/-- XW_GADDR (R89). -/
def doXwGaddr (w : Nat) (g : Group) (s : State) : LaneOut :=
  let base := ((s.ctx g.ctx).map (·.winbase)).getD 0
  .next (g.setAll (wRd w) (BitVec.ofNat 64 (base + (g.ux (wRs2 w)).toNat * 2 ^ 20 + (g.ux (wRs1 w)).toNat % 2 ^ 20))).next s
def execXwGaddr (c g : Nat) (w : W32) (s : State) : Out :=
  laneCmd [] [] (issue c g (· = .xwGaddr) w fun _ x s => doXwGaddr w.toNat x s) s

/-- Groups of a slice that still run. -/
def sliceGroups (s : State) (ctx seq slice : Nat) : Bool :=
  s.cores.any fun e => e.2.groups.any fun g => g.2.ctx = ctx && g.2.seq = seq && g.2.slice = slice

/-- A slice whose groups are gone gives back the matrix state of the cores that it held (R116). -/
def releaseMx (ctx seq slice : Nat) (s : State) : State :=
  let me := (ctx, seq, slice)
  { s with cores := s.cores.filterMap fun e =>
      let k := e.2
      let k := if k.mx.holder = some me then { k with mx := {} } else k
      let k := { k with spilled := k.spilled.filter fun m => m.holder ≠ some me }
      if k = {} then none else some (e.1, k) }

/-- A slice has finished: the next slice is due, or the item, with every member of a merged slice, ends (R101, R127,
R196). -/
def sliceDone (ctx seq : Nat) (s : State) : State :=
  match s.item ctx seq with
  | none => s
  | some i =>
    if i.phase ≠ 2 then s
    else if !i.merged.isEmpty then
      i.merged.foldl (fun s m =>
        match s.item m.1 m.2 with
        | some j =>
          if !j.cancelled && j.slice + 1 < j.slices then
            s.setItem m.1 m.2 fun j => { j with slice := j.slice + 1, running := false, member := false, merged := [] }
          else endItem m.1 m.2 (if j.cancelled then j.status else 0) s
        | none => s) s
    else if i.slice + 1 < i.slices then s.setItem ctx seq fun i => { i with slice := i.slice + 1, running := false }
    else endItem ctx seq i.status s

/-- GRP_END (R101): the slot is free; the last group of a slice finishes it. -/
def doGrpEnd (c slot w : Nat) (g : Group) (s : State) : LaneOut :=
  if !g.stack.isEmpty then .exc { cause := exMaskKind, lanes := g.active, tval := w } s
  else if mustFence c slot s then .next { g with wait := .fence } s
  else
    let s := s.setCore c fun k => { k with groups := del k.groups slot }
    if sliceGroups s g.ctx g.seq g.slice then .ended s
    else .ended (finishDestroys (sliceDone g.ctx g.seq (releaseMx g.ctx g.seq g.slice s)))
def execGrpEnd (c g : Nat) (w : W32) (s : State) : Out :=
  laneCmd [] [] (issue c g (· = .grpEnd) w fun _ x s => doGrpEnd c g w.toNat x s) s

/-! ## Flags, semaphores and the fence (R95, R96) -/

/-- The one place of a group-uniform access, or what stops it: every active lane is named. -/
def flagTarget (c slot : Nat) (g : Group) (acc : Acc) (va : Nat) (s : State) : Where × Option LaneOut × State :=
  match laneTargets c slot g acc 8 [(g.lead, va)] s with
  | (_, some (.exc e t), s) => (.range, some (.exc { e with lanes := g.active } t), s)
  | (_, some o, s) => (.range, some o, s)
  | ((_, p) :: _, none, s) => (p, none, s)
  | ([], none, s) => (.range, none, s)
/-- A poisoned flag or semaphore (Table 12-4). -/
def flagPoison (g : Group) (va : Nat) (s : State) : LaneOut := .exc { cause := exPoison, lanes := g.active, tval := va } s

/-- FLG_REL (R95): earlier writes first, then the value. -/
def doFlgRel (c slot w : Nat) (g : Group) (s : State) : LaneOut :=
  if mustFence c slot s then .next { g with wait := .fence } s
  else
    match flagTarget c slot g { wr := true, flag := true } (g.ux (wRs1 w)).toNat s with
    | (_, some o, _) => o
    | (.dev a _, none, s) =>
      let unit := atOffsets (a % 256) (leBytes 8 (g.ux (wRs2 w)).toNat)
      let s := lineWrite (lineOf a) unit false false s
      .next g.next (s.setCore c fun k => k.l1Store (lineOf a) unit)
    | (_, none, s) => .next g.next s
def execFlgRel (c g : Nat) (w : W32) (h : HostWrites) (md : Media) (s : State) : Out :=
  laneCmd h md (issue c g (· = .flgRel) w fun _ x s => doFlgRel c g w.toNat x s) s

/-- The flag that FLG.ACQ waits for, read at its home or bank: met, with rd written and the acquire done; poisoned; or
not met, with a watch at the home (R95, R180, R257). -/
def tryFlag (c slot va : Nat) (v : W64) (ge : Bool) (rd scope : Nat) (g : Group) (s : State) : LaneOut :=
  match flagTarget c slot g { rd := true, flag := true } va s with
  | (_, some o, _) => o
  | (.dev a _, none, s) =>
    let (x, s) := lineRead (lineOf a) false (l1Leave c [lineOf a] s)
    let n := BitVec.ofNat 64 (leAt x.data (a % 256) 8)
    if x.poison then flagPoison g va s
    else if (if ge then decide (v.toNat ≤ n.toNat) else decide (n = v)) then
      .next ({ g with wait := .none }.setAll rd n).next (acquireAt c (scopeIn g scope s) s)
    else
      let s := match placeOf s a with | .stack _ => watchLine (lineOf a) c s | _ => s
      .next { g with wait := .flag va v ge rd scope } s
  | (_, none, s) => .next g s
def execFlgAcqEq (c g : Nat) (w : W32) (h : HostWrites) (md : Media) (s : State) : Out :=
  laneCmd h md (issue c g (· = .flgAcqEq) w fun _ x s =>
    tryFlag c g (x.ux (wRs1 w.toNat)).toNat (x.ux (wRs2 w.toNat)) false (wRd w.toNat) (wF7 w.toNat) x s) s
def execFlgAcqGe (c g : Nat) (w : W32) (h : HostWrites) (md : Media) (s : State) : Out :=
  laneCmd h md (issue c g (· = .flgAcqGe) w fun _ x s =>
    tryFlag c g (x.ux (wRs1 w.toNat)).toNat (x.ux (wRs2 w.toNat)) true (wRd w.toNat) (wF7 w.toNat) x s) s

/-- SEM_REL (R95): released, then added at the home. -/
def doSemRel (c slot w : Nat) (g : Group) (s : State) : LaneOut :=
  let va := (g.ux (wRs1 w)).toNat
  if mustFence c slot s then .next { g with wait := .fence } s
  else
    match flagTarget c slot g { atomic := true } va s with
    | (_, some o, _) => o
    | (.dev a _, none, s) =>
      let (_, p, s) := homeAtomic (lineOf a) 0x1E 8 [(a % 256 / 8, g.ux (wRs2 w))] (l1Leave c [lineOf a] s)
      if p then flagPoison g va s else .next g.next s
    | (_, none, s) => .next g.next s
def execSemRel (c g : Nat) (w : W32) (h : HostWrites) (md : Media) (s : State) : Out :=
  laneCmd h md (issue c g (· = .semRel) w fun _ x s => doSemRel c g w.toNat x s) s

/-- The semaphore that SEM.ACQ waits for (R95, R187, R257). -/
def trySem (c slot va : Nat) (v : W64) (rd scope : Nat) (g : Group) (s : State) : LaneOut :=
  match flagTarget c slot g { atomic := true } va s with
  | (_, some o, _) => o
  | (.dev a _, none, s) =>
    let (olds, p, s) := homeAtomic (lineOf a) 0x1F 8 [(a % 256 / 8, v)] (l1Leave c [lineOf a] s)
    let old := olds.headD 0
    if p then flagPoison g va s
    else if v.toNat ≤ old then
      .next ({ g with wait := .none }.setAll rd (BitVec.ofNat 64 old)).next (acquireAt c (scopeIn g scope s) s)
    else .next { g with wait := .sem va v rd scope } (watchLine (lineOf a) c s)
  | (_, none, s) => .next g s
def execSemAcq (c g : Nat) (w : W32) (h : HostWrites) (md : Media) (s : State) : Out :=
  laneCmd h md (issue c g (· = .semAcq) w fun _ x s =>
    trySem c g (x.ux (wRs1 w.toNat)).toNat (x.ux (wRs2 w.toNat)) (wRd w.toNat) (wF7 w.toNat) x s) s

/-- FENCE_X, and the RISC-V FENCE at package scope (R80, R95). -/
def doFence (c slot w : Nat) (g : Group) (s : State) : LaneOut :=
  if mustFence c slot s then .next { g with wait := .fence } s
  else .next g.next (acquireAt c (scopeIn g (if wOpcode w = 0x0F then 3 else wF7 w) s) s)
def execFenceX (c g : Nat) (w : W32) (s : State) : Out :=
  laneCmd [] [] (issue c g (· = .fenceX) w fun _ x s => doFence c g w.toNat x s) s

/-- A waiting group's core reads its flag or semaphore again (R96). -/
def reread (c slot : Nat) (s : State) : State :=
  match s.group c slot with
  | none => s
  | some g =>
    if !(s.alive && s.groupLive g && s.regionState (regionOfCore c) = 0 && runnable s c slot) then s
    else
      let settleIt := fun (o : LaneOut) =>
        match o with
        | .next g' t =>
          let t := putGroup c slot g' t
          if g'.wait = .none then stepEnds c slot false t else t
        | .exc e t => stepEnds c slot false (raiseExc c slot g e 0 g.pc t)
        | .stall t => t
        | _ => s
      match g.wait with
      | .flag va v ge rd scope => settleIt (tryFlag c slot va v ge rd scope g s)
      | .sem va v rd scope => settleIt (trySem c slot va v rd scope g s)
      | _ => s
/-- FLAG_REREAD (R96). -/
def execFlagReread (c g : Nat) (md : Media) (s : State) : Out := done s (runWith md (reread c g) s)

/-- WAKE (R257): the core reads again every flag that its groups wait for on the line. -/
def execWake (c line : Nat) (s : State) : Out :=
  done s (if s.coh.net.any fun m => m.op = 0x35 && m.tag = c && m.line = line then
    let s' : State := { s with coh := { s.coh with net := dropFirst (fun m => m.op = 0x35 && m.tag = c && m.line = line) s.coh.net } }
    let t := runWith [] (fun s => (List.range 16).foldl (fun s g => reread c g s) s) s'
    t
  else s)

/-! ## The forward-progress watchdog (R104) -/

/-- Groups of the same slice's context whose count has reached its limit, by core and slot. -/
def stalledGroups (s : State) (ctx limit : Nat) : List (Nat × Nat × Group) :=
  s.cores.flatMap fun e => (e.2.groups.filter fun g => g.2.ctx = ctx && decide (limit ≤ g.2.wdCount)).map fun g => (e.1, g.1, g.2)
/-- GROUP_STALL (R103, R104): groups that reach the limit at one boundary raise together, the lowest described. -/
def execGroupStall (c g : Nat) (s : State) : Out :=
  done s (match s.group c g with
    | none => s
    | some x =>
      let limit := ((s.ctx x.ctx).map (·.watchdog)).getD 0
      if !s.alive || limit = 0 || x.wdCount < limit || !s.groupLive x then s
      else
        let all := stalledGroups s x.ctx limit
        match all with
        | [] => s
        | (k, j, y) :: rest => raiseExc k j y { cause := exStall, lanes := y.active, tval := y.wdCount } rest.length y.pc s)

end Sys2Proof.Machine
end

