-- ==== Sys2Proof/Machine/Access.lean ====
section
/-! DEFINITION. Accesses of the engines that work on ranges of virtual addresses (R82, R275, R372, R373): every line
translates afresh, then passes the access checks, before any byte moves. -/

namespace Sys2Proof.Machine

open Sys2Proof

/-- Pieces of a range, one for each line of 256 bytes: address and length. -/
def linePieces (va n : Nat) : List (Nat × Nat) :=
  if n = 0 then []
  else
    let first := va / 256
    (List.range ((va + n - 1) / 256 - first + 1)).map fun i =>
      let lo := Nat.max va ((first + i) * 256)
      (lo, Nat.min (va + n) ((first + i + 1) * 256) - lo)

/-- Lines of 256 bytes that a range touches. -/
def linesOf (a n : Nat) : List Nat := if n = 0 then [] else (List.range ((a + n - 1) / 256 - a / 256 + 1)).map (a / 256 + ·)
/-- Where the pieces of an access lead, the faults it met, and the first error status with its address. -/
structure Reach where
  at_ : List (Where × Nat) := []
  faults : List (Nat × Acc × Nat × Nat) := []
  bad : Option (Nat × Nat) := none
  deriving DecidableEq, Repr

/-- What an engine's accesses are for: the Nose and the copy engines reach the reserve tier (R220). -/
def Engine.use (e : Engine) : Use :=
  { tier := if e.code = 6 then .nose else if e.code = 3 || e.code = 4 then .copy else .none, crown := e.crown }
/-- One piece: translated, then checked. -/
def reachPiece (e : Engine) (acc : Acc) (p : Nat × Nat) (r : Reach) (s : State) : Reach × State :=
  match translate e p.1 acc s with
  | (.dev a, s) =>
    let (st, s) := accessCheck (some e.part) e.die e.code e.ctx a e.use s
    if st = ST.ok then ({ r with at_ := r.at_ ++ [(.dev a false, p.2)] }, s)
    else ({ r with bad := r.bad <|> some (st, p.1) }, s)
  | (.host a, s) =>
    ({ r with at_ := r.at_ ++ [(.host a, p.2)] }, if s.host.canIssue || s.host.hostLost then s else holdRun s)
  | (.status st, s) => ({ r with bad := r.bad <|> some (st, p.1) }, s)
  | (.fault re st, s) => ({ r with faults := r.faults ++ [(p.1, acc, re, st)] }, s)
/-- A range of an engine. -/
def reachRange (e : Engine) (acc : Acc) (va n : Nat) (r : Reach) (s : State) : Reach × State :=
  (linePieces va n).foldl (fun x p => reachPiece e acc p x.1 x.2) (r, s)
/-- An engine stalls at its first faulting line (Table 11-4): the fault opens or joins its record. -/
def openFaults (e : Engine) (r : Reach) (s : State) : State :=
  match r.faults with
  | f :: _ => openFault e f.1 f.2.1 f.2.2.1 f.2.2.2 s
  | [] => s

/-- Bytes of a place; a lost host gives poison (R357). -/
def placeRead (streaming : Bool) (p : Where × Nat) (s : State) : Got × State :=
  match p.1 with
  | .dev a _ => bytesRead a p.2 streaming s
  | .host a => (⟨cellsGet s.hostMem a p.2, s.host.hostLost⟩, s)
  | _ => (⟨[], false⟩, s)
/-- Bytes of an access, and whether a line was poisoned. -/
def reachRead (streaming : Bool) (l : List (Where × Nat)) (s : State) : Got × State :=
  l.foldl (fun (x : Got × State) p =>
    let (g, s) := placeRead streaming p x.2
    (⟨x.1.data ++ g.data, x.1.poison || g.poison⟩, s)) (⟨[], false⟩, s)
/-- Bytes written at a place; host writes carry EP for a poisoned line. -/
def placeWrite (streaming : Bool) (p : Where) (data : List Byte) (poison : Bool) (s : State) : State :=
  match p with
  | .dev a _ => bytesWrite a data poison streaming s
  | .host a => hostReq (.write a data poison false) s
  | _ => s
/-- Bytes written along an access. -/
def reachWrite (streaming : Bool) (data : List Byte) (poison : Bool) : List (Where × Nat) → State → State
  | [], s => s
  | p :: t, s => reachWrite streaming (data.drop p.2) poison t (placeWrite streaming p.1 (data.take p.2) poison s)

/-! ## An engine's own scratchpad (R119, R156) -/

/-- Bytes that an engine has written and the lines they stand in: offset in the line and byte, newest last; poison. -/
abbrev Over := Tab (List (Nat × Byte) × Bool)
/-- Bytes of an output, line by line. -/
def overPut (o : Over) (a : Nat) (data : List Byte) (poison : Bool) : Over :=
  (linePieces a data.length).foldl (fun o p =>
    let (old, q) := lookD o (p.1 / 256) ([], false)
    put o (p.1 / 256) (old ++ atOffsets (p.1 % 256) (slice data (p.1 - a) p.2), q || poison)) o
/-- A byte under what an engine has written: as written last, else as its line holds it. -/
def overByte (s : State) (o : Over) (a : Nat) : Byte :=
  match (lookD o (a / 256) ([], false)).1.reverse.find? fun b => b.1 = a % 256 with
  | some b => b.2
  | none => ((lineBytes s (a / 256))[a % 256]?).getD 0
/-- Output lines written, one unit each (R186); a line written whole and clean is clean (R214, R293). -/
def overWrite (o : Over) (s : State) : State := o.foldl (fun s e => lineWrite e.1 e.2.1 e.2.2 false s) s
/-- A line of a scratchpad as an engine reads it, verified as it enters the datapath (R293), under what the engine has
written. -/
def engineLine (point c ctx line : Nat) (o : Over) (s : State) : Got × State :=
  let (m, s) := takeMedium line s
  let s := verifyFor 2 ctx line point (0x8000 + c) (match m with | .flipped x => flipStored line x s | _ => s)
  let (g, s) := passLine line (0x8000 + c) 0 [(point, 2)] ⟨lineBytes s line, s.poisoned line⟩ { s with run := { s.run with who := ctx } }
  let (w, q) := lookD o line ([], false)
  (⟨w.foldl (fun d b => d.set b.1 b.2) g.data, q || (g.poison && !coversLine w)⟩, s)
/-- Bytes at an offset of a core's own scratchpad. -/
def engineRead (point c ctx off n : Nat) (o : Over) (s : State) : Got × State :=
  (linePieces (windowBase c + off) n).foldl (fun (x : Got × State) p =>
    let (g, s) := engineLine point c ctx (p.1 / 256) o x.2
    (⟨x.1.data ++ slice g.data (p.1 % 256) p.2, x.1.poison || g.poison⟩, s)) (⟨[], false⟩, s)

/-! ## Engine faults (R124) -/

/-- The engine detail record (Table 04-8). -/
def detailRecord (engine code status insn : Nat) (where_ : Nat) : List Byte :=
  leBytes 1 engine ++ leBytes 1 code ++ leBytes 2 status ++ leBytes 4 insn ++ leBytes 8 where_
/-- ENGINE_FAULT of an instruction in a queue. -/
def engineFault (c engine code where_ : Nat) (o : EngOp) (s : State) : State :=
  raiseIn c o.slot o.ctx o.seq o.depth
    { cause := exEngine, lanes := o.lanes, detail := detailRecord engine code 0 o.w.toNat where_ } 0 o.pc s

/-- Outcome of an engine instruction: the state, or a detail code and where (none: a value the spec leaves open). -/
inductive EngRes where
  | ok (s : State)
  | fault (code : Nat) (where_ : Option Nat)

/-! ## Slices that the accord places on a core -/

/-- The instruction belongs to a placed slice. -/
def EngOp.of (o : EngOp) (p : Placed) : Bool := o.ctx = p.ctx && o.seq = p.seq && o.slice = p.slice
/-- The seed and the E4M3 overflow mode of a context (R146, R155). -/
def nonsatOf (s : State) (ctx : Nat) : Bool := (s.ctx ctx).any (·.nonsat)
def seedOf (s : State) (ctx : Nat) : W64 := ((s.ctx ctx).map (·.seed)).getD 0

/-- An instruction enters an engine's queue with its operands as read at issue (R93). -/
def enqueue (vec wait : Bool) (c slot w : Nat) (g : Group) (s : State) : LaneOut :=
  let k := s.core c
  if (if vec then 8 else 4) ≤ (if vec then k.vxq else k.mxq).length then .idle
  else
    let o : EngOp := { slot, w := BitVec.ofNat 32 w, pc := g.pc, a := g.ux (wRs1 w), b := g.ux (wRs2 w), ctx := g.ctx
                       seq := g.seq, slice := g.slice, lanes := g.active, depth := g.stack.length
                       stepped := steppingSlot c slot s }
    let s := s.setCore c fun k => if vec then { k with vxq := k.vxq ++ [o] } else { k with mxq := k.mxq ++ [o] }
    .next { g.next with wait := if wait then .engine vec else .none } s

end Sys2Proof.Machine
end

