-- ==== Sys2Proof/Machine/Formats.lean ====
section
/-! DEFINITION. The engines' numbers (05): conversion (R143 to R145), stochastic rounding (R154), the scale tracker
(R153), comparison (R147), packed elements (R113, R159), and the operations with a bound (R150). -/

namespace Sys2Proof.Machine

open Sys2Proof

/-- Format of a code of Table 04-6, but for INT8 (5). -/
def fmtOf (code : Nat) : Fmt :=
  match code with
  | 0 => fmtE4M3
  | 1 => fmtE5M2
  | 2 => fmtE3M2
  | 3 => fmtE2M3
  | 4 => fmtE2M1
  | 6 => fmtBf16
  | 7 => fmtF16
  | 9 => fmtF64
  | _ => fmtF32
/-- Bits of an element. -/
def fmtBits (code : Nat) : Nat :=
  match code with
  | 0 => 8
  | 1 => 8
  | 2 => 6
  | 3 => 6
  | 4 => 4
  | 5 => 8
  | 6 => 16
  | 7 => 16
  | 9 => 64
  | _ => 32
/-- The value of an element (R135). -/
def readElem (code n : Nat) : Fv := if code = 5 then fvInt (signed 8 n) else (fmtOf code).read n

/-- −∞ of an output format (R120). -/
def negInf (code : Nat) : Nat := (fmtOf code).sign true + (fmtOf code).top

/-- |m × 2^e| against an integer threshold times 2^k: strictly above, or equal. -/
def magCmp (m : Nat) (e : Int) (t : Nat) (k : Int) : Int := fvCmp (.fin false m e) (.fin false t k)

/-- A conversion rounded to nearest, with Table 05-3 and the normalisation of R143; `nonsat` is the context's E4M3
overflow mode (R146). -/
def convertTo (code : Nat) (nonsat : Bool) (v : Fv) : Nat :=
  let f := fmtOf code
  if code = 5 then
    match v with
    | .nan _ => 0
    | .inf n => if n then 0x80 else 0x7F
    | .fin n m e =>
      let q := signedMag n (roundAt 0 n m e 0 false).1
      if 127 < q then 0x7F else if q < -128 then 0x80 else (q % 256).toNat
  else
    match v with
    | .nan _ => if f.special = 0 then 0 else f.nanBits
    | .inf n =>
      if f.special = 2 then f.sign n + f.top
      else if f.special = 1 then (if nonsat then f.nanBits else f.sign n + (f.top - 1)) else f.sign n + (f.top - 1)
    | .fin n m e =>
      if f.special = 1 && decide (magCmp m e (if nonsat then 464 else 448) 0 = 1) then
        (if nonsat then f.nanBits else f.sign n + (f.top - 1))
      else
        let b := (f.round 0 n m e false).1
        let b := if f.special ≠ 2 && decide (f.top ≤ b) then f.top - 1 else b
        if b = 0 then 0 else f.sign n + b

/-! ## Stochastic rounding (R154, R155) -/

def mix64 (z : W64) : W64 :=
  let z := (z ^^^ (z >>> 30)) * 0xBF58476D1CE4E5B9#64
  let z := (z ^^^ (z >>> 27)) * 0x94D049BB133111EB#64
  z ^^^ (z >>> 31)
/-- The 32-bit draw of an element. -/
def srDraw (seed key : W64) (i : Nat) : Nat :=
  (mix64 (seed + (key + BitVec.ofNat 64 i + 1) * 0x9E3779B97F4A7C15#64)).toNat / 2 ^ 32

/-- sr_convert of R154; the neighbours are the value cut off and the next magnitude. -/
def srConvert (code : Nat) (nonsat : Bool) (seed key : W64) (i : Nat) (v : Fv) : Nat :=
  match v with
  | .fin n m e =>
    let f := fmtOf code
    let lo := (f.round 1 n m e false).1
    let above := f.special = 1 && decide (magCmp m e (if nonsat then 464 else 448) 0 = 1)
    if m = 0 then 0
    else if above || f.top - 1 ≤ lo then convertTo code nonsat v
    else
      match f.read lo, f.read (lo + 1) with
      | .fin _ ml el, .fin _ mh eh =>
        let b := min e (min el eh)
        let a := m * 2 ^ (e - b).toNat
        let l := ml * 2 ^ (el - b).toNat
        let h := mh * 2 ^ (eh - b).toNat
        let t := (a - l) * 2 ^ 32 / (h - l)
        let r := if srDraw seed key i < t then lo + 1 else lo
        if r = 0 then 0 else f.sign n + r
      | _, _ => convertTo code nonsat v
  | v => convertTo code nonsat v

/-! ## The scale tracker (R153) -/

/-- The tracker after a tracked value; a binary64 value is first rounded up to binary32. -/
def trackVal (t : Nat) (v : Fv) : Nat :=
  match fmtF32.read t, v with
  | .nan _, _ => 0x7FC00000
  | _, .nan _ => 0x7FC00000
  | _, .inf _ => Nat.max t 0x7F800000
  | _, .fin _ m e => Nat.max t (fmtF32.round 3 false m e false).1

/-! ## Vector comparison (R147) -/

/-- EQ 0, NE 1, LT 2, LE 3, GT 4, GE 5. -/
def vecCompare (k : Nat) (a b : Fv) : Bool :=
  if a.isNan || b.isNan then k = 1
  else
    let c := fvCmp a b
    match k with
    | 0 => c = 0
    | 1 => c ≠ 0
    | 2 => c < 0
    | 3 => c ≤ 0
    | 4 => 0 < c
    | _ => 0 ≤ c
/-- MAX and MIN: NaN propagates, and zeros that differ in sign give +0; a zero keeps its sign otherwise, until it leaves
the engine (R143). -/
def vecMinMax (max : Bool) (a b : Fv) : Fv :=
  if a.isNan || b.isNan then .nan false
  else if a.isZero && b.isZero && a.sign ≠ b.sign then .fin false 0 0
  else if (decide (0 ≤ fvCmp a b)) == max then a else b

/-! ## Packed elements (R113, R159): element `e` lies at bit `e × bits` upward from its first byte -/

/-- Element `e` of a packed byte list. -/
def elemAt (code : Nat) (l : List Byte) (e : Nat) : Nat :=
  let b := fmtBits code
  leNat (slice l (e * b / 8) ((e * b % 8 + b + 7) / 8)) / 2 ^ (e * b % 8) % 2 ^ b
/-- `n` elements of a packed byte list. -/
def elemsOf (code n : Nat) (l : List Byte) : List Nat := (List.range n).map (elemAt code l)
/-- Elements packed, lowest first, as a number. -/
def packNat (bits : Nat) : List Nat → Nat
  | [] => 0
  | v :: t => v + 2 ^ bits * packNat bits t
/-- Elements packed into bytes. -/
def packElems (code : Nat) (l : List Nat) : List Byte := leBytes (l.length * fmtBits code / 8) (packNat (fmtBits code) l)

/-! ## Operations with a bound (R150, R162): fixed-point enclosures, F = 400 fractional bits -/

/-- Fractional bits. -/
abbrev fxF : Nat := 400
/-- Error that every fixed-point result here stays within. -/
abbrev fxErr : Nat := 2 ^ 40
/-- ⌊log₂ of e × 2^400⌋ and ⌊ln 2 × 2^400⌋, from their series. -/
def fxLn2From : Nat → Nat → Nat → Nat
  | 0, _, _ => 0
  | n + 1, k, z => z / (2 * k + 1) + fxLn2From n (k + 1) (z / 9)
/-- ln 2 = 2 Σ 3^−(2k+1) ÷ (2k+1). -/
def fxLn2 : Nat := 2 * fxLn2From 140 0 (2 ^ fxF / 3)
/-- Σ x^k ÷ k! from the term `t` of number `k`. -/
def fxExpFrom (x : Nat) : Nat → Nat → Nat → Nat
  | 0, _, _ => 0
  | n + 1, k, t => t + fxExpFrom x n (k + 1) (t * x / 2 ^ fxF / (k + 1))
/-- e^x for 0 ≤ x < 1. -/
def fxExp (x : Nat) : Nat := fxExpFrom x 100 0 (2 ^ fxF)
/-- z + z³ ÷ 3 + … from the power `z` of number 2k + 1. -/
def fxAtanhFrom (q : Nat) : Nat → Nat → Nat → Nat
  | 0, _, _ => 0
  | n + 1, k, z => z / (2 * k + 1) + fxAtanhFrom q n (k + 1) (z * q / 2 ^ fxF)
/-- ln (m ÷ 2^s) for 1 ≤ m ÷ 2^s < 2. -/
def fxLn (m s : Nat) : Nat :=
  let z := (m - 2 ^ s) * 2 ^ fxF / (m + 2 ^ s)
  2 * fxAtanhFrom (z * z / 2 ^ fxF) 140 0 z

/-- An enclosure: `lo` ≤ |y| × 2^400 × 2^−k ≤ `hi`, and the sign. -/
structure Encl where
  neg : Bool
  lo : Nat
  hi : Nat
  k : Int
  deriving DecidableEq, Repr

/-- A signed fixed-point number from a finite value, cut off below 2^−400. -/
def fxOf (m : Nat) (e : Int) : Nat := if 0 ≤ e + fxF then m * 2 ^ (e + fxF).toNat else m / 2 ^ (-(e + fxF)).toNat

/-- 2^x for a fixed-point x of either sign; beyond ±300 the result lies beyond every binary32 value. -/
def fxPow2 (neg : Bool) (x : Nat) : Encl :=
  let x : Int := signedMag neg (Nat.min x (300 * 2 ^ fxF))
  let k := x / (2 ^ fxF : Nat)
  let r := (x % (2 ^ fxF : Nat)).toNat
  let y := fxExp (r * fxLn2 / 2 ^ fxF)
  ⟨false, y - fxErr, y + fxErr, k⟩
/-- e^x, as 2^(x ÷ ln 2). -/
def fxPowE (neg : Bool) (x : Nat) : Encl := fxPow2 neg (x * 2 ^ fxF / fxLn2)
/-- ln of a finite positive value. -/
def fxLog (m : Nat) (e : Int) : Encl :=
  let s := Nat.log2 m
  let y : Int := (fxLn m s : Int) + (e + s) * (fxLn2 : Int)
  ⟨decide (y < 0), y.natAbs - fxErr, y.natAbs + fxErr, 0⟩

/-- The value of an enclosure of e^−|x| as plain fixed point. -/
def Encl.plain (y : Encl) : Nat := if 0 ≤ y.k then y.lo * 2 ^ y.k.toNat else y.lo / 2 ^ (-y.k).toNat

/-- The exact result of an operation with a bound, enclosed; none where the spec states no result: an infinite
operand, a pole, the logarithm or root of a negative number (log 15). -/
def boundedFn (op : Nat) (v : Fv) : Option Encl :=
  match v with
  | .fin n m e =>
    let x := fxOf m e
    let one := 2 ^ fxF
    match op with
    | 0x06 => if m = 0 then none
        else
          let q := 2 ^ (fxF + Nat.log2 m) / m
          some ⟨n, q, q + 1, -e - Nat.log2 m⟩
    | 0x07 => if m = 0 || n then none
        else
          let (m, e) := if e % 2 = 0 then (m, e) else (2 * m, e - 1)
          let r := isqrt (2 ^ (2 * fxF + 2 * Nat.log2 m) / m)
          some ⟨false, r, r + 1, -(e / 2) - Nat.log2 m⟩
    | 0x08 => some (fxPow2 n x)
    | 0x09 => if m = 0 || n then none
        else
          let y := fxLog m e
          some ⟨y.neg, y.lo * one / fxLn2 - 1, y.hi * one / fxLn2 + 1, 0⟩
    | 0x0A => some (fxPowE n x)
    | 0x0B => if m = 0 || n then none else some (fxLog m e)
    | 0x0C =>
      -- tanh |x| = (1 − w) ÷ (1 + w), w = e^(−2|x|)
      let w := (fxPowE true (2 * x)).plain
      let y := (one - w) * one / (one + w)
      some ⟨n, y - fxErr, y + fxErr, 0⟩
    | _ =>
      -- 1 ÷ (1 + e^−x): with w = e^−|x| it is 1 ÷ (1 + w), or w ÷ (1 + w) for negative x
      let w := fxPowE true x
      if n then
        let d := one + w.plain
        some ⟨false, w.lo * one / (d + fxErr), w.hi * one / (d - fxErr), w.k⟩
      else
        let y := one * one / (one + w.plain)
        some ⟨false, y - fxErr, y + fxErr, 0⟩
  | _ => none

/-- Bound of an operation in ulp (Table 05-6). -/
def ulpBound (op : Nat) : Nat := if op ≤ 0x09 then 1 else if op ≤ 0x0B then 2 else 3

/-- The magnitudes of binary32 that the bound admits for an enclosure; 2^128 stands for the infinity. -/
def ulpCandidates (bound : Nat) (y : Encl) : List Nat :=
  let e := y.k - fxF
  let (c, _) := fmtF32.round 1 false y.lo e false
  let lead : Int := Nat.log2 y.hi + e
  let ulp : Int := max lead (-126) - 23
  (List.range (2 * bound + 4)).filterMap fun d =>
    let b := c + d
    if b < bound + 1 then none
    else
      let b := b - (bound + 1)
      if fmtF32.top < b then none
      else
        let v : Fv := if b = fmtF32.top then .fin false 1 128 else fmtF32.read b
        match v with
        | .fin _ m ev =>
          let s := min (min ev e) ulp
          let a := m * 2 ^ (ev - s).toNat
          let lo := y.lo * 2 ^ (e - s).toNat
          let hi := y.hi * 2 ^ (e - s).toNat
          let u := bound * 2 ^ (ulp - s).toNat
          if a ≤ hi + u && lo ≤ a + u then some b else none
        | _ => none

/-- Result of an operation with a bound: some value within it, the same for the same operand (R140, R150); where the
spec states no result, any pattern of binary32. -/
def boundedOp (op x : Nat) : Nat :=
  let v := fmtF32.read x
  let pick := Config.vectorFn op x
  if v.isNan then fmtF32.nanBits
  else
    match boundedFn op v with
    | none => pick % 2 ^ 32
    | some y =>
      let c := if 128 ≤ Nat.log2 y.lo + (y.k - fxF) then [fmtF32.top] else ulpCandidates (ulpBound op) y
      fmtF32.sign y.neg + c.getD (pick % c.length) 0

end Sys2Proof.Machine
end

