-- ==== Sys2Proof/Machine/Matrix.lean ====
section
/-! DEFINITION. The matrix arrays (R111 to R123): what each custom-2 instruction does to the matrix state of a core and
its scratchpad, and how the instructions enter the matrix queue. -/

namespace Sys2Proof.Machine

open Sys2Proof

/-! ## Formats and rows (Tables 04-1, 04-6) -/

/-- A pairing of Table 04-1: tile, row. -/
def pairOk (t a : Nat) : Bool :=
  (t = 4 && a = 4) || ((t = 2 || t = 3) && (a = 2 || a = 3)) || (t < 2 && a < 2) || (5 ≤ t && t ≤ 9 && a = t)
/-- Bytes of a row of 32 elements. -/
def rowBytes (code : Nat) : Nat := 4 * fmtBits code
/-- Format of the accumulators: binary64 for a binary64 tile (R112, R137). -/
def accCode (word : Nat) : Nat := if word % 16 = 9 then 9 else 8
/-- Rows of each array's file. -/
def accRows (word : Nat) : Nat := if word % 16 = 9 then 128 else 256
/-- Key of row 0 to 31 columns of an accumulator row: row i of an instruction meets array i mod 4 (R120). -/
def accRow (base i : Nat) : Nat := i % 4 * 256 + base + i / 4

/-- A rounded product and a rounded sum in the accumulator's format (R137, R144). -/
def rndMul (f : Fmt) (a b : Fv) : Nat := (f.finish 0 (fvMul a b)).1
def rndAdd (f : Fmt) (x y : Nat) : Nat := (f.finish 0 (fvAdd 0 (f.read x) (f.read y))).1
/-- One level of the tree of R114. -/
def treeLevel (f : Fmt) : List Nat → List Nat
  | x :: y :: t => rndAdd f x y :: treeLevel f t
  | l => l
/-- Five levels: the sum of 32 products. -/
def treeSum (f : Fmt) (l : List Nat) : Nat :=
  (treeLevel f (treeLevel f (treeLevel f (treeLevel f (treeLevel f l))))).headD 0
/-- One column of row_update (R114): the chunk's sum, added to the accumulator where that is asked. -/
def columnUpdate (f : Fmt) (acc : Option Nat) (x t : List Fv) : Nat :=
  let p := treeSum f ((x.zip t).map fun e => rndMul f e.1 e.2)
  match acc with
  | some a => rndAdd f a p
  | none => p

/-- Rows in the scratchpad that break R119 (code 0x04) or leave the scratchpad (0x03). -/
def rowsBad (off stride count bytes : Nat) : Option Nat :=
  if off % 8 ≠ 0 || stride % 8 ≠ 0 || stride < bytes then some 0x04
  else if 2 ^ 20 < off + (count - 1) * stride + bytes then some 0x03 else none

/-- A row of 32 elements: bit patterns, poison. -/
def readRow (c ctx code off : Nat) (s : State) : (List Nat × Bool) × State :=
  let (g, s) := engineRead (0x9000 + c) c ctx off (rowBytes code) [] s
  ((elemsOf code 32 g.data, g.poison), s)
/-- Rows in order. -/
def readRows (c ctx code off stride : Nat) : Nat → State → List (List Nat × Bool) × State
  | 0, s => ([], s)
  | n + 1, s =>
    let (r, s) := readRow c ctx code off s
    let (l, s) := readRows c ctx code (off + stride) stride n s
    (r :: l, s)

/-- 32 values of an accumulator row. -/
def accGet (m : MxData) (row : Nat) : List Nat := (List.range 32).map fun n => (lookD m.acc (row * 32 + n) 0).toNat
/-- An accumulator row written, and its mark (R293). -/
def accPut (row : Nat) (v : List Nat) (taint : Bool) (m : MxData) : MxData :=
  { m with
    acc := ((List.range 32).zip v).foldl (fun t e => putD t (row * 32 + e.1) (BitVec.ofNat 64 e.2) 0) m.acc
    taint := if taint then addSorted row m.taint else m.taint.filter (· ≠ row) }

/-! ## The instructions (R120) -/

def setMx (c : Nat) (f : MxData → MxData) (s : State) : State := s.setCore c fun k => { k with mx := f k.mx }

/-- MX.CFG. -/
def mxCfg (c : Nat) (o : EngOp) (s : State) : EngRes :=
  let w := o.a.toNat
  let spill := o.b.toNat % 2 ^ 20
  if w / 256 ≠ 0 || !pairOk (w % 16) (fld w 4 4) then .fault 0x02 none
  else if spill % 256 ≠ 0 then .fault 0x04 (some spill)
  else if 2 ^ 20 < spill + 139520 then .fault 0x03 (some spill)
  else
    .ok (setMx c (fun m =>
      let m := if accCode w ≠ accCode m.word.toNat then { m with acc := [], taint := [] } else m
      { m with word := o.a, spill, tileValid := false, tile := [], tileTaint := false, configured := true }) s)

/-- MX.LDT. -/
def mxLdt (c : Nat) (o : EngOp) (s : State) : EngRes :=
  let m := (s.core c).mx
  let off := o.a.toNat % 2 ^ 20
  let f := m.word.toNat % 16
  if !m.configured then .fault 0x01 none
  else match rowsBad off o.b.toNat 32 (rowBytes f) with
    | some e => .fault e (some off)
    | none =>
      let (rows, s) := readRows c o.ctx f off o.b.toNat 32 s
      let cells := (List.range 1024).zip (rows.flatMap (·.1))
      .ok (setMx c (fun m => { m with
        tile := (cells.filter (·.2 ≠ 0)).map fun e => (e.1, BitVec.ofNat 64 e.2)
        tileTaint := rows.any (·.2), tileValid := true }) s)

/-- Fields of an MMA word (Table 04-4). -/
def mmaM (w : Nat) : Nat := fld w 0 11
def mmaStride (w : Nat) : Nat := fld w 12 20
def mmaBase (w : Nat) : Nat := fld w 32 8
/-- Rows beyond the file, or a reserved field (code 0x06). A row count of 0 raises the same code (DESIGN CHOICE, log 84:
Table 04-4 admits 1 to 1,024, and no row of Table 04-9 names 0). -/
def accBad (word m base : Nat) (reserved : Bool) : Bool := reserved || m = 0 || accRows word < base + (m + 3) / 4

/-- Column `n` of the tile. -/
def tileColumn (m : MxData) (n : Nat) : List Fv :=
  (List.range 32).map fun k => readElem (m.word.toNat % 16) (lookD m.tile (k * 32 + n) 0).toNat
/-- One activation row into its accumulator row. -/
def mmaRow (accumulate : Bool) (row : Nat) (x : List Nat × Bool) (m : MxData) : MxData :=
  let f := fmtOf (accCode m.word.toNat)
  let xs := x.1.map (readElem (fld m.word.toNat 4 4))
  let old := accGet m row
  let v := (List.range 32).map fun n => columnUpdate f (if accumulate then old[n]? else none) xs (tileColumn m n)
  accPut row v (m.tileTaint || x.2 || (accumulate && m.taint.contains row)) m

/-- MX.MMA, from the row that it resumes at (R117) up to row `hi`. -/
def mxMmaTo (hi : Nat → Nat) (c : Nat) (o : EngOp) (s : State) : EngRes :=
  let m := (s.core c).mx
  let off := o.a.toNat % 2 ^ 20
  let w := o.b.toNat
  let fa := fld m.word.toNat 4 4
  if !m.configured then .fault 0x01 none
  else if !m.tileValid then .fault 0x05 (some off)
  else if accBad m.word.toNat (mmaM w) (mmaBase w) (fld w 41 23 ≠ 0 || bit w 11) then .fault 0x06 (some off)
  else match rowsBad off (mmaStride w) (mmaM w) (rowBytes fa) with
    | some e => .fault e (some off)
    | none =>
      let n := hi (mmaM w) - o.row
      let (rows, s) := readRows c o.ctx fa (off + o.row * mmaStride w) (mmaStride w) n s
      .ok (setMx c (fun m => ((List.range' o.row n).zip rows).foldl
        (fun m e => mmaRow (bit w 40) (accRow (mmaBase w) e.1) e.2 m) m) s)

/-- MX.LDA, likewise. -/
def mxLdaTo (hi : Nat → Nat) (c : Nat) (o : EngOp) (s : State) : EngRes :=
  let m := (s.core c).mx
  let off := o.a.toNat % 2 ^ 20
  let w := o.b.toNat
  let f := accCode m.word.toNat
  if !m.configured then .fault 0x01 none
  else if accBad m.word.toNat (mmaM w) (mmaBase w) (fld w 40 24 ≠ 0 || bit w 11) then .fault 0x06 (some off)
  else match rowsBad off (mmaStride w) (mmaM w) (rowBytes f) with
    | some e => .fault e (some off)
    | none =>
      let n := hi (mmaM w) - o.row
      let (rows, s) := readRows c o.ctx f (off + o.row * mmaStride w) (mmaStride w) n s
      .ok (setMx c (fun m => ((List.range' o.row n).zip rows).foldl
        (fun m e => accPut (accRow (mmaBase w) e.1) e.2.1 e.2.2 m) m) s)

/-- An output format of a drain (Table 04-6). -/
def drainOk (code : Nat) (f64 : Bool) : Bool := code < 2 || (6 ≤ code && code ≤ 8) || (code = 9 && f64)

/-- Fields of a drain (Table 04-5) that its rows need. -/
structure Drain where
  scale : Fv
  base : Nat
  zero : Bool
  track : Bool
  mask : Bool
  out : Nat
  qpos : Nat
  kpos : Nat
  nonsat : Bool

/-- One drained row: output elements, and the matrix state after. -/
def drainRow (d : Drain) (i : Nat) (m : MxData) : List Nat × Bool × MxData :=
  let f := fmtOf (accCode m.word.toNat)
  let row := accRow d.base i
  let taint := m.taint.contains row
  let cells := ((List.range 32).zip (accGet m row)).map fun e =>
    (f.read (rndMul f (f.read e.2) d.scale), d.mask && decide (d.qpos + i < d.kpos + e.1))
  let out := cells.map fun e => if e.2 then negInf d.out else convertTo d.out d.nonsat e.1
  let tr := if d.track then
    (cells.filter (!·.2)).foldl (fun t e => BitVec.ofNat 32 (trackVal t.toNat e.1)) m.tracker else m.tracker
  let m := { m with tracker := tr }
  (out, taint, if d.zero then accPut row [] false { m with acc := (List.range 32).foldl (fun t n => del t (row * 32 + n)) m.acc } else m)

/-- The drain descriptor as read in the scratchpad, or as it was read before a spill (R117). -/
def drainDsc (c : Nat) (o : EngOp) (s : State) : Got × State :=
  match o.dsc with
  | some d => (⟨d.1, d.2⟩, s)
  | none => engineRead (0x9000 + c) c o.ctx (o.b.toNat % 2 ^ 20) 32 [] s
/-- MX.DRN: outputs, with the row's mark or the descriptor's poison (R121). A descriptor offset that is not 32-byte aligned is
MX_ALIGN (DESIGN CHOICE, log 84: Table 04-5 asks for the alignment, and no row of Table 04-9 names it). -/
def mxDrnTo (hi : Nat → Nat) (c : Nat) (o : EngOp) (s : State) : EngRes :=
  let m := (s.core c).mx
  let off := o.a.toNat % 2 ^ 20
  let at_ := o.b.toNat % 2 ^ 20
  if !m.configured then .fault 0x01 none
  else if at_ % 32 ≠ 0 then .fault 0x04 (some at_)
  else
    let (g, s) := drainDsc c o s
    let b := fun i n => leAt g.data i n
    let word := m.word.toNat
    let out := b 12 1 % 16
    let rows := b 4 2
    let d : Drain :=
      { scale := fmtF32.read (b 0 4), base := b 6 1, zero := bit (b 7 1) 0, track := bit (b 7 1) 1, mask := bit (b 7 1) 2
        out, qpos := b 16 4, kpos := b 20 4, nonsat := nonsatOf s o.ctx }
    let reserved := b 7 1 / 8 ≠ 0 || b 12 1 / 16 ≠ 0 || b 13 3 ≠ 0 || b 16 4 / 2 ^ 23 ≠ 0 || b 20 4 / 2 ^ 23 ≠ 0 || b 24 8 ≠ 0
    if !drainOk out (accCode word = 9) || (d.mask && out = 0) then .fault 0x02 (some at_)
    else if accBad word rows d.base reserved then .fault 0x06 (some at_)
    else match rowsBad off (b 8 4) rows (rowBytes out) with
      | some e => .fault e (some off)
      | none =>
        let (m, ovr) := (List.range' o.row (hi rows - o.row)).foldl (fun (x : MxData × Over) i =>
          let (v, taint, m) := drainRow d i x.1
          (m, overPut x.2 (windowBase c + off + i * b 8 4) (packElems out v) (taint || g.poison))) (m, [])
        .ok (overWrite ovr (setMx c (fun _ => m) s))

/-- The instructions run to their last row. -/
def mxMma (c : Nat) (o : EngOp) (s : State) : EngRes := mxMmaTo id c o s
def mxLda (c : Nat) (o : EngOp) (s : State) : EngRes := mxLdaTo id c o s
def mxDrn (c : Nat) (o : EngOp) (s : State) : EngRes := mxDrnTo id c o s

/-- What a matrix instruction does; MX.TRK writes its group's rd and lets it go on. -/
def mxRun (c : Nat) (o : EngOp) (s : State) : EngRes :=
  match wF3 o.w.toNat with
  | 0 => mxCfg c o s
  | 1 => mxLdt c o s
  | 2 => mxMma c o s
  | 3 => mxDrn c o s
  | 4 => mxLda c o s
  | _ =>
    let v := (s.core c).mx.tracker
    let s := setMx c (fun m => { m with tracker := 0 }) s
    match s.group c o.slot with
    | some g =>
      if g.wait = .engine false then
        .ok (putGroup c o.slot ({ g with wait := .none }.setAll (wRd o.w.toNat) (v.setWidth 64)) s)
      else .ok s
    | none => .ok s

/-! ## Who holds the matrix state (R116, R117) -/

/-- AT.SUB. -/
def EngOp.isAt (o : EngOp) : Bool := wF3 o.w.toNat = 6
/-- The slice of an instruction. -/
def EngOp.who (o : EngOp) : Nat × Nat × Nat := (o.ctx, o.seq, o.slice)
/-- A FIRM slice of another item has the arrays of the core in this beat, or in the next once the guard has begun. -/
def arraysDue (s : State) (c : Nat) (o : EngOp) : Bool :=
  let soon := firmOn s c s.beat ++ (if s.time.inGuard then firmOn s c (s.beat + 1) else [])
  soon.any fun p => p.cost.array ≠ 0 && !(o.ctx = p.ctx && o.seq = p.seq) &&
    (s.item p.ctx p.seq).any fun i => decide (i.phase < 3) && decide (i.slice ≤ p.slice)
/-- The instruction is kept off the arrays: they are due to a FIRM slice (R117), or the governor holds SOFT and BULK
issue back (R412). -/
def mxPassed (s : State) (c : Nat) (o : EngOp) : Bool :=
  ((s.core c).mx.holder ≠ some o.who && arraysDue s c o) || (s.pwr.heldSoft && (s.item o.ctx o.seq).any (·.cls ≠ 0))
/-- The instruction may act: its slice holds the state, or the state is free; AT.SUB, which acts on none of it, may always. -/
def mxMay (s : State) (c : Nat) (o : EngOp) : Bool := o.isAt || (s.core c).mx.holder.all (· = o.who)
/-- The instruction that the arrays work on: the head of the queue, past those kept off the arrays; it waits there while
another slice holds the state (R93, R116, log 20). -/
def mxNext (s : State) (c : Nat) : Option EngOp :=
  ((s.core c).mxq.find? fun o => o.isAt || !mxPassed s c o).filter (mxMay s c)
/-- The state is taken: restored from the spill area, or fresh (R116, R117). -/
def mxTake (c : Nat) (o : EngOp) (s : State) : State :=
  s.setCore c fun k =>
    if k.mx.holder = some o.who then k
    else match k.spilled.find? fun m => m.holder = some o.who with
      | some m => { k with mx := m, spilled := k.spilled.filter fun m => m.holder ≠ some o.who }
      | none => { k with mx := { holder := some o.who } }
/-- The 139,520 bytes of a spill area written: 545 whole lines, whose layout is private to the device (R117, log 83). -/
def spillArea (c off : Nat) (s : State) : State :=
  let base := lineOf (windowBase c + off)
  let s := (List.range 545).foldl (fun t i =>
    storeUnit (base + i) (atOffsets 0 ((List.range 32).flatMap fun k =>
      leBytes 8 (Config.freeWord (s.free + i * 32 + k)).toNat)) false t) s
  { s with free := s.free + 545 * 32 }
/-- The state of a holder goes to its spill area (R117); one without a spill offset yet has no area. -/
def mxSpill (c : Nat) (s : State) : State :=
  let m := (s.core c).mx
  if m.holder.isNone then s
  else
    let s := if m.configured then spillArea c m.spill s else s
    s.setCore c fun k => { k with mx := {}, spilled := k.spilled ++ [m] }
/-- Rows of an instruction that a spill may interrupt. -/
def mxRowsOf (c : Nat) (o : EngOp) (s : State) : Nat :=
  match wF3 o.w.toNat with
  | 2 => mmaM o.b.toNat
  | 4 => mmaM o.b.toNat
  | 3 => leAt (drainDsc c o s).1.data 4 2
  | _ => 0
/-- The head of the queue is interrupted between rows: any number of its rows may have completed, and its progress stays
with it (R117, log 83). -/
def mxInterrupt (c : Nat) (s : State) : State :=
  match (s.core c).mxq with
  | o :: rest =>
    let left := mxRowsOf c o s - o.row
    if (s.core c).mx.holder ≠ some o.who || left = 0 then s
    else
      let (k, s) := drawBelow left s
      if k = 0 then s
      else
        let (d, s) := if wF3 o.w.toNat = 3 then drainDsc c o s else (⟨[], false⟩, s)
        let o' := { o with dsc := if wF3 o.w.toNat = 3 then some (d.data, d.poison) else none }
        let upTo := fun (_ : Nat) => o.row + k
        let r := match wF3 o.w.toNat with
          | 2 => mxMmaTo upTo c o' s
          | 4 => mxLdaTo upTo c o' s
          | _ => mxDrnTo upTo c o' s
        match r with
        | .ok t => t.setCore c fun k' => { k' with mxq := { o' with row := o.row + k } :: rest }
        | .fault _ _ => s
  | [] => s

/-! ## The end of a queued instruction, and issue -/

/-- An engine instruction that was stepped ends its step (R110), and a slot without queued instructions passes its
fence. -/
def engineDone (c : Nat) (o : EngOp) (s : State) : State :=
  let s := if o.stepped then stepEnds c o.slot false s else s
  match s.group c o.slot with
  | some g =>
    if g.wait = .fence && !(s.core c).queued o.slot then putGroup c o.slot { g with wait := .none } s else s
  | none => s


/-- MX_CFG (R118). -/
def execMxCfg (c g : Nat) (w : W32) (s : State) : Out :=
  laneCmd [] [] (issue c g (· = .mxCfg) w fun _ x s => enqueue false false c g w.toNat x s) s
/-- MX_LDT (R118). -/
def execMxLdt (c g : Nat) (w : W32) (s : State) : Out :=
  laneCmd [] [] (issue c g (· = .mxLdt) w fun _ x s => enqueue false false c g w.toNat x s) s
/-- MX_MMA (R118). -/
def execMxMma (c g : Nat) (w : W32) (s : State) : Out :=
  laneCmd [] [] (issue c g (· = .mxMma) w fun _ x s => enqueue false false c g w.toNat x s) s
/-- MX_LDA (R118). -/
def execMxLda (c g : Nat) (w : W32) (s : State) : Out :=
  laneCmd [] [] (issue c g (· = .mxLda) w fun _ x s => enqueue false false c g w.toNat x s) s
/-- MX_DRN (R118). -/
def execMxDrn (c g : Nat) (w : W32) (s : State) : Out :=
  laneCmd [] [] (issue c g (· = .mxDrn) w fun _ x s => enqueue false false c g w.toNat x s) s
/-- MX_TRK (R118): the group waits for its result. -/
def execMxTrk (c g : Nat) (w : W32) (s : State) : Out :=
  laneCmd [] [] (issue c g (· = .mxTrk) w fun _ x s => enqueue false true c g w.toNat x s) s

end Sys2Proof.Machine
end

