-- ==== Sys2Proof/Machine/Atomiser.lean ====
section
/-! DEFINITION. The Atomiser of a Brim die (R130 to R134): descriptors, their validation, one N-chunk, the end. -/

namespace Sys2Proof.Machine

open Sys2Proof

/-! ## Descriptors (Table 04-13) -/

/-- A field of a descriptor by byte offset and length. -/
def atField (ws : List W64) (off n : Nat) : Nat := ((ws[off / 8]?).getD 0).toNat / 256 ^ (off % 8) % 256 ^ n
def AtDesc.f (d : AtDesc) (off n : Nat) : Nat := atField d.words off n
def AtDesc.fmtA (d : AtDesc) : Nat := d.f 61 1 / 16
def AtDesc.fmtW (d : AtDesc) : Nat := d.f 61 1 % 16
def AtDesc.out (d : AtDesc) : Nat := d.f 62 1 % 16
def AtDesc.kChunks (d : AtDesc) : Nat := d.f 40 4
def AtDesc.nChunks (d : AtDesc) : Nat := d.f 44 4
def AtDesc.rows (d : AtDesc) : Nat := d.f 60 1
/-- Bytes of a tile (Table 04-1). -/
def tileBytes (code : Nat) : Nat := 32 * rowBytes code

/-- Formats, shape and alignment of a descriptor: the first detail code that fails (Table 04-9, log 28). -/
def atBad (ws : List W64) : Option Nat :=
  let f := atField ws
  let a := f 61 1 / 16
  let w := f 61 1 % 16
  let out := f 62 1 % 16
  if !pairOk w a || 8 ≤ w || !(out < 2 || (6 ≤ out && out ≤ 8)) then some 0x22
  else if f 60 1 = 0 || 8 < f 60 1 || f 40 4 = 0 || 2048 < f 40 4 || f 44 4 = 0 || 2048 < f 44 4 || f 62 1 / 16 ≠ 0 || f 63 1 ≠ 0
  then some 0x23
  else if f 0 8 % 256 ≠ 0 || f 24 8 % 8 ≠ 0 || f 32 8 % 4 ≠ 0 || f 52 4 % 8 ≠ 0 || f 56 4 % 8 ≠ 0 then some 0x24
  else none

/-- ENGINE_FAULT of an Atomiser failure at AT.SUB; no rule says what `where` holds before a ticket is given (log 11). -/
def atFault (c : Nat) (o : EngOp) (code status : Nat) (s : State) : State :=
  let (v, s) := drawWord s
  raiseIn c o.slot o.ctx o.seq o.depth
    { cause := exEngine, lanes := o.lanes, detail := detailRecord 3 code status 0 v.toNat } 0 o.pc s

/-- Pages of 64 MiB that a range touches. -/
def pagesOf (va n : Nat) : List Nat := (List.range ((va + n - 1) / 2 ^ 26 - va / 2 ^ 26 + 1)).map fun i => (va / 2 ^ 26 + i) * 2 ^ 26
/-- The weights' pages resolved at AT.SUB: faults, an error status, and whether all lie in the die's own stack. -/
def atWeights (e : Engine) (die va : Nat) : List Nat → State → List (Nat × Nat × Nat) × Option Nat × Bool × State
  | [], s => ([], none, true, s)
  | p :: t, s =>
    let at_ := Nat.max p va
    let (x, s) := translate e at_ { rd := true } s
    let (f, st, own, s) := atWeights e die va t s
    match x with
    | .dev a => (f, st, own && placeOf s a = .stack die, s)
    | .host _ => (f, st, false, s)
    | .status c => (f, some c, own, s)
    | .fault r c => ((at_, r, c) :: f, st, own, s)

/-- Who reads for a queued AT.SUB: its group. -/
def atSubEngine (c : Nat) (o : EngOp) (s : State) : Engine :=
  let x := s.ctx o.ctx
  { die := dieOfCore c, code := 1, ctx := o.ctx, asid := (x.map (·.asid)).getD 4096, part := (x.map (·.part)).getD 16
    stall := .group c o.slot }
/-- The ticket in rd of every active lane of the group, which goes on. -/
def giveTicket (c : Nat) (o : EngOp) (n : Nat) (s : State) : State :=
  match s.group c o.slot with
  | some g =>
    if g.wait = .engine false then
      putGroup c o.slot ({ g with wait := .none }.setAll (wRd o.w.toNat) (BitVec.ofNat 64 n)) s
    else s
  | none => s
/-- AT.SUB at the head of the matrix queue (R118, R131): the descriptor is read, validated and queued, and the ticket
written. It stays at the head while the die's queue is full or a translation fault of it is unresolved; that of a group
that is stopped is dropped. The descriptor keeps the tier that its slice has now (DESIGN CHOICE, log 84). -/
def atSubmit (c : Nat) (o : EngOp) (s : State) : State :=
  let die := dieOfCore c
  let va := o.a.toNat
  let q := lookD s.atq die []
  let out := fun (s : State) => engineDone c o (s.setCore c fun k => { k with mxq := dropFirst (· = o) k.mxq })
  match s.group c o.slot with
  | none => out s
  | some g =>
    let e := atSubEngine c o s
    if s.stalledOn (.group c o.slot) || 64 ≤ q.length then s
    else if !s.groupLive g then out s
    else if va % 64 ≠ 0 then out (atFault c o 0x24 0 s)
    else
      let (r, s) := reachRange e { rd := true } va 64 {} s
      if !r.faults.isEmpty then openFaults e r s
      else match r.bad with
        | some (st, _) => out (atFault c o 0x25 st s)
        | none =>
          let (x, s) := reachRead true r.at_ s
          let words := (List.range 8).map fun i => BitVec.ofNat 64 (leAt x.data (8 * i) 8)
          match atBad words with
          | some code => out (atFault c o code 0 s)
          | none =>
            let f := atField words
            let (fl, st, own, s) := atWeights e die (f 0 8) (pagesOf (f 0 8) (f 40 4 * f 44 4 * tileBytes (f 61 1 % 16))) s
            match fl with
            | x :: _ => openFault e x.1 { rd := true } x.2.1 x.2.2 s
            | [] =>
            match st with
              | some st => out (atFault c o 0x25 st s)
              | none =>
                if !own then out (atFault c o 0x21 0 s)
                else
                  let n := lookD s.ticket die 0 + 1
                  let d : AtDesc :=
                    { ticket := n, ctx := o.ctx, seq := o.seq, cls := sliceClass s g, pc := o.pc, core := c, slot := o.slot
                      lanes := o.lanes, depth := o.depth, words, poison := x.poison }
                  out (giveTicket c o n { s with atq := put s.atq die (q ++ [d]), ticket := put s.ticket die n })

/-- AT_SUB (R118, R131): it enters the matrix queue, and its group waits for the ticket; it is not ready while the die's
queue is full. -/
def doAtSub (c slot w : Nat) (g : Group) (s : State) : LaneOut :=
  if 64 ≤ (lookD s.atq (dieOfCore c) []).length then .idle else enqueue false true c slot w g s
def execAtSub (c g : Nat) (w : W32) (s : State) : Out :=
  laneCmd [] [] (issue c g (· = .atSub) w fun _ x s => doAtSub c g w.toNat x s) s

/-! ## Service (R132 to R134) -/

/-- The descriptor to serve: FIRM, then SOFT, then BULK, each by ticket; none while one is stalled (R134). -/
def atPick (s : State) (die : Nat) (p : AtDesc → Bool) : Option AtDesc :=
  let q := lookD s.atq die []
  if q.any (·.stalled) then none
  else (q.filter p).foldl (fun m d => match m with
    | some x => if d.cls < x.cls || (d.cls = x.cls && d.ticket < x.ticket) then some d else m
    | none => some d) none
def atSet (die : Nat) (t : Nat) (f : AtDesc → Option AtDesc) (s : State) : State :=
  { s with atq := putD s.atq die ((lookD s.atq die []).filterMap fun d => if d.ticket = t then f d else some d) [] }
def descEngine (die : Nat) (d : AtDesc) (s : State) : Engine :=
  let x := s.ctx d.ctx
  { die, code := 2, ctx := d.ctx, asid := (x.map (·.asid)).getD 4096, part := (x.map (·.part)).getD 16, stall := .atomiser die }

/-- A descriptor abandoned without its flag: its context stops (R134). -/
def atAbandon (die : Nat) (d : AtDesc) (code st : Nat) (s : State) : State :=
  raiseIn d.core d.slot d.ctx d.seq d.depth
    { cause := exEngine, lanes := d.lanes, detail := detailRecord 3 code st 0 d.ticket } 0 d.pc (atSet die d.ticket (fun _ => none) s)
/-- A fault stalls the Atomiser at this descriptor; an error status abandons it and stops its context (R134). -/
def atStops (die : Nat) (d : AtDesc) (e : Engine) (r : Reach) (s : State) : Option State :=
  if !r.faults.isEmpty then some (openFaults e r (atSet die d.ticket (fun d => some { d with stalled := true }) s))
  else match r.bad with
    | some (st, _) => some (atAbandon die d 0x25 st s)
    | none => none

/-- A tile's rows from its bytes. -/
def atTile (code : Nat) (b : List Byte) : List (List Fv) :=
  (List.range 32).map fun k => (elemsOf code 32 (slice b (k * rowBytes code) (rowBytes code))).map (readElem code)
/-- One row over the K-chunks (R114): 32 accumulator values. -/
def atRow : List (List Fv × List (List Fv)) → Option (List Nat) → List Nat
  | [], acc => acc.getD []
  | (x, t) :: rest, acc =>
    atRow rest (some ((List.range 32).map fun n =>
      columnUpdate fmtF32 (acc.bind fun a => a[n]?) x (t.map fun r => (r[n]?).getD (.fin false 0 0))))

/-- One N-chunk of a descriptor (R132). The bytes that a descriptor writes in one line are one unit (R186): a line is written
when no later chunk of the descriptor has bytes in it. Weights whose page has left the die's stack since the AT.SUB abandon
the descriptor (R130, log 85). -/
def atChunk (die : Nat) (d : AtDesc) (s : State) : State :=
  let e := descEngine die d s
  let tb := tileBytes d.fmtW
  let rb := rowBytes d.fmtA
  let ob := rowBytes d.out
  let k := d.kChunks
  let rows := List.range d.rows
  let yAt := fun (i : Nat) => d.f 16 8 + i * d.f 56 4
  let (rw, s) := reachRange e { rd := true } (d.f 0 8 + d.nc * k * tb) (k * tb) {} s
  let (rx, s) := rows.foldl (fun (x : List Reach × State) i =>
    let (r, s) := reachRange e { rd := true } (d.f 8 8 + i * d.f 52 4) (k * rb) {} x.2
    (x.1 ++ [r], s)) ([], s)
  let touched := (d.part.map (·.1) ++ rows.flatMap fun i => linesOf (yAt i + d.nc * ob) ob).foldl (fun l k => addSorted k l) []
  let whole := touched.filter fun l => !rows.any fun i =>
    (linesOf (yAt i + (d.nc + 1) * ob) ((d.nChunks - (d.nc + 1)) * ob)).contains l
  let (ry, s) := whole.foldl (fun (x : List Reach × State) l =>
    let (r, s) := reachRange e { wr := true } (l * 256) 1 {} x.2
    (x.1 ++ [r], s)) ([], s)
  let all := (rw :: rx ++ ry).foldl (fun (a r : Reach) => { a with faults := a.faults ++ r.faults, bad := a.bad <|> r.bad }) {}
  match atStops die d e all s with
  | some t => t
  | none =>
    if rw.at_.any fun p => !(match p.1 with | .dev a _ => placeOf s a = .stack die | _ => false) then atAbandon die d 0x21 0 s
    else
    let (gw, s) := reachRead true rw.at_ s
    let tiles := (List.range k).map fun i => atTile d.fmtW (slice gw.data (i * tb) tb)
    let (out, s) := rx.foldl (fun (x : List (List Nat × Bool) × State) r =>
      let (g, s) := reachRead true r.at_ x.2
      let xs := (List.range k).map fun i => (elemsOf d.fmtA 32 (slice g.data (i * rb) rb)).map (readElem d.fmtA)
      (x.1 ++ [(atRow (xs.zip tiles) none, g.poison)], s)) ([], s)
    let scale := fmtF32.read (d.f 48 4)
    let vals := out.map fun r => (r.1.map fun a => fmtF32.read (rndMul fmtF32 (fmtF32.read a) scale), r.2)
    let amax := vals.foldl (fun t r => r.1.foldl (fun t v => BitVec.ofNat 32 (trackVal t.toNat v)) t) d.amax
    let held := (vals.zip rows).foldl (fun t x => overPut t (yAt x.2 + d.nc * ob)
      (packElems d.out (x.1.1.map (convertTo d.out (nonsatOf s d.ctx)))) (x.1.2 || gw.poison || d.poison)) d.part
    let s := (whole.zip ry).foldl (fun s x => x.2.at_.foldl (fun s p =>
      let (b, q) := lookD held x.1 ([], false)
      match p.1 with
      | .dev a _ => lineWrite (lineOf a) b q true s
      | .host a => b.foldl (fun s y => hostReq (.write (a + y.1) [y.2] q false) s) s
      | _ => s) s) s
    atSet die d.ticket (fun d => some { d with nc := d.nc + 1, amax, part := held.filter fun y => !whole.contains y.1 }) s

/-- ATOMISER_CHUNK (R132). -/
def execAtomiserChunk (die : Nat) (md : Media) (s : State) : Out :=
  done s (if !s.alive then s else match atPick s die fun d => decide (d.nc < d.nChunks) with
    | some d => runWith md (atChunk die d) s
    | none => s)

/-- A word in memory raised to an unsigned maximum at its home (R133, R187); a poisoned line stays poisoned. -/
def amaxAt (p : Where) (v : W32) (s : State) : State :=
  match p with
  | .dev a _ => (homeAtomic (lineOf a) 0x1C 4 [(a % 256 / 4, v.setWidth 64)] s).2.2
  | _ => s

/-- The end of a descriptor (R133): the tracker maximum, then the ticket; its entry is free. -/
def atDone (die : Nat) (d : AtDesc) (s : State) : State :=
  let e := descEngine die d s
  let (ra, s) := if d.f 32 8 ≠ 0 then reachPiece e { atomic := true } (d.f 32 8, 4) {} s else ({}, s)
  let (rf, s) := reachPiece e { wr := true, flag := true } (d.f 24 8, 8) {} s
  match atStops die d e { at_ := [], faults := ra.faults ++ rf.faults, bad := ra.bad <|> rf.bad } s with
  | some t => t
  | none =>
    let s := ra.at_.foldl (fun s p => amaxAt p.1 d.amax s) s
    let s := reachWrite true (leBytes 8 d.ticket) false rf.at_ s
    atSet die d.ticket (fun _ => none) s

/-- ATOMISER_DONE (R133). -/
def execAtomiserDone (die : Nat) (md : Media) (s : State) : Out :=
  done s (if !s.alive then s else match atPick s die fun d => decide (d.nChunks ≤ d.nc) with
    | some d => runWith md (atDone die d) s
    | none => s)

end Sys2Proof.Machine
end

