-- ==== Sys2Proof/Machine/Vector.lean ====
section
/-! DEFINITION. The vector engine (R156 to R173): the operations, the checks, VX.op, VX.UPD and VX.TRK, how the
instructions enter the vector queue, and what the end of a queued instruction of either engine does. -/

namespace Sys2Proof.Machine

open Sys2Proof

/-! ## Operations (Table 06-4) -/

/-- Sources of an operation. -/
def vxSources (op : Nat) : Nat :=
  if op = 0x03 || op = 0x18 then 3
  else if op = 0x00 || op = 0x01 || op = 0x02 || op = 0x04 || (0x10 ≤ op && op ≤ 0x17) then 2 else 1
/-- A value as a binary32 pattern, signed zeros and NaNs kept. -/
def bits32 (v : Fv) : Nat := (fmtF32.finish 0 { v }).1
/-- The binary32 result of an element-wise operation on binary32 operands. -/
def vxF (op a b c : Nat) : Nat :=
  let x := fmtF32.read a
  let y := fmtF32.read b
  let fin := fun (r : Fres) => (fmtF32.finish 0 r).1
  match op with
  | 0x00 => fin (fvAdd 0 x y)
  | 0x01 => fin (fvAdd 0 x y.neg)
  | 0x02 => fin (fvMul x y)
  | 0x03 => fin (fvFma 0 x y (fmtF32.read c))
  | 0x04 => fin (fvDiv x y)
  | 0x05 => fin (fvSqrt x)
  | 0x0E => a % 2 ^ 31
  | 0x0F => if a < 2 ^ 31 then a + 2 ^ 31 else a - 2 ^ 31
  | 0x10 => bits32 (vecMinMax true x y)
  | 0x11 => bits32 (vecMinMax false x y)
  | 0x18 => if c % 2 ^ 31 ≠ 0 then a else b
  | 0x19 => a
  | _ =>
    if 0x12 ≤ op && op ≤ 0x17 then (if vecCompare (op - 0x12) x y then 0x3F800000 else 0)
    else boundedOp op a

/-- Sum of R151: 64 lane sums from +0, then six levels of a tree. -/
def vxSum (l : List Nat) : Nat :=
  let lanes := (List.range 64).map fun j =>
    (List.range ((l.length + 63) / 64)).foldl (fun a k => match l[j + 64 * k]? with
      | some v => rndAdd fmtF32 a v
      | none => a) 0
  (treeLevel fmtF32 (treeLevel fmtF32 (treeLevel fmtF32 (treeLevel fmtF32 (treeLevel fmtF32 (treeLevel fmtF32 lanes)))))).headD 0
/-- A reduction of a segment. -/
def vxReduce (op : Nat) (l : List Nat) : Nat :=
  if op = 0x20 then vxSum l
  else match l with
    | [] => 0
    | v :: t => t.foldl (fun a b => bits32 (vecMinMax (op = 0x21) (fmtF32.read a) (fmtF32.read b)))
        (bits32 (vecMinMax (op = 0x21) (fmtF32.read v) (fmtF32.read v)))

/-! ## Operand and shape words (Tables 06-2, 06-3) -/

/-- Source x of a VX.op: 0 a, 1 b, 2 c. -/
structure VxSrc where
  off : Nat
  fmt : Nat
  mode : Nat
  deriving DecidableEq, Repr
def vxSrc (w s : Nat) : Nat → VxSrc
  | 0 => ⟨fld w 20 20, fld s 16 4, fld s 32 2⟩
  | 1 => ⟨fld w 40 20, fld s 20 4, fld s 34 2⟩
  | _ => ⟨fld s 44 20, fld s 24 4, fld s 36 2⟩
def vxN (s : Nat) : Nat := fld s 0 15
def vxSeg (s : Nat) : Nat := fld s 38 4
def vxFmtD (s : Nat) : Nat := fld s 28 4
def vxTrack (s : Nat) : Bool := bit s 42
def vxStoch (s : Nat) : Bool := bit s 43
def vxOffD (w : Nat) : Nat := fld w 0 20
/-- Elements of the destination. -/
def vxOuts (op s : Nat) : Nat := if 0x20 ≤ op && op ≤ 0x22 then vxN s / 2 ^ vxSeg s else vxN s
/-- Elements of a source. -/
def vxCount (s mode : Nat) : Nat := if mode = 0 then vxN s else if mode = 1 then 1 else vxN s / 2 ^ vxSeg s
/-- A format that stochastic rounding accepts (R164). -/
def srFmt (code : Nat) : Bool := code = 0 || code = 1 || code = 6

/-- VX_FORMAT (R159, R164). -/
def vxFormatBad (op w s : Nat) : Option Nat :=
  let used := (List.range (vxSources op)).map (vxSrc w s)
  let wide := op = 0x19 && (vxSrc w s 0).fmt = 9
  if 8 < vxFmtD s || (vxStoch s && !srFmt (vxFmtD s)) then some (vxOffD w)
  else match used.find? fun x => decide (8 < x.fmt) && !(wide && !vxStoch s) with
    | some x => some x.off
    | none => if vxStoch s && vxSources op = 3 then some (vxSrc w s 2).off else none
/-- VX_SHAPE (R159, R166), counts first (log 28). A reduction whose source a has mode 1 or 2 is VX_SHAPE at off_a: R161
says only that input a is in mode 0 (DESIGN CHOICE, log 28). -/
def vxShapeBad (op w s : Nat) : Option Nat :=
  let n := vxN s
  let l := 2 ^ vxSeg s
  let a := vxSrc w s 0
  let tr := op = 0x28
  if w / 2 ^ 60 ≠ 0 || bit s 15 || n = 0 || 16384 < n || 14 < vxSeg s || n % l ≠ 0 then some 0
  else if tr && (n % 1024 ≠ 0 || vxSeg s ≠ 0 || a.fmt ≠ vxFmtD s || fmtBits a.fmt % 8 ≠ 0 || vxStoch s || vxTrack s) then some 0
  else if vxOuts op s * fmtBits (vxFmtD s) % 8 ≠ 0 then some (vxOffD w)
  else
    ((List.range 3).find? fun k =>
      let x := vxSrc w s k
      if vxSources op ≤ k then decide (x.fmt ≠ 0) || decide (x.mode ≠ 0) || (decide (x.off ≠ 0) && !(k = 2 && vxStoch s))
      else x.mode = 3 || (0x20 ≤ op && x.mode ≠ 0) || (x.mode ≠ 1 && vxCount s x.mode * fmtBits x.fmt % 8 ≠ 0)).map
      fun k => (vxSrc w s k).off
/-- Offsets that an operation uses, with their extents in bytes: destination, sources, key. -/
def vxExtents (op w s : Nat) : List (Nat × Nat) :=
  (vxOffD w, ceilDiv (vxOuts op s * fmtBits (vxFmtD s)) 8)
    :: ((List.range (vxSources op)).map fun k =>
        let x := vxSrc w s k
        (x.off, ceilDiv (vxCount s x.mode * fmtBits x.fmt) 8))
    ++ (if vxStoch s then [((vxSrc w s 2).off, 8)] else [])
/-- The checks of a VX.op in the order of R169: detail code and where. -/
def vxCheck (op w s : Nat) : Option (Nat × Nat) :=
  match vxFormatBad op w s with
  | some o => some (0x11, o)
  | none =>
    match vxShapeBad op w s with
    | some o => some (0x14, o)
    | none =>
      match (vxExtents op w s).find? fun e => e.1 % 8 ≠ 0 with
      | some e => some (0x13, e.1)
      | none => ((vxExtents op w s).find? fun e => 2 ^ 20 < e.1 + e.2).map fun e => (0x12, e.1)

/-! ## Elements -/

/-- One element at an offset (R159): its value, poison. -/
def vxLoad (c ctx off code e : Nat) (o : Over) (s : State) : (Fv × Bool) × State :=
  let b := fmtBits code
  let (g, s) := engineRead (0xA000 + c) c ctx (off + e * b / 8) ((e * b % 8 + b + 7) / 8) o s
  ((readElem code (leNat g.data / 2 ^ (e * b % 8) % 2 ^ b), g.poison), s)
/-- Elements in order. -/
def vxLoads (c ctx off code : Nat) (o : Over) : List Nat → State → List (Fv × Bool) × State
  | [], s => ([], s)
  | e :: t, s =>
    let (x, s) := vxLoad c ctx off code e o s
    let (l, s) := vxLoads c ctx off code o t s
    (x :: l, s)
/-- One encoded element stored at its bits (R159), with its poison: the other bits of a byte that it shares stay. -/
def vxStore (s : State) (c off code e : Nat) (x : Nat × Bool) (o : Over) : Over :=
  let b := fmtBits code
  let lo := windowBase c + off + e * b / 8
  let sh := e * b % 8
  let n := (sh + b + 7) / 8
  let old := if b % 8 = 0 then 0 else leNat ((List.range n).map fun k => overByte s o (lo + k))
  overPut o lo (leBytes n (old - old / 2 ^ sh % 2 ^ b * 2 ^ sh + x.1 % 2 ^ b * 2 ^ sh)) x.2
/-- Encoded elements stored from element `i` on, in order. -/
def vxStores (s : State) (c off code : Nat) : Nat → List (Nat × Bool) → Over → Over
  | _, [], o => o
  | i, x :: l, o => vxStores s c off code (i + 1) l (vxStore s c off code i x o)

/-- What finishes a value (R161): conversion by the context's mode and, with a key, by its seed. -/
structure VxEnd where
  fmt : Nat
  track : Bool
  key : Option W64
  seed : W64
  nonsat : Bool
/-- Conversion of one value of index `i`. -/
def VxEnd.conv (d : VxEnd) (i : Nat) (v : Fv) : Nat :=
  match d.key with
  | some k => srConvert d.fmt d.nonsat d.seed k i v
  | none => convertTo d.fmt d.nonsat v
/-- The tracker after values. -/
def VxEnd.follow (d : VxEnd) (t : W32) (l : List Fv) : W32 :=
  if d.track then l.foldl (fun t v => BitVec.ofNat 32 (trackVal t.toNat v)) t else t

/-- Element of source x that element `i` takes (R159). -/
def vxIndex (s mode i : Nat) : Nat := if mode = 0 then i else if mode = 1 then 0 else i / 2 ^ vxSeg s
/-- Values of one element-wise block. -/
def vxBlock (c ctx op w s : Nat) (idx : List Nat) (o : Over) (st : State) : List (Fv × Bool) × State :=
  let src := fun k (st : State) =>
    if vxSources op ≤ k then (([] : List (Fv × Bool)), st)
    else
      let x := vxSrc w s k
      vxLoads c ctx x.off x.fmt o (idx.map (vxIndex s x.mode)) st
  let (a, st) := src 0 st
  let (b, st) := src 1 st
  let (d, st) := src 2 st
  let wide := op = 0x19 && (vxSrc w s 0).fmt = 9
  ((List.range idx.length).map (fun i =>
    let x := (a[i]?).getD (.fin false 0 0, false)
    let y := (b[i]?).getD (.fin false 0 0, false)
    let z := (d[i]?).getD (.fin false 0 0, false)
    (if wide then x.1 else fmtF32.read (vxF op (bits32 x.1) (bits32 y.1) (bits32 z.1)), x.2 || y.2 || z.2)), st)

/-- Element-wise blocks of 64, in order (R160, R161): outputs and tracker. -/
def vxElementwise (c ctx op w s : Nat) (d : VxEnd) (bad : Bool) : List Nat → Over → W32 → State → Over × W32 × State
  | [], o, t, st => (o, t, st)
  | b :: rest, o, t, st =>
    let idx := (List.range (Nat.min 64 (vxN s - 64 * b))).map (64 * b + ·)
    let (vs, st) := vxBlock c ctx op w s idx o st
    let outs := (idx.zip vs).map fun e => (d.conv e.1 e.2.1, e.2.2 || bad)
    vxElementwise c ctx op w s d bad rest (vxStores st c (vxOffD w) d.fmt (64 * b) outs o) (d.follow t (vs.map (·.1))) st

/-- Segments reduced in order, each output stored before the next segment is loaded. -/
def vxSegments (c ctx op w s : Nat) (d : VxEnd) (bad : Bool) : List Nat → Over → W32 → State → Over × W32 × State
  | [], o, t, st => (o, t, st)
  | j :: rest, o, t, st =>
    let x := vxSrc w s 0
    let l := 2 ^ vxSeg s
    let (vs, st) := vxLoads c ctx x.off x.fmt o ((List.range l).map (j * l + ·)) st
    let v := fmtF32.read (vxReduce op (vs.map fun e => bits32 e.1))
    vxSegments c ctx op w s d bad rest (vxStore st c (vxOffD w) d.fmt j (d.conv j v, bad || vs.any (·.2)) o)
      (d.follow t [v]) st

/-- Tiles of 32 × 32 transposed in order. -/
def vxTiles (c ctx w s : Nat) (d : VxEnd) : List Nat → Over → State → Over × State
  | [], o, st => (o, st)
  | t :: rest, o, st =>
    let x := vxSrc w s 0
    let (vs, st) := vxLoads c ctx x.off x.fmt o ((List.range 1024).map (t * 1024 + ·)) st
    let outs := (List.range 1024).map fun k =>
      let e := (vs[k % 32 * 32 + k / 32]?).getD (.fin false 0 0, false)
      (convertTo d.fmt d.nonsat e.1, e.2)
    vxTiles c ctx w s d rest (vxStores st c (vxOffD w) d.fmt (t * 1024) outs o) st

/-- The group's vector tracker. -/
def trackerOf (s : State) (c slot : Nat) : W32 := ((s.group c slot).map (·.vtracker)).getD 0
/-- The tracker of the instruction's group, if it is still there. -/
def setTracker (c : Nat) (o : EngOp) (t : W32) (s : State) : State :=
  match s.group c o.slot with
  | some g => if g.ctx = o.ctx && g.seq = o.seq then putGroup c o.slot { g with vtracker := t } s else s
  | none => s

/-- A VX.op (R161). -/
def vxOp (c op : Nat) (o : EngOp) (st : State) : EngRes :=
  let w := o.a.toNat
  let s := o.b.toNat
  match vxCheck op w s with
  | some (code, at_) => .fault code (some at_)
  | none =>
    let (k, st) := if vxStoch s then
        let (g, st) := engineRead (0xA000 + c) c o.ctx (vxSrc w s 2).off 8 [] st
        (some g, st)
      else (none, st)
    let d : VxEnd :=
      { fmt := vxFmtD s, track := vxTrack s, key := k.map fun g => BitVec.ofNat 64 (leNat g.data), seed := seedOf st o.ctx
        nonsat := nonsatOf st o.ctx }
    let bad := k.any (·.poison)
    let t := trackerOf st c o.slot
    if op = 0x28 then
      let (ovr, st) := vxTiles c o.ctx w s d (List.range (vxN s / 1024)) [] st
      .ok (overWrite ovr st)
    else if 0x20 ≤ op then
      let (ovr, t, st) := vxSegments c o.ctx op w s d bad (List.range (vxOuts op s)) [] t st
      .ok (setTracker c o t (overWrite ovr st))
    else
      let (ovr, t, st) := vxElementwise c o.ctx op w s d bad (List.range (ceilDiv (vxN s) 64)) [] t st
      .ok (setTracker c o t (overWrite ovr st))

/-! ## Update programs (R171 to R173) -/

/-- An operation entry (Table 06-7). -/
structure UpdOp where
  op : Nat
  dst : Nat
  srcs : List Nat
  stoch : Bool
  track : Bool
  deriving DecidableEq, Repr
/-- A stream descriptor (Table 06-8). -/
structure UpdStream where
  dir : Nat
  fmt : Nat
  off : Nat
  deriving DecidableEq, Repr
/-- A program block (Table 06-6). -/
structure UpdProg where
  ops : List UpdOp
  count : Nat
  imm : List Nat
  streams : List UpdStream
  key : W64
  deriving DecidableEq, Repr
def updProg (b : List Byte) : UpdProg :=
  let count := leAt b 232 1
  { count
    ops := (List.range (Nat.min count 16)).map fun e =>
      { op := leAt b (8 * e) 1, dst := leAt b (8 * e + 1) 1, srcs := (List.range 3).map fun k => leAt b (8 * e + 2 + k) 1
        stoch := bit (leAt b (8 * e + 5) 1) 0, track := bit (leAt b (8 * e + 5) 1) 1 }
    imm := (List.range 16).map fun k => leAt b (128 + 4 * k) 4
    streams := (List.range 8).map fun k =>
      let w := leAt b (192 + 4 * k) 4
      { dir := fld w 24 2, fmt := fld w 20 4, off := fld w 0 20 }
    key := BitVec.ofNat 64 (leAt b 224 8) }
def UpdProg.stream (p : UpdProg) (k : Nat) : UpdStream := (p.streams[k]?).getD ⟨0, 0, 0⟩

/-- A selector of a source: stream, temporary or immediate. -/
def selOk (v : Nat) : Bool := v < 8 || (0x10 ≤ v && v < 0x18) || (0x20 ≤ v && v < 0x30)
/-- Bytes of a stream of `n` elements. -/
def UpdStream.bytes (z : UpdStream) (n : Nat) : Nat := ceilDiv (n * fmtBits z.fmt) 8
/-- The program checks of R173; a stream whose format or offset breaks Table 06-8 fails with them (log 28). -/
def UpdProg.ok (p : UpdProg) (n : Nat) : Bool :=
  let reads := p.ops.map fun o => (o, o.srcs.take (vxSources o.op))
  let used := p.streams.filter (·.dir ≠ 0)
  decide (1 ≤ p.count) && decide (p.count ≤ 16) && p.ops.all (fun o => decide (o.op ≤ 0x19))
    && reads.all (fun e => e.2.all selOk && (e.1.srcs.drop (vxSources e.1.op)).all (· = 0xFF))
    && (List.range p.ops.length).all (fun i => match reads[i]? with
        | some e => e.2.all fun v => !(0x10 ≤ v && v < 0x18) || (p.ops.take i).any (·.dst = v)
        | none => true)
    && reads.all (fun e => e.2.all fun v => !(v < 8) || bit (p.stream v).dir 0)
    && p.ops.all (fun o => o.dst < 8 || (0x10 ≤ o.dst && o.dst < 0x18))
    && (List.range 8).all (fun k => decide ((p.ops.filter (·.dst = k)).length = b01 (bit (p.stream k).dir 1)))
    && used.all (fun z => decide (z.fmt ≤ 8) && z.off % 8 = 0 && n * fmtBits z.fmt % 8 = 0 && decide (z.off + z.bytes n ≤ 2 ^ 20))
    && (List.range 8).all (fun i => (List.range i).all fun j =>
        let x := p.stream i
        let y := p.stream j
        x.dir = 0 || y.dir = 0 || x.off + x.bytes n ≤ y.off || y.off + y.bytes n ≤ x.off)
    && p.ops.all (fun o => !o.stoch || (o.dst < 8 && srFmt (p.stream o.dst).fmt))

/-- Values of an element of the streams that are read: stream, binary32 pattern, poison. -/
def updReads (c ctx i : Nat) (p : UpdProg) : List Nat → State → List (Nat × Nat × Bool) × State
  | [], s => ([], s)
  | k :: t, s =>
    if bit (p.stream k).dir 0 then
      let (x, s) := vxLoad c ctx (p.stream k).off (p.stream k).fmt i [] s
      let (l, s) := updReads c ctx i p t s
      ((k, bits32 x.1, x.2) :: l, s)
    else updReads c ctx i p t s
/-- One element through a program (R172): outputs by stream with their poison, and tracked values. -/
def updElement (p : UpdProg) (seed : W64) (nonsat : Bool) (i : Nat) (reads : List (Nat × Nat × Bool)) :
    List (Nat × Nat × Bool) × List Fv :=
  let (_, out, tr) := ((List.range p.ops.length).zip p.ops).foldl
    (fun (x : Tab (Nat × Bool) × List (Nat × Nat × Bool) × List Fv) eo =>
      let (t, out, tr) := x
      let o := eo.2
      let val := fun v =>
        if v < 8 then ((reads.find? (·.1 = v)).map (·.2)).getD (0, false)
        else if v < 0x18 then lookD t v (0, false) else ((p.imm[v - 0x20]?).getD 0, false)
      let vs := (o.srcs.take (vxSources o.op)).map val
      let g := fun k => ((vs[k]?).map (·.1)).getD 0
      let v := vxF o.op (g 0) (g 1) (g 2)
      let bad := vs.any (·.2)
      let tr := if o.track then tr ++ [fmtF32.read v] else tr
      if 0x10 ≤ o.dst then (put t o.dst (v, bad), out, tr)
      else
        let key := if o.stoch then some (p.key + BitVec.ofNat 64 (eo.1 * 2 ^ 56)) else none
        let d : VxEnd := { fmt := (p.stream o.dst).fmt, track := false, key, seed, nonsat }
        (t, out ++ [(o.dst, d.conv i (fmtF32.read v), bad)], tr)) ([], [], [])
  (out, tr)
/-- Every element, in order: outputs and tracked values. -/
def updElements (c ctx : Nat) (p : UpdProg) (seed : W64) (nonsat : Bool) : List Nat → State →
    List (List (Nat × Nat × Bool)) × List Fv × State
  | [], s => ([], [], s)
  | i :: t, s =>
    let (r, s) := updReads c ctx i p (List.range 8) s
    let (out, tr) := updElement p seed nonsat i r
    let (l, tr', s) := updElements c ctx p seed nonsat t s
    (out :: l, tr ++ tr', s)

/-- A VX.UPD (R172). Every bit of rs1 counts: an offset above the scratchpad is VX_RANGE, where the spec says neither that
bits above 19 are ignored nor that they must be zero (DESIGN CHOICE, log 28). -/
def vxUpd (c : Nat) (o : EngOp) (s : State) : EngRes :=
  let off := o.a.toNat
  let n := o.b.toNat
  if off % 64 ≠ 0 then .fault 0x13 (some off)
  else if 2 ^ 20 < off + 256 then .fault 0x12 (some off)
  else if n = 0 || 16384 < n then .fault 0x14 (some 0)
  else
    let (g, s) := engineRead (0xA000 + c) c o.ctx off 256 [] s
    let p := updProg g.data
    if !p.ok n then .fault 0x15 (some off)
    else
      let (rows, tr, s) := updElements c o.ctx p (seedOf s o.ctx) (nonsatOf s o.ctx) (List.range n) s
      let ovr := (List.range 8).foldl (fun ovr k =>
        let z := p.stream k
        if bit z.dir 1 then
          let vals := rows.map fun r => ((r.find? (·.1 = k)).map fun e => (e.2.1, e.2.2 || g.poison)).getD (0, false)
          vxStores s c z.off z.fmt 0 vals ovr
        else ovr) ([] : Over)
      let t := tr.foldl (fun t v => BitVec.ofNat 32 (trackVal t.toNat v)) (trackerOf s c o.slot)
      .ok (setTracker c o t (overWrite ovr s))

/-- What a vector instruction does; VX.TRK writes its group's rd and lets it go on (R165). -/
def vxRun (c : Nat) (o : EngOp) (s : State) : EngRes :=
  let w := o.w.toNat
  match wF3 w with
  | 0 => vxOp c (wF7 w) o s
  | 2 => vxUpd c o s
  | _ =>
    match s.group c o.slot with
    | some g =>
      if g.wait = .engine true then
        .ok (putGroup c o.slot ({ g with wait := .none, vtracker := 0 }.setAll (wRd w) (g.vtracker.setWidth 64)) s)
      else .ok s
    | none => .ok s

/-! ## The end of a queued instruction -/

/-- The instruction that a vector engine works on: in a beat with a FIRM vector slice on the core that slice's first;
else the head (R168). -/
def vxNext (s : State) (c : Nat) : Option EngOp :=
  let q := (s.core c).vxq
  let firm := (firmOn s c s.beat).filter fun p => p.cost.vector ≠ 0
  match q.find? fun o => firm.any o.of with
  | some o => some o
  | none => q.head?
/-- A queued instruction takes effect whole, its results are visible, and it leaves its queue (R123, R167, log 14); a
check that fails raises ENGINE_FAULT (R124, R169); an AT.SUB that must wait stays at the head (R131). -/
def engineEnd (c : Nat) (vec : Bool) (s : State) : State :=
  match if vec then vxNext s c else mxNext s c with
  | none => s
  | some o => if !vec && o.isAt then useRegion (regionOfCore c) (atSubmit c o s) else
    let s := if vec then s.setCore c fun k => { k with vxq := dropFirst (· = o) k.vxq }
      else mxTake c o (s.setCore c fun k => { k with mxq := dropFirst (· = o) k.mxq })
    let s := useRegion (regionOfCore c) s
    match if vec then vxRun c o s else mxRun c o s with
    | .ok t => engineDone c o t
    | .fault code at_ =>
      let (at_, s) := match at_ with
        | some a => (a, s)
        | none => let (v, s) := drawWord s; (v.toNat, s)
      engineDone c o (engineFault c (if vec then 2 else 1) code at_ o s)

/-! ## Issue (R158) -/

/-- A vector instruction of one operation enters the vector queue. -/
def issueVx (op c g : Nat) (w : W32) (s : State) : Out :=
  laneCmd [] [] (issue c g (· = .vx op) w fun _ x s => enqueue true false c g w.toNat x s) s

/-- VX_ADD (Table 06-4). -/
def execVxAdd (c g : Nat) (w : W32) (s : State) : Out := issueVx 0x00 c g w s
/-- VX_SUB (Table 06-4). -/
def execVxSub (c g : Nat) (w : W32) (s : State) : Out := issueVx 0x01 c g w s
/-- VX_MUL (Table 06-4). -/
def execVxMul (c g : Nat) (w : W32) (s : State) : Out := issueVx 0x02 c g w s
/-- VX_FMA (Table 06-4). -/
def execVxFma (c g : Nat) (w : W32) (s : State) : Out := issueVx 0x03 c g w s
/-- VX_DIV (Table 06-4). -/
def execVxDiv (c g : Nat) (w : W32) (s : State) : Out := issueVx 0x04 c g w s
/-- VX_SQRT (Table 06-4). -/
def execVxSqrt (c g : Nat) (w : W32) (s : State) : Out := issueVx 0x05 c g w s
/-- VX_RCP (Table 06-4). -/
def execVxRcp (c g : Nat) (w : W32) (s : State) : Out := issueVx 0x06 c g w s
/-- VX_RSQRT (Table 06-4). -/
def execVxRsqrt (c g : Nat) (w : W32) (s : State) : Out := issueVx 0x07 c g w s
/-- VX_EXP2 (Table 06-4). -/
def execVxExp2 (c g : Nat) (w : W32) (s : State) : Out := issueVx 0x08 c g w s
/-- VX_LOG2 (Table 06-4). -/
def execVxLog2 (c g : Nat) (w : W32) (s : State) : Out := issueVx 0x09 c g w s
/-- VX_EXP (Table 06-4). -/
def execVxExp (c g : Nat) (w : W32) (s : State) : Out := issueVx 0x0A c g w s
/-- VX_LOG (Table 06-4). -/
def execVxLog (c g : Nat) (w : W32) (s : State) : Out := issueVx 0x0B c g w s
/-- VX_TANH (Table 06-4). -/
def execVxTanh (c g : Nat) (w : W32) (s : State) : Out := issueVx 0x0C c g w s
/-- VX_SIGM (Table 06-4). -/
def execVxSigm (c g : Nat) (w : W32) (s : State) : Out := issueVx 0x0D c g w s
/-- VX_ABS (Table 06-4). -/
def execVxAbs (c g : Nat) (w : W32) (s : State) : Out := issueVx 0x0E c g w s
/-- VX_NEG (Table 06-4). -/
def execVxNeg (c g : Nat) (w : W32) (s : State) : Out := issueVx 0x0F c g w s
/-- VX_MAX (Table 06-4). -/
def execVxMax (c g : Nat) (w : W32) (s : State) : Out := issueVx 0x10 c g w s
/-- VX_MIN (Table 06-4). -/
def execVxMin (c g : Nat) (w : W32) (s : State) : Out := issueVx 0x11 c g w s
/-- VX_EQ (Table 06-4). -/
def execVxEq (c g : Nat) (w : W32) (s : State) : Out := issueVx 0x12 c g w s
/-- VX_NE (Table 06-4). -/
def execVxNe (c g : Nat) (w : W32) (s : State) : Out := issueVx 0x13 c g w s
/-- VX_LT (Table 06-4). -/
def execVxLt (c g : Nat) (w : W32) (s : State) : Out := issueVx 0x14 c g w s
/-- VX_LE (Table 06-4). -/
def execVxLe (c g : Nat) (w : W32) (s : State) : Out := issueVx 0x15 c g w s
/-- VX_GT (Table 06-4). -/
def execVxGt (c g : Nat) (w : W32) (s : State) : Out := issueVx 0x16 c g w s
/-- VX_GE (Table 06-4). -/
def execVxGe (c g : Nat) (w : W32) (s : State) : Out := issueVx 0x17 c g w s
/-- VX_SEL (Table 06-4). -/
def execVxSel (c g : Nat) (w : W32) (s : State) : Out := issueVx 0x18 c g w s
/-- VX_CVT (Table 06-4). -/
def execVxCvt (c g : Nat) (w : W32) (s : State) : Out := issueVx 0x19 c g w s
/-- VX_RSUM (Table 06-4). -/
def execVxRsum (c g : Nat) (w : W32) (s : State) : Out := issueVx 0x20 c g w s
/-- VX_RMAX (Table 06-4). -/
def execVxRmax (c g : Nat) (w : W32) (s : State) : Out := issueVx 0x21 c g w s
/-- VX_RMIN (Table 06-4). -/
def execVxRmin (c g : Nat) (w : W32) (s : State) : Out := issueVx 0x22 c g w s
/-- VX_TR32 (Table 06-4). -/
def execVxTr32 (c g : Nat) (w : W32) (s : State) : Out := issueVx 0x28 c g w s
/-- VX_TRK (R165): the group waits for its result. -/
def execVxTrk (c g : Nat) (w : W32) (s : State) : Out :=
  laneCmd [] [] (issue c g (· = .vxTrk) w fun _ x s => enqueue true true c g w.toNat x s) s
/-- VX_UPD (R171). -/
def execVxUpd (c g : Nat) (w : W32) (s : State) : Out :=
  laneCmd [] [] (issue c g (· = .vxUpd) w fun _ x s => enqueue true false c g w.toNat x s) s

end Sys2Proof.Machine
end

