-- ==== Sys2Proof/Machine/Costs.lean ====
section
/-! DEFINITION. What an item brings with it: its fields (Tables 15-5, 15-6, 16-4, 16-5), slice records, cost records (R54,
Tables 02-10, 02-11), footprints (R472), and the cost that firmware computes for a copy (R208, R210, R211, R473). -/

namespace Sys2Proof.Machine

open Sys2Proof

/-- The item of a context that is to run or runs: the first that has not ended (R196). -/
def frontItem (s : State) (c : Nat) : Option (Ctx × Item) :=
  match s.ctx c with
  | some x => if x.stopped then none else (x.items.find? (·.phase < 3)).map (x, ·)
  | none => none

/-- Order of service (R67): class, target beat among SOFT items, age. -/
def moreUrgent (a b : Item) : Bool :=
  if a.cls ≠ b.cls then decide (a.cls < b.cls)
  else if a.cls = 1 && a.target ≠ b.target then decide (a.target < b.target) else decide (a.age < b.age)
/-- An item in its place among others, the most urgent first. -/
def insertUrgent (e : Nat × Item) : List (Nat × Item) → List (Nat × Item)
  | [] => [e]
  | d :: t => if moreUrgent e.2 d.2 then e :: d :: t else d :: insertUrgent e t

/-! ## Fields of an entry's body -/

/-- Every byte of a range is zero. -/
def zeroAt (b : List Byte) (off n : Nat) : Bool := (slice b off n).all (· = 0)
/-- A write hint (Table 13-5 byte 32). -/
def hintOk (v : Nat) : Bool := fld v 5 2 = 0 && (!bit v 7 || decide (v % 32 < 20))
/-- Bytes of an element of a copy format (R371); 0 for none. -/
def copySize (code : Nat) : Nat :=
  if code = 0 || code = 1 || code = 5 || code = 0xC then 1 else if code = 6 || code = 7 || code = 0xD then 2
  else if code = 8 || code = 0xE then 4 else if code = 9 || code = 0xF then 8 else 0
/-- Element formats of a collective (Table 16-5). -/
def collSize (code : Nat) : Nat := if code = 6 || code = 7 || 0xC ≤ code then copySize code else if code = 8 || code = 9 then copySize code else 0

/-- A live job on this package, in a partition (R399). -/
def jobLive (s : State) (job part : Nat) : Bool := s.peer.jobs.any fun j => j.id = job && j.part = part && decide (j.state < 3)
def jobOf (s : State) (job : Nat) : Option Job := s.peer.jobs.find? (·.id = job)

/-- The header keeps Table 15-5. -/
def headerOk (b : List Byte) : Bool :=
  let kind := leAt b 0 1
  decide (1 ≤ kind) && decide (kind ≤ 8) && decide (leAt b 1 1 ≤ 2) && decide (leAt b 2 1 ≤ 1) && zeroAt b 3 5
    && (leAt b 1 1 ≠ 2 || leAt b 8 8 = 0)
/-- The fields of a kind keep Tables 15-6, 16-4 and 16-5 (R353, R371, R372, R384). -/
def fieldsOk (b : List Byte) : Bool :=
  let f := leAt b
  match f 0 1 with
  | 1 => decide (1 ≤ f 40 2) && decide (f 40 2 ≤ 4096) && decide (1 ≤ f 42 1) && decide (f 42 1 ≤ 32) && decide (f 43 1 ≤ 32)
      && ((f 43 1 = 0) == (f 44 4 = 0)) && zeroAt b 48 64
  | 2 =>
    let a := f 64 1 % 16
    let d := f 64 1 / 16
    decide (1 ≤ f 56 4) && decide (f 56 4 ≤ 2 ^ 24) && decide (1 ≤ f 60 4) && decide (f 60 4 ≤ 2 ^ 24)
      && decide (copySize a ≠ 0) && decide (copySize d ≠ 0) && ((0xC ≤ a) == (0xC ≤ d)) && (a < 0xC || a = d)
      && decide (f 65 1 ≤ 1) && hintOk (f 66 1) && zeroAt b 67 45
      && (f 65 1 = 0 || (f 56 4 % 32 = 0 && f 60 4 % 32 = 0))
  | 3 => decide (f 24 1 ≤ 1) && hintOk (f 25 1) && zeroAt b 26 6 && f 32 8 % 4 = 0 && f 40 8 % 4 = 0 && f 48 8 % 4 = 0
      && decide (4 ≤ f 48 8) && decide (f 48 8 ≤ 2 ^ 40) && zeroAt b 56 56
  | 4 => decide (1 ≤ f 40 2) && decide (f 40 2 ≤ 4096) && zeroAt b 42 70
  | 5 =>
    let op := f 24 1
    let code := f 26 1
    decide (op ≤ 4) && decide (f 25 1 ≤ 2) && hintOk (f 27 1) && zeroAt b 38 2 && zeroAt b 64 48
      && (op = 4 || (decide (collSize code ≠ 0) && (decide (code < 0xC) || op = 2 || op = 3) && f 40 8 % 256 = 0
          && f 48 8 % 256 = 0 && f 56 8 * collSize code % 256 = 0))
  | 6 =>
    let op := f 24 1
    decide (op ≤ 3) && (decide (f 25 1 ≤ 15) || f 25 1 = 0xFF) && hintOk (f 26 1) && decide (f 27 1 ≤ 1) && zeroAt b 34 6
      && f 40 8 % 256 = 0 && f 48 8 % 256 = 0 && zeroAt b 72 40
      && (op = 2 || (f 56 8 % 256 = 0 && decide (256 ≤ f 56 8) && decide (f 56 8 ≤ 2 ^ 40)))
  | 7 => f 24 8 % 8 = 0 && decide (f 40 1 ≤ 1) && zeroAt b 41 3 && (f 1 1 = 0 || zeroAt b 44 12) && zeroAt b 56 56
  | _ => f 24 8 % 8 = 0 && decide (f 40 1 ≤ 1) && zeroAt b 41 71
/-- The job, and in it the member, that an item names is there (R399, R384). -/
def jobOk (s : State) (part : Nat) (i : Item) : Bool :=
  if i.kind = 5 || i.kind = 6 then
    jobLive s i.job part && (i.kind = 5 || (jobOf s i.job).any fun j => decide (i.f 32 2 < j.members.length))
  else i.job = 0 || jobLive s i.job part

/-! ## Structures in memory -/

/-- The Nose, as the engine that reads an item's structures and performs its flag (Tables 11-4, 11-10). -/
def noseOf (c : Nat) (x : Ctx) : Engine := { die := 24, code := 6, ctx := c, asid := x.asid, part := x.part, stall := .nose c }
/-- Bytes at a virtual address; none where an access would fault or end with an error status (log 30). -/
def vaRead (e : Engine) (va n : Nat) (s : State) : Option Got × State :=
  match reachRange e { rd := true } va n {} s with
  | (r, t) => if !r.faults.isEmpty || r.bad.isSome then (none, s) else
    let (g, t) := reachRead false r.at_ t
    (some g, t)
/-- The same, where a poisoned line cannot be used either. -/
def vaGood (e : Engine) (va n : Nat) (s : State) : Option (List Byte) × State :=
  match vaRead e va n s with
  | (some g, s) => (if g.poison then none else some g.data, s)
  | (none, s) => (none, s)

/-- A run of pages of 64 MiB and the accesses made there: bit 0 read, bit 1 write, bit 2 fetch (R472). -/
abbrev PageRun := Nat × Nat × Nat
/-- Pages of a range. -/
def pageRun' (va n kinds : Nat) : List PageRun :=
  if n = 0 then [] else [(va / 2 ^ 26, (va + n - 1) / 2 ^ 26 - va / 2 ^ 26 + 1, kinds)]
/-- Entries of a footprint list, from an address, up to its end; none where it breaks R472 (log 31 bounds its length). -/
def footList (e : Engine) (va : Nat) : Nat → State → Option (List PageRun) × State
  | 0, s => (none, s)
  | n + 1, s =>
    match vaGood e va 16 s with
    | (none, s) => (none, s)
    | (some b, s) =>
      if leAt b 8 4 = 0 then (some [], s)
      else if leAt b 0 8 % 2 ^ 26 ≠ 0 || 8 ≤ leAt b 12 1 || !zeroAt b 13 3 then (none, s)
      else match footList e (va + 16) n s with
        | (some l, s) => (some ((leAt b 0 8 / 2 ^ 26, leAt b 8 4, leAt b 12 1) :: l), s)
        | (none, s) => (none, s)

/-- Units that a cost takes of one resource: 8 for a streaming line of a stack and 3 for a random sector; lines; slots. -/
def Cost.uses (k : Cost) (kind index : Nat) : Nat :=
  ((k.entries.filter fun e => e.kind = kind && e.index = index).map fun e =>
    if kind = 1 then 8 * e.lines + 3 * e.rand else e.lines).sum
/-- Indices of a kind that a cost names, rising. -/
def Cost.indices (k : Cost) (kind : Nat) : List Nat :=
  ((k.entries.filter (·.kind = kind)).map (·.index)).foldl (fun l i => addSorted i l) []
/-- Link group of a Felt link index (Table 02-13) and whether it counts towards the named die. -/
def feltGroup (idx : Nat) : Option Nat :=
  let kind := fld idx 8 7
  let d := fld idx 0 8
  if kind = 0 && d < 16 then some d else if kind = 1 && d < 16 then some (24 + d)
  else if kind = 2 && d < 4 then some (16 + d) else if kind = 3 && d < 4 then some (20 + d) else none
/-- A resource entry (Table 02-11) of a partition's item. -/
def entryOk (q : Partition) (b : List Byte) : Bool :=
  let idx := leAt b 2 2
  zeroAt b 1 1 && zeroAt b 12 4
    && (match leAt b 0 1 with
        | 1 => decide (idx < 16) && q.brims.getLsbD idx
        | 2 => (feltGroup idx).isSome && leAt b 8 4 = 0
        | 3 => decide (idx < 16) && leAt b 8 4 = 0
        | _ => false)
/-- A cost record's header (Table 02-10) of an item kind in a partition. -/
def costHeadOk (q : Partition) (kind : Nat) (b : List Byte) : Bool :=
  leAt b 0 2 = 1 && decide (leAt b 2 2 ≤ 64) && leAt b 4 1 = kind && decide (1 ≤ leAt b 5 1) && decide (leAt b 5 1 ≤ 16)
    && zeroAt b 6 2 && decide (leAt b 16 4 ≤ 2 ^ 20) && zeroAt b 34 2 && zeroAt b 48 16 && leAt b 40 8 % 16 = 0
    && (bitsOf 64 (leAt b 24 8)).all fun r => q.brims.getLsbD (r / 4)
/-- A cost record at an address, with the pages that it and its footprint list take up and name; none where it cannot be
read or breaks its layout (R54, R372, R472). -/
def readCost (e : Engine) (q : Partition) (kind va : Nat) (s : State) : Option (Cost × List PageRun) × State :=
  match vaGood e va 64 s with
  | (none, s) => (none, s)
  | (some h, s) =>
    if !costHeadOk q kind h then (none, s)
    else
      let n := leAt h 2 2
      match (if n = 0 then (some [], s) else vaGood e (va + 64) (16 * n) s) with
      | (none, s) => (none, s)
      | (some t, s) =>
        let es := (List.range n).map fun k => slice t (16 * k) 16
        if !es.all (entryOk q) then (none, s)
        else
          let fva := leAt h 40 8
          match (if fva = 0 then (some [], s) else footList e fva 65536 s) with
          | (none, s) => (none, s)
          | (some foot, s) =>
            let k : Cost :=
              { kind, slots := leAt h 5 1, array := leAt h 8 4, vector := leAt h 12 4, scratch := leAt h 16 4
                energy := leAt h 20 4, regions := BitVec.ofNat 64 (leAt h 24 8), cores := BitVec.ofNat 16 (leAt h 32 2)
                crown := leAt h 36 4, footprint := fva
                entries := es.map fun b => { kind := leAt b 0 1, index := leAt b 2 2, lines := leAt b 4 4, rand := leAt b 8 4 } }
            let own := pageRun' va (64 + 16 * n) 1 ++ (if fva = 0 then [] else pageRun' fva (16 * (foot.length + 1)) 1)
            (some (k, own ++ foot), s)

/-- What is known of an item's slices once their records are read. -/
structure Slices where
  args : List Nat := []
  costs : List Cost := []
  pages : List PageRun := []
  /-- First slice whose cost record is bad. -/
  bad : Option Nat := none
  deriving DecidableEq, Repr

/-- Slice records (Table 15-6) and their cost records, from slice `k`. -/
def readSlices (e : Engine) (q : Partition) (kind tab : Nat) : Nat → Nat → State → Slices × State
  | _, 0, s => ({}, s)
  | k, n + 1, s =>
    match vaGood e (tab + 16 * k) 16 s with
    | (none, s) => ({ bad := some k }, s)
    | (some b, s) =>
      match readCost e q kind (leAt b 8 8) s with
      | (none, s) => ({ bad := some k }, s)
      | (some (c, p), s) =>
        let (r, s) := readSlices e q kind tab (k + 1) n s
        ({ r with args := leAt b 0 8 :: r.args, costs := c :: r.costs, pages := p ++ r.pages }, s)

/-! ## Copies (R208, R210, R211, R473) -/

/-- Rows and row lengths of a copy's source and destination: base, stride, rows, bytes. -/
def Item.copySrc (i : Item) : Nat × Nat × Nat × Nat := (i.f 24 8, i.f 40 8, i.f 56 4, i.f 60 4 * copySize (i.f 64 1 % 16))
def Item.copyDst (i : Item) : Nat × Nat × Nat × Nat :=
  if i.f 65 1 = 1 then (i.f 32 8, i.f 48 8, i.f 60 4, i.f 56 4 * copySize (i.f 64 1 / 16))
  else (i.f 32 8, i.f 48 8, i.f 56 4, i.f 60 4 * copySize (i.f 64 1 / 16))
/-- Pieces of lines that the rows of one side touch. -/
def rowPieces (r : Nat × Nat × Nat × Nat) : List (Nat × Nat) :=
  (List.range r.2.2.1).flatMap fun i => linePieces ((r.1 + i * r.2.1) % 2 ^ 64) r.2.2.2

/-- Device address of a virtual address, where a cached or walked leaf gives one. -/
def devAt (c : Nat) (x : Ctx) (va : Nat) (acc : Acc) (s : State) : Option Nat :=
  match (translate (noseOf c x) va acc s).1 with
  | .dev a => some a
  | _ => none
/-- The Brim die whose copy engines run a copy (R473); a first line that does not translate leaves the lowest of the
partition (log 32). -/
def copyDie (c : Nat) (x : Ctx) (i : Item) (s : State) : Nat :=
  let lowest := (((s.part x.part).map (·.brimList)).getD []).headD 0
  let dieAt := fun va acc =>
    match devAt c x va acc s with
    | some a => (match placeOf s a with | .stack k => some k | .window w => some (dieOfCore w) | _ => none)
    | none => none
  (dieAt (i.f 24 8) { rd := true }).getD ((dieAt (i.f 32 8) { wr := true }).getD lowest)

/-- One sum of a cost record's entries. -/
def addEntry (kind index lines rand : Nat) (l : List CostEntry) : List CostEntry :=
  if l.any fun e => e.kind = kind && e.index = index then
    l.map fun e => if e.kind = kind && e.index = index then { e with lines := e.lines + lines, rand := e.rand + rand } else e
  else l ++ [({ kind := kind, index := index, lines := lines, rand := rand } : CostEntry)]
/-- Felt lines between two dies, for one line carried: out of one, into the other, and switched by the Crown (R211). A line on
its way to its destination crosses a ring module that joins the dies; every other crosses the Crown (R473). -/
def addPath (s : State) (ring : Bool) (from_ dst : Nat) (k : Cost) : Cost :=
  let idx := fun d (towards : Bool) =>
    (if towards then 2 ^ 15 else 0) + (if d < 16 then d else if d < 20 then 2 * 256 + (d - 16) else 3 * 256 + (d - 20))
  if from_ = dst then k
  else match ringOf from_ dst with
    | some g =>
      if ring && groupServes s g = 0 && s.partOfBrim from_ = s.partOfBrim dst then
        { k with entries := addEntry 2 ((if g - 24 = from_ then 0 else 2 ^ 15) + 256 + (g - 24)) 1 0 k.entries }
      else { k with crown := k.crown + 1, entries := addEntry 2 (idx dst true) 1 0 (addEntry 2 (idx from_ false) 1 0 k.entries) }
    | none =>
      let es := if from_ < 24 then addEntry 2 (idx from_ false) 1 0 k.entries else k.entries
      { k with crown := k.crown + 1, entries := if dst < 24 then addEntry 2 (idx dst true) 1 0 es else es }
/-- Lines that the rows of one side touch, each with the bytes touched as a mask. -/
def lineMasks (r : Nat × Nat × Nat × Nat) : Tab Nat :=
  (rowPieces r).foldl (fun t p =>
    putD t (p.1 / 256) (lookD t (p.1 / 256) 0 ||| (2 ^ (p.1 % 256 + p.2) - 2 ^ (p.1 % 256))) 0) []
/-- Sectors of 32 bytes that a mask touches. -/
def sectorsOf (mask : Nat) : Nat := ((List.range 8).filter fun k => mask / 2 ^ (32 * k) % 2 ^ 32 ≠ 0).length
/-- The cost of one line that a copy reads or writes (R208): line number of its virtual address, and the bytes touched. -/
def copyLine (c : Nat) (x : Ctx) (die : Nat) (write : Bool) (p : Nat × Nat) (s : State) (k : Cost) : Cost :=
  match devAt c x (p.1 * 256) (if write then { wr := true } else { rd := true }) s with
  | none => k
  | some a =>
    let k := match placeOf s a with
      | .stack z =>
        if write then { k with entries := addEntry 1 z (if p.2 = 2 ^ 256 - 1 then 1 else 3) 0 k.entries }
        else if 3 ≤ sectorsOf p.2 then { k with entries := addEntry 1 z 1 0 k.entries }
        else { k with entries := addEntry 1 z 0 (sectorsOf p.2) k.entries }
      | _ => k
    if write then addPath s true die (homeDie s a) k else addPath s false (homeDie s a) die k
/-- The cost that firmware computes for a copy item: each line that it touches once, no cores and no energy (R211). -/
def copyCost (c : Nat) (x : Ctx) (i : Item) (s : State) : Cost :=
  let die := copyDie c x i s
  let k := (lineMasks i.copySrc).foldl (fun k p => copyLine c x die false p s k) { kind := 2, slots := 0 }
  (lineMasks i.copyDst).foldl (fun k p => copyLine c x die true p s k) k

/-! ## Footprints (R472) -/

/-- Range lists end at a count of 0 (Table 15-6). -/
def rangeList (e : Engine) (va : Nat) : Nat → State → Option (List (Nat × Nat × Nat)) × State
  | 0, s => (none, s)
  | n + 1, s =>
    match vaGood e va 24 s with
    | (none, s) => (none, s)
    | (some b, s) =>
      if leAt b 16 8 = 0 then (some [], s)
      else match rangeList e (va + 24) n s with
        | (some l, s) => (some ((leAt b 0 4, leAt b 8 8, leAt b 16 8) :: l), s)
        | (none, s) => (none, s)
/-- Pages of an update's call block, range lists and shards. -/
def updatePages (e : Engine) (i : Item) (args : List Nat) (s : State) : List PageRun × State :=
  match vaGood e (i.f 24 8) 272 s with
  | (none, s) => (pageRun' (i.f 24 8) 272 1, s)
  | (some h, s) =>
    let n := Nat.min (leAt h 264 4) 4096
    let call := pageRun' (i.f 24 8) (272 + 80 * n) 1
    let (shards, s) := match vaGood e (i.f 24 8 + 272) (80 * n) s with
      | (some b, s) => (b, s)
      | (none, s) => ([], s)
    let p := updProg h
    let mine := (List.range n).flatMap fun j => (List.range 8).flatMap fun k =>
      let z := p.stream k
      if z.dir = 0 then [] else pageRun' (leAt shards (80 * j + 8 * k) 8) (z.bytes (leAt shards (80 * j + 64) 8)) z.dir
    let (lists, s) := args.foldl (fun (x : List PageRun × State) a =>
      match rangeList e a 65536 x.2 with
      | (some l, s) => (x.1 ++ pageRun' a (24 * (l.length + 1)) 1, s)
      | (none, s) => (x.1 ++ pageRun' a 24 1, s)) ([], s)
    (call ++ mine ++ lists, s)
/-- Members of a job. -/
def jobSize (s : State) (job : Nat) : Nat := ((jobOf s job).map (·.members.length)).getD 0
/-- Bytes that a collective reads and writes on this member (R389). -/
def collBytes (s : State) (i : Item) : Nat × Nat :=
  let n := i.f 56 8 * collSize (i.f 26 1)
  let m := jobSize s i.job
  match i.f 24 1 with
  | 0 => (n, n)
  | 1 => (m * n, n)
  | 2 => (n, m * n)
  | 3 => (if (jobOf s i.job).any (·.self = i.f 36 2) then n else 0, n)
  | _ => (0, 0)
/-- The footprint of an item whose slices have been read. -/
def footprint (e : Engine) (i : Item) (z : Slices) (s : State) : List PageRun × State :=
  match i.kind with
  | 1 => (pageRun' (i.f 32 8) (16 * i.slices) 1 ++ pageRun' (i.f 24 8) 1 4 ++ z.args.flatMap (fun a => pageRun' a 1 1) ++ z.pages, s)
  | 2 =>
    let rows := fun (r : Nat × Nat × Nat × Nat) k => (List.range r.2.2.1).flatMap fun j => pageRun' ((r.1 + j * r.2.1) % 2 ^ 64) r.2.2.2 k
    (rows i.copySrc 1 ++ rows i.copyDst 2, s)
  | 4 =>
    let (u, s) := updatePages e i z.args s
    (pageRun' (i.f 32 8) (16 * i.slices) 1 ++ z.args.flatMap (fun a => pageRun' a 1 1) ++ z.pages ++ u, s)
  | 5 => (pageRun' (i.f 40 8) (collBytes s i).1 1 ++ pageRun' (i.f 48 8) (collBytes s i).2 2 ++ z.pages, s)
  | 6 =>
    if i.f 24 1 = 2 then (z.pages, s) else (pageRun' (i.f 40 8) (i.f 56 8) (if i.f 24 1 = 0 then 1 else 2) ++ z.pages, s)
  | 7 => (pageRun' (i.f 24 8) 8 1, s)
  | 8 => (pageRun' (i.f 24 8) 8 2, s)
  | _ => ([], s)

/-- The slices of an item and their costs. No field of Tables 16-4 and 16-5 names where the cost record of a peer item or a
collective lies: that address is a free value (log 33). -/
def slicesOf (e : Engine) (c : Nat) (x : Ctx) (i : Item) (s : State) : Slices × State :=
  match s.part x.part with
  | none => ({ bad := some 0 }, s)
  | some q =>
    if i.kind = 1 || i.kind = 4 then readSlices e q i.kind (i.f 32 8) 0 i.slices s
    else if i.kind = 2 then ({ costs := [copyCost c x i s] }, s)
    else if i.kind = 5 || i.kind = 6 then
      let (a, s) := drawWord s
      match readCost e q i.kind a.toNat s with
      | (some (k, p), s) => ({ costs := [k], pages := p }, s)
      | (none, s) => ({ bad := some 0 }, s)
    else ({ costs := [{ kind := i.kind, slots := 0 }] }, s)

end Sys2Proof.Machine
end

