-- ==== Sys2Proof/Machine/Peer.lean ====
section
/-! DEFINITION. Peer ports (16): paths and packets of the Esrik transport (R380 to R383), peer items (R384 to R388) and
collectives (R389, R390) as they send and as they end. -/

namespace Sys2Proof.Machine

open Sys2Proof

/-! ## Operations (Table 16-3) -/

namespace OP
abbrev putData := 0x1
abbrev getReq := 0x2
abbrev getData := 0x3
abbrev signal := 0x4
abbrev ack := 0x5
abbrev nak := 0x6
abbrev coll := 0x7
abbrev arm := 0x8
abbrev armAck := 0x9
abbrev commit := 0xA
abbrev heartbeat := 0xB
abbrev jobStop := 0xC
abbrev childMissing := 0xD
end OP

/-! ## Paths (R382) -/

def State.path (s : State) (job peer port : Nat) : Path :=
  (s.peer.paths.find? fun z => z.job = job && z.peer = peer && z.port = port).getD { job, peer, port }
def State.setPath (s : State) (z : Path) : State :=
  let same := fun (y : Path) => y.job = z.job && y.peer = z.peer && y.port = z.port
  { s with peer := { s.peer with
    paths := if s.peer.paths.any same then s.peer.paths.map fun y => if same y then z else y else s.peer.paths ++ [z] } }
/-- The port's link is up (R379, R402). -/
def portUp (s : State) (port : Nat) : Bool := !s.peer.down.contains port && s.dieHere (20 + port / 4)
/-- Port of a control packet: the lowest-numbered one that is up (R382). -/
def controlPort (s : State) : Nat := ((List.range 16).find? (portUp s)).getD 0
def setJob (id : Nat) (f : Job → Job) (s : State) : State :=
  { s with peer := { s.peer with jobs := modFirst (·.id = id) f s.peer.jobs } }

/-- A packet given to a path: numbered, kept until acknowledged, and put on the wire where the port is up; a port that is
down holds it (R402). -/
def sendPkt (job peer port op : Nat) (cls : Nat) (last : Bool) (lines addr : Nat) (poison : BitVec 32) (words : List W64)
    (data : List Byte) (sill : List W64) (own : Option (Nat × Nat)) (s : State) : State :=
  let z := s.path job peer port
  let self := ((jobOf s job).map (·.self) <|> (s.peer.arms.find? (·.job = job)).map (·.self)).getD 0
  let pkt : OutPkt :=
    { op, words, data, sill, own
      hdr := { port, cls, last, lines, job, src := self, dst := peer, seq := z.nextSeq, ack := z.expect, poison, addr } }
  let z := if op = OP.ack then { z with owed := 0 }
    else { z with nextSeq := (z.nextSeq + 1) % 2 ^ 32, unacked := z.unacked ++ [pkt], owed := 0 }
  let s := s.setPath z
  if portUp s port then { s with peer := { s.peer with out := pkt :: s.peer.out } } else s
/-- A control packet without lines. -/
def sendControl (job peer op : Nat) (words : List W64) (s : State) : State :=
  sendPkt job peer (controlPort s) op 0 false 0 0 0 words [] [] none s
def sendAll (job op : Nat) (words : List W64) (peers : List Nat) (s : State) : State :=
  peers.foldl (fun s m => sendControl job m op words s) s
/-- NAK: the address refused, a status, and the number of the packet refused (Table 16-3). -/
def sendNak (job peer port addr status seq : Nat) (s : State) : State :=
  sendPkt job peer port OP.nak 0 false 0 addr 0 [BitVec.ofNat 64 (status + seq * 2 ^ 16)] [] [] none s
/-- A path takes a further packet (R382). -/
def pathOpen (s : State) (job peer port : Nat) : Bool := decide ((s.path job peer port).unacked.length < 256)

/-! ## Lines through locked entries (R268, R386) -/

/-- A refusal: its status, the virtual address, and the device physical address where a leaf gave one. -/
structure PeerBad where
  st : Nat
  va : Nat
  addr : Option Nat := none
  deriving DecidableEq, Repr
/-- Address of a line for a port die, or its refusal. -/
def peerAddr (port asid part va : Nat) (acc : Acc) (s : State) : Except PeerBad Nat :=
  let d := 20 + port / 4
  match (s.tcOf d).find? fun e => e.locked && e.covers asid va with
  | none => .error { st := ST.pinInvalid, va }
  | some e =>
    if (leafRefuses e.leaf acc).isSome then .error { st := ST.pinInvalid, va }
    else match leafTarget e.leaf e.big va with
      | .dev a =>
        let st := accessStatus (some part) d a {} s
        if st = ST.ok then .ok a else .error { st, va, addr := some a }
      | _ => .error { st := ST.pinInvalid, va }
/-- Addresses of lines in a run, or the first refusal. -/
def peerLines (port asid part va : Nat) (acc : Acc) (n : Nat) (s : State) : Except PeerBad (List Nat) :=
  (List.range n).foldr (fun k r =>
    match peerAddr port asid part (va + 256 * k) acc s, r with
    | .ok a, .ok l => .ok (a :: l)
    | .ok _, .error e => .error e
    | .error b, _ => .error b) (.ok [])
/-- The event of a refusal (R35, R203, R217): Table 11-10 has no engine number for a port die's engines, and it names 0
(DESIGN CHOICE, log 90). -/
def peerEvent (port ctx : Nat) (b : PeerBad) (s : State) : State :=
  match b.addr with
  | some a => if refusalLogged b.st then logRefused b.st 0 (20 + port / 4) ctx a s else s
  | none => s
/-- A window of a sleeping region, or a path that retrains, makes the access wait. -/
def peerWait (port : Nat) (addrs : List Nat) (s : State) : State :=
  addrs.foldl (fun s a =>
    let d := 20 + port / 4
    let s := if diePath s d (homeDie s a) = 1 || !reqCredit s false d (homeDie s a) then holdRun s else s
    match placeOf s a with | .window c => windowWake (regionOfCore c) s | _ => s) s
/-- Lines read as a packet carries them: bytes, poison bits, and their words, verified at the port's egress (R297). -/
def packLines (port : Nat) (addrs : List Nat) (s : State) : List Byte × BitVec 32 × List W64 × State :=
  let (d, p, w, s) := addrs.foldl (fun (x : List Byte × List Bool × List W64 × State) a =>
    let (g, s) := lineRead (lineOf a) true x.2.2.2
    (x.1 ++ g.data, x.2.1 ++ [g.poison], x.2.2.1 ++ [sillage g.data], s))
    ([], [], [], atEngine (20 + port / 4) 0 [(0x4000 + port, 3)] s)
  (d, BitVec.ofNat 32 (ofBits ((List.range p.length).filter fun k => (p[k]?).getD false)), w, s)

/-! ## What items send -/

/-- Packets of 32 lines in an item's range, and the port that carries packet `k` (R385). -/
def Item.peerPort (i : Item) (k : Nat) : Nat := if i.f 25 1 = 0xFF then k / 8 % 16 else i.f 25 1
def Item.packets (i : Item) : Nat := ceilDiv (i.f 56 8) 8192
def Item.packLines (i : Item) (k : Nat) : Nat := Nat.min 32 ((i.f 56 8 - k * 8192) / 256)
/-- The last packet of the item on its path. -/
def Item.lastPacket (i : Item) (k : Nat) : Bool :=
  (List.range (i.packets - (k + 1))).all fun d => i.peerPort (k + 1 + d) ≠ i.peerPort k

/-- The item goes on to send after packet `next`, which went out of a port. -/
def itemSent (c seq port : Nat) (s : State) : State :=
  s.setItem c seq fun i => { i with next := i.next + 1, sent := put i.sent port (lookD i.sent port 0 + 1) }
/-- The class in which a port serves an item's next packet: a FIRM item that has sent the slots of 8 packets that it declared
there for this beat is served as BULK (R55, R381). -/
def Item.sendClass (i : Item) (port : Nat) : Nat :=
  if i.cls = 0 && decide (8 * ((i.costs[i.slice]?).getD {}).uses 3 port ≤ lookD i.sent port 0) then 2 else i.cls

/-- Lines of a collective that a member sends to another: offset within the collective and line of its own source (R389). -/
def collSends (i : Item) (n self dst : Nat) : Nat × Nat × Nat :=
  match i.f 24 1 with
  | 0 => (0, 0, n)
  | 1 => (dst * n, dst * n, n)
  | 2 => (self * n, 0, n)
  | 3 => (0, 0, if self = i.f 36 2 then n else 0)
  | _ => (0, 0, 0)
/-- Lines of a collective's count. -/
def Item.collLines (i : Item) : Nat := i.f 56 8 * collSize (i.f 26 1) / 256
/-- Packets to one member: a fence sends one without lines, a broadcast only the root's. -/
def collPackets (i : Item) (n self dst : Nat) : Nat := if i.f 24 1 = 4 then 1 else ceilDiv (collSends i n self dst).2.2 32

/-- The data packets of a job that are not acknowledged; a fence enters after them (R199). -/
def dataInFlight (s : State) (job : Nat) : Bool :=
  s.peer.paths.any fun z => z.job = job && z.unacked.any fun p => p.op = OP.putData || p.op = OP.signal || p.op = OP.coll

/-- The next packet of an item, where one of a class up to `cls` can be sent now; an item whose own lines are refused ends
(R386). -/
def sendNext (cls c seq : Nat) (s : State) : Option State :=
  match s.ctx c, s.item c seq with
  | some x, some i =>
    match jobOf s i.job with
    | none => none
    | some j =>
      let k := i.next
      if i.phase ≠ 2 || j.state ≠ 2 then none
      else if i.kind = 6 then
        let m := i.f 32 2
        let port := i.peerPort k
        let k8 := i.sendClass port
        if !portUp s port || !pathOpen s j.id m port || cls < k8 then none
        else match i.f 24 1 with
          | 0 =>
            if i.packets ≤ k then none
            else match peerLines port x.asid x.part (i.f 40 8 + k * 8192) { rd := true } (i.packLines k) s with
              | .error b => some (endItem c seq b.st (peerEvent port c b s))
              | .ok addrs =>
                let (d, p, w, s) := packLines port addrs s
                some (itemSent c seq port (sendPkt j.id m port OP.putData k8 (i.lastPacket k) (i.packLines k)
                  (i.f 48 8 + k * 8192) p [] d w (some (c, seq)) s))
          | 1 =>
            if i.packets ≤ k then none
            else some (itemSent c seq port (sendPkt j.id m port OP.getReq k8 (i.lastPacket k) (i.packLines k)
              (i.f 48 8 + k * 8192) 0 [BitVec.ofNat 64 (i.f 40 8 + k * 8192)] [] [] (some (c, seq)) s))
          | 2 =>
            if 0 < k then none
            else some (itemSent c seq port (sendPkt j.id m port OP.signal k8 true 0 (i.f 48 8) 0
              [BitVec.ofNat 64 (i.f 64 8), BitVec.ofNat 64 (i.f 27 1)] [] [] (some (c, seq)) s))
          | _ => none
      else if i.kind = 5 then
        let n := i.collLines
        let total := (List.range j.members.length).filter (· ≠ j.self) |>.flatMap fun m =>
          (List.range (collPackets i n j.self m)).map fun q => (m, q)
        match total[k]? with
        | none => none
        | some (m, q) =>
          let port := q / 8 % 16
          let k8 := i.sendClass port
          if !portUp s port || !pathOpen s j.id m port || cls < k8 || (i.f 24 1 = 4 && k = 0 && dataInFlight s j.id) then none
          else
            let (off, src, cnt) := collSends i n j.self m
            let lines := Nat.min 32 (cnt - q * 32)
            match peerLines port x.asid x.part (i.f 40 8 + (src + q * 32) * 256) { rd := true } lines s with
            | .error b => some (endItem c seq b.st (peerEvent port c b s))
            | .ok addrs =>
              let (d, p, w, s) := packLines port addrs s
              some (itemSent c seq port (sendPkt j.id m port OP.coll k8 (q + 1 = collPackets i n j.self m) lines
                (i.f 32 4 * 2 ^ 32 + (off + q * 32)) p [] d w (some (c, seq)) s))
      else none
  | _, _ => none
/-- Packets of classes up to `cls` sent while the paths take them. -/
def pumpItem (cls c seq : Nat) : Nat → State → State
  | 0, s => s
  | n + 1, s =>
    match sendNext cls c seq s with
    | some t => pumpItem cls c seq n t
    | none => s
/-- Room of all paths of an item. -/
def pumpFuel (s : State) (c seq : Nat) : Nat :=
  match s.item c seq with
  | some i => 4096 * (jobSize s i.job + 1)
  | none => 0

/-! ## How peer items and collectives end -/

/-- A packet of the item is not acknowledged. -/
def itemUnacked (s : State) (c seq : Nat) : Bool :=
  s.peer.paths.any fun z => z.unacked.any fun p => p.own = some (c, seq)
/-- The item's records of received lines go. -/
def dropPeer (c seq : Nat) (s : State) : State :=
  { s with peer := { s.peer with
    recvd := s.peer.recvd.filter fun r => !(r.1 = c && r.2.1 = seq)
    colls := s.peer.colls.filter fun y => !(y.ctx = c && y.seq = seq) } }

/-- A reduction in member order (R390), by levels. -/
def reducePairs (comb : Nat → Nat → Nat) : List Nat → List Nat
  | x :: y :: t => comb x y :: reducePairs comb t
  | l => l
def reduceAll (comb : Nat → Nat → Nat) : Nat → List Nat → Nat
  | 0, l => l.headD 0
  | n + 1, l => if l.length ≤ 1 then l.headD 0 else reduceAll comb n (reducePairs comb l)
/-- The value of a reduced element: widened, combined in the accumulator's format, converted (R137, R145, R390). -/
def reduceElem (code red : Nat) (nonsat : Bool) (vals : List Nat) : Nat :=
  let f := fmtOf (accCode code)
  let wide := vals.map fun v => (f.finish 0 { v := readElem code v }).1
  let comb := if red = 0 then rndAdd f else fun a b => (f.finish 0 { v := vecMinMax (red = 1) (f.read a) (f.read b) }).1
  convertTo code nonsat (f.read (reduceAll comb 17 wide))

/-- Line `l` that member `m` contributed. -/
def Coll.line (y : Coll) (m l : Nat) : Option (List Byte × Bool) :=
  (y.parts.find? fun p => p.1 = m && p.2.1 = l).map (·.2.2)
/-- Lines that a member awaits from each other member: offsets within the collective. -/
def collAwaits (i : Item) (n self m : Nat) : List Nat :=
  match i.f 24 1 with
  | 0 => List.range n
  | 1 => (List.range n).map (self * n + ·)
  | 2 => (List.range n).map (m * n + ·)
  | 3 => if m = i.f 36 2 then List.range n else []
  | _ => [0]
/-- Every other member's lines have come. -/
def collReady (j : Job) (i : Item) (y : Coll) : Bool :=
  (List.range j.members.length).all fun m => m = j.self || (collAwaits i i.collLines j.self m).all fun l => (y.line m l).isSome
/-- The lines of a result: offset from dst in lines, bytes, poison. -/
def collResult (j : Job) (i : Item) (nonsat : Bool) (y : Coll) : List (Nat × List Byte × Bool) :=
  let n := i.collLines
  let code := i.f 26 1
  let members := List.range j.members.length
  let get := fun m l => (y.line m l).getD (List.replicate 256 0, false)
  let reduced := fun (base : Nat) => (List.range n).map fun l =>
    let ls := members.map fun m => get m (base + l)
    let per := 256 / collSize code
    let vals := (List.range per).map fun e => reduceElem code (i.f 25 1) nonsat (ls.map fun d => elemAt code d.1 e)
    (l, packElems code vals, ls.any (·.2))
  let moved := fun (d : List Byte) =>
    if 0xC ≤ code then d else packElems code ((elemsOf code (256 / collSize code) d).map fun v => convertTo code nonsat (readElem code v))
  match i.f 24 1 with
  | 0 => reduced 0
  | 1 => reduced (j.self * n)
  | 2 => members.flatMap fun m => (List.range n).map fun l => (m * n + l, moved (get m (m * n + l)).1, (get m (m * n + l)).2)
  | 3 => (List.range n).map fun l => (l, moved (get (i.f 36 2) l).1, (get (i.f 36 2) l).2)
  | _ => []
/-- A collective that has everything writes its result and ends. -/
def collFinish (c seq : Nat) (x : Ctx) (i : Item) (j : Job) (y : Coll) (s : State) : State :=
  let res := collResult j i x.nonsat y
  match peerLines 0 x.asid x.part (i.f 48 8) { wr := true } (res.foldl (fun m r => Nat.max m (r.1 + 1)) 0) s with
  | .error b => dropPeer c seq (endItem c seq b.st (peerEvent 0 c b s))
  | .ok addrs =>
    let s := res.foldl (fun s r => hintedWrite (hintOf (i.f 27 1)) (lineOf ((addrs[r.1]?).getD 0)) (atOffsets 0 r.2.1) r.2.2 s)
      (atEngine 20 0xD000 [] s)
    dropPeer c seq (endItem c seq ST.ok s)

/-- A peer item or collective that has done its part ends (R385, R389); the bytes it moved are counted. -/
def peerFinish (c seq : Nat) (s : State) : State :=
  match s.ctx c, s.item c seq with
  | some x, some i =>
    match jobOf s i.job with
    | none => s
    | some j =>
      if i.phase ≠ 2 then s
      else if i.kind = 6 then
        let len := i.f 56 8
        let full : Bool := match i.f 24 1 with
          | 0 => decide (i.packets ≤ i.next) && !itemUnacked s c seq
          | 1 => decide (len ≤ i.moved)
          | 2 => decide (0 < i.next) && !itemUnacked s c seq
          | _ => decide (len / 256 ≤ (s.peer.recvd.filter fun r => r.1 = c && r.2.1 = seq).length)
        if full then
          let s := s.setItem c seq fun i => { i with moved := if i.f 24 1 = 2 then 0 else len }
          dropPeer c seq (endItem c seq ST.ok s)
        else s
      else if i.kind = 5 then
        let n := i.collLines
        let total := (((List.range j.members.length).filter (· ≠ j.self)).map (collPackets i n j.self)).sum
        match s.peer.colls.find? fun y => y.ctx = c && y.seq = seq with
        | some y => if total ≤ i.next && !itemUnacked s c seq && collReady j i y then collFinish c seq x i j y s else s
        | none => s
      else s
  | _, _ => s
/-- Peer items and collectives of a job that run, the most urgent first (R67). -/
def peerItems (id : Nat) (s : State) : List (Nat × Item) :=
  (s.ctxs.filterMap fun e => match frontItem s e.1 with
    | some (_, i) => if (i.kind = 5 || i.kind = 6) && i.phase = 2 && i.job = id then some (e.1, i) else none
    | none => none).foldl (fun l e => insertUrgent e l) []
/-- They send what they can, class by class (R55, R67), and each ends where it is done. -/
def progressJob (id : Nat) (s : State) : State :=
  let l := peerItems id s
  let s := (List.range 3).foldl (fun s cls => l.foldl (fun s e => pumpItem cls e.1 e.2.seq (pumpFuel s e.1 e.2.seq) s) s) s
  l.foldl (fun s e => peerFinish e.1 e.2.seq s) s
/-- The item sends what it can, with those of its job that go before it, and ends where it is done. -/
def peerProgress (c seq : Nat) (s : State) : State :=
  match s.item c seq with
  | some i => peerFinish c seq (progressJob i.job s)
  | none => s

/-- No context: a collective whose item has not begun here. -/
def noOwner : Nat := 2 ^ 20
/-- A collective's own lines, verified as they enter the engine of port die 0 (R293, R389): the Coll that packets may have opened becomes the item's. -/
def collStart (c seq : Nat) (x : Ctx) (i : Item) (j : Job) (s : State) : State :=
  let n := i.collLines
  let port := 0
  let mine := match i.f 24 1 with
    | 0 => (0, 0, n)
    | 1 => (j.self * n, j.self * n, n)
    | 2 => (j.self * n, 0, n)
    | 3 => (0, 0, if j.self = i.f 36 2 then n else 0)
    | _ => (0, 0, 0)
  match peerLines port x.asid x.part (i.f 40 8 + mine.2.1 * 256) { rd := true } mine.2.2 s with
  | .error b => endItem c seq b.st (peerEvent port c b s)
  | .ok addrs =>
    let (own, s) := ((List.range mine.2.2).zip addrs).foldl (fun (a : List (Nat × Nat × List Byte × Bool) × State) e =>
      let (g, s) := lineRead (lineOf e.2) true a.2
      (a.1 ++ [(j.self, mine.1 + e.1, g.data, g.poison)], s)) ([], atEngine 20 0 [(0xD000, 2)] s)
    let held := ((s.peer.colls.find? fun y => y.job = j.id && y.coll = i.f 32 4 && y.ctx = noOwner).map (·.parts)).getD []
    let rest := s.peer.colls.filter fun y => !(y.job = j.id && y.coll = i.f 32 4 && y.ctx = noOwner)
    let s := { s with peer := { s.peer with colls := rest } }
    match held.filter fun p => !(collAwaits i n j.self p.1).contains p.2.1 with
    | [] =>
      { s with peer := { s.peer with colls := rest ++ [{ job := j.id, coll := i.f 32 4, ctx := c, seq, parts := own ++ held }] } }
    | bad =>
      let s := (bad.foldl (fun l p => addSorted p.1 l) []).foldl (fun s m =>
        sendNak j.id m (controlPort s) (i.f 32 4 * 2 ^ 32) ST.badItem 0 s) s
      endItem c seq ST.badItem s

/-- A peer item or collective begins (R385, R389). -/
def peerStart (c seq : Nat) (s : State) : State :=
  match s.ctx c, s.item c seq with
  | some x, some i =>
    match jobOf s i.job with
    | none => endItem c seq ST.badItem s
    | some j => peerProgress c seq (if i.kind = 5 then collStart c seq x i j s else s)
  | _, _ => s

end Sys2Proof.Machine
end

