-- ==== Sys2Proof/Machine/Update.lean ====
section
/-! DEFINITION. Updates (R174, R175, R474): what the update kernel checks, the blocks that it deals to the slice's cores, and
what it does to each; and the end of an engine instruction. -/

namespace Sys2Proof.Machine

open Sys2Proof

/-- How an access of firmware for an item came out: done, an error status, or a stall on a fault. -/
inductive Served where
  | ok (s : State)
  | bad (status : Nat) (s : State)
  | stall (s : State)
/-- Bytes written for an item. -/
def vaWrite (e : Engine) (va : Nat) (data : List Byte) (s : State) : Served :=
  let (r, s) := reachRange e { wr := true } va data.length {} s
  match r.bad with
  | some (st, _) => .bad st s
  | none => if r.faults.isEmpty then .ok (reachWrite false data false r.at_ s) else .stall (openFaults e r s)
/-- Bytes read for an item. -/
def vaFetch (e : Engine) (va n : Nat) (s : State) : Got × Served :=
  let (r, s) := reachRange e { rd := true } va n {} s
  match r.bad with
  | some (st, _) => (⟨[], false⟩, .bad st s)
  | none =>
    if r.faults.isEmpty then
      let (g, s) := reachRead false r.at_ s
      (g, .ok s)
    else (⟨[], false⟩, .stall (openFaults e r s))

/-- Cores that a cost record names, rising. -/
def Cost.coreList (k : Cost) : List Nat := (List.range 1024).filter k.onCore

/-! ## What the kernel checks (R474) -/

/-- How the kernel's checks come out: the slice runs, the item ends, or an access waits on a fault. -/
inductive UpdCheck where
  | run (u : UpdRun) (s : State)
  | ends (status : Nat) (s : State)
  | stall (s : State)
/-- Ranges of a list, each checked as it is read, or the status of the first that fails. -/
def rangesCheck (e : Engine) (u : UpdRun) (count va : Nat) : Nat → State → UpdCheck
  | 0, s => .ends ST.badItem s
  | n + 1, s =>
    match vaFetch e va 24 s with
    | (g, .ok s) =>
      let b := g.data
      if g.poison then .ends ST.dataPoisoned s
      else if leAt b 16 8 = 0 then .run u s
      else if count ≤ leAt b 0 4 || !zeroAt b 4 4 || leAt u.shards (80 * leAt b 0 4 + 64) 8 < leAt b 8 8 + leAt b 16 8 then
        .ends ST.badItem s
      else rangesCheck e { u with ranges := u.ranges ++ [(leAt b 0 4, leAt b 8 8, leAt b 16 8)] } count (va + 24) n s
    | (_, .bad st s) => .ends st s
    | (_, .stall s) => .stall s
/-- Bytes and bits that Tables 06-6 to 06-8 give as zero, in the entries that count. -/
def progZeros (h : List Byte) : Bool :=
  zeroAt h 233 23
    && (List.range (Nat.min (leAt h 232 1) 16)).all (fun e => zeroAt h (8 * e + 6) 2 && leAt h (8 * e + 5) 1 / 4 = 0)
    && (List.range 8).all (fun k => leAt h (192 + 4 * k) 4 / 2 ^ 26 = 0)
/-- The call block keeps Tables 06-6 to 06-9. -/
def callOk (h shards : List Byte) (va : Nat) : Bool :=
  let n := leAt h 264 4
  let p := updProg h
  va % 256 = 0 && decide (1 ≤ n) && decide (n ≤ 4096) && zeroAt h 268 4 && progZeros h && p.key = 0
    && p.streams.all (·.off = 0)
    && (List.range n).all fun j =>
      let count := leAt shards (80 * j + 64) 8
      decide (1 ≤ count) && decide (count ≤ 2 ^ 36)
        && (List.range 8).all fun k => (leAt shards (80 * j + 8 * k) 8 = 0) || (p.stream k).dir ≠ 0
/-- The program of a call with its streams apart, as the kernel stages them: 2¹⁷ bytes hold any block (log 53). -/
def staged (h : List Byte) : UpdProg :=
  let p := updProg h
  { p with streams := (List.range p.streams.length).map fun k => { p.stream k with off := k * 2 ^ 17 } }
/-- The check of an update's slice. -/
def updateCheck (e : Engine) (i : Item) (arg : Nat) (s : State) : UpdCheck :=
  let va := i.f 24 8
  match vaFetch e va 272 s with
  | (_, .bad st s) => .ends st s
  | (_, .stall s) => .stall s
  | (h, .ok s) =>
    let n := leAt h.data 264 4
    if h.poison then .ends ST.dataPoisoned s
    else if n = 0 || 4096 < n then .ends ST.badItem s
    else match vaFetch e (va + 272) (80 * n) s with
      | (_, .bad st s) => .ends st s
      | (_, .stall s) => .stall s
      | (t, .ok s) =>
        if t.poison then .ends ST.dataPoisoned s
        else if !(callOk h.data t.data va && (staged h.data).ok 16384) then .ends ST.badItem s
        else
          let u : UpdRun := { prog := h.data.take 256, key := BitVec.ofNat 64 (leAt h.data 256 8), shards := t.data, ranges := [] }
          rangesCheck e u n arg 65536 s

/-! ## What the kernel does (R174, R175) -/

/-- Blocks of up to 16,384 elements: shard, first element, count. -/
def UpdRun.blocks (u : UpdRun) : List (Nat × Nat × Nat) :=
  u.ranges.flatMap fun r => (List.range (ceilDiv r.2.2 16384)).map fun b =>
    (r.1, r.2.1 + b * 16384, Nat.min 16384 (r.2.2 - b * 16384))
/-- The next block of the core in place `n` among `cores`: blocks are dealt in ascending order of block and core. -/
def UpdRun.nextBlock (u : UpdRun) (cores n : Nat) : Option (Nat × Nat × Nat) :=
  u.blocks[n + cores * lookD u.finished n 0]?
/-- The streams of a block in device memory: stream, address, bytes; those that `b` of their dir names. -/
def UpdRun.places (u : UpdRun) (p : UpdProg) (b : Nat) (z : Nat × Nat × Nat) : List (Nat × Nat × Nat) :=
  (List.range 8).filterMap fun k =>
    let w := fmtBits (p.stream k).fmt
    if bit (p.stream k).dir b then
      some (k, (leAt u.shards (80 * z.1 + 8 * k) 8 + z.2.1 * w / 8) % 2 ^ 64, z.2.2 * w / 8)
    else none
/-- Pieces of streams, numbered: the line pieces that the group's lanes load or store. -/
def streamPieces (l : List (Nat × Nat × Nat)) : List (Nat × Nat) := l.flatMap fun z => linePieces z.2.1 z.2.2
/-- Numbered addresses, for the checks that a group's lanes make. -/
def pieceAddrs (l : List (Nat × Nat)) : List (Nat × Nat) := (List.range l.length).zip (l.map (·.1))
/-- An exception of the kernel: which lanes held the access is its own matter, so they are a free value. -/
def kernelOut (o : LaneOut) : LaneOut :=
  match o with
  | .exc e s => let (v, s) := drawWord s; .exc { e with lanes := v.setWidth 32 } s
  | o => o
/-- One element of a block, from the bytes of the streams that are read. -/
def blockReads (p : UpdProg) (bytes : List (Nat × List Byte)) (i : Nat) : List (Nat × Nat × Bool) :=
  bytes.map fun e =>
    let w := fmtBits (p.stream e.1).fmt
    (e.1, bits32 (readElem (p.stream e.1).fmt
      (leNat (slice e.2 (i * w / 8) ((i * w % 8 + w + 7) / 8)) / 2 ^ (i * w % 8) % 2 ^ w)), false)
/-- Bytes cut into parts of given lengths. -/
def cutBytes : List Nat → List Byte → List (List Byte)
  | [], _ => []
  | n :: t, b => b.take n :: cutBytes t (b.drop n)
/-- One block (R174): its streams are loaded by group loads, the program is applied with the block's key, and the written
streams are stored by group stores. A block that does not begin and end at whole bytes of each of its streams fails as a
program does (log 53). -/
def kernelBlock (c slot : Nat) (g : Group) (u : UpdRun) (z : Nat × Nat × Nat) (s : State) : LaneOut :=
  let p := { staged u.prog with key := u.key + BitVec.ofNat 64 (leAt u.shards (80 * z.1 + 72) 8) + BitVec.ofNat 64 z.2.1 }
  let ins := u.places p 0 z
  let outs := u.places p 1 z
  if !(p.ok z.2.2 && (ins ++ outs).all fun k => z.2.1 * fmtBits (p.stream k.1).fmt % 8 = 0) then
    let (w, s) := drawWord s
    let (at_, s) := drawWord s
    kernelOut (.exc { cause := exEngine, lanes := 0, detail := detailRecord 2 0x15 0 (w.toNat % 2 ^ 32) at_.toNat } s)
  else
    let rd := streamPieces ins
    let wr := streamPieces outs
    match laneTargets c slot g { rd := true } 1 (pieceAddrs rd) s with
    | (_, some o, _) => kernelOut o
    | (src, none, s) =>
      match laneTargets c slot g { wr := true } 1 (pieceAddrs wr) s with
      | (_, some o, _) => kernelOut o
      | (dst, none, s) =>
        let (ls, s) := loadLines c (linesTouched src) s
        let vals := (src.zip rd).map fun x => (x.1.1, placeBytes ls x.2.2 s x.1.2)
        match poisonExc (pieceAddrs rd) vals s with
        | some o => kernelOut o
        | none =>
          let bytes := (ins.map (·.1)).zip (cutBytes (ins.map (·.2.2)) (vals.flatMap (·.2.data)))
          let rows := (List.range z.2.2).map fun i => updElement p (seedOf s g.ctx) (nonsatOf s g.ctx) i (blockReads p bytes i)
          let data := outs.flatMap fun k =>
            packElems (p.stream k.1).fmt (rows.map fun r => ((r.1.find? (·.1 = k.1)).map (·.2.1)).getD 0)
          let units := (dst.map (·.2)).zip (cutBytes (wr.map (·.2)) data)
          let devs := units.flatMap fun x => match x.1 with | .dev a _ => atOffsets a x.2 | _ => []
          let hosts := units.filterMap fun x => match x.1 with | .host a => some (a, x.2) | _ => none
          let t := (rows.flatMap (·.2)).foldl (fun t v => BitVec.ofNat 32 (trackVal t.toNat v)) g.vtracker
          .next { g with vtracker := t } (hostStores hosts (storeLines c devs (linesTouched dst) s))
/-- The kernel's lowest group of a core that may go on, with its item and what the item's slice does. -/
def kernelGroup (c : Nat) (s : State) : Option (Nat × Group × Item × UpdRun) :=
  (List.range 16).findSome? fun slot =>
    match readyIn c slot s with
    | some g =>
      match s.item g.ctx g.seq with
      | some i => if i.kind = 4 then i.upd.map fun u => (slot, g, i, u) else none
      | none => none
    | none => none
/-- The update kernel goes on by one block on a core, or its group there ends when no block is left for the core. -/
def kernelStep (c : Nat) (s : State) : State :=
  match kernelGroup c s with
  | none => s
  | some (slot, g, i, u) =>
    let cores := ((i.costs[i.slice]?).map Cost.coreList).getD []
    let n := cores.idxOf c
    match u.nextBlock cores.length n with
    | none => issued c slot g 0 (doGrpEnd c slot 0 g s) s
    | some z =>
      let o := kernelBlock c slot g u z s
      let s := issued c slot g 0 o s
      match o with
      | .next _ _ => s.setItem g.ctx g.seq fun i => { i with upd := some { u with finished := put u.finished n (lookD u.finished n 0 + 1) } }
      | _ => s

/-- ENGINE_INSTRUCTION_END (R123, R167). A vector engine with no queued instruction of a context ends a VX.UPD of the update
kernel, with which the kernel goes on (R174, log 53). -/
def execEngineInstructionEnd (c : Nat) (vec : Bool) (md : Media) (s : State) : Out :=
  done s (if s.alive then runWith md (fun s => if vec && (vxNext s c).isNone then kernelStep c s else engineEnd c vec s) s else s)

end Sys2Proof.Machine
end

