-- ==== Sys2Proof/Machine/Items.lean ====
section
/-! DEFINITION. Work items as they run: how an item begins (R196), slices and their groups (R100), thin products (R125 to
R128), copies (R210, R371, R473), host copies (R352, R353), wait and signal items (R196). -/

namespace Sys2Proof.Machine

open Sys2Proof

/-- An item may begin: its earliest beat has come, and its job runs (R370, R399). -/
def itemReady (s : State) (i : Item) : Bool :=
  decide (i.f 16 8 ≤ s.beat) && (i.job = 0 || (jobOf s i.job).any (·.state = 2))
/-! ## Launch (R100) -/

/-- Free group slots of a core. -/
def freeSlots (s : State) (c : Nat) : List Nat := (List.range 16).filter fun g => (look (s.core c).groups g).isNone
def slotsFor (s : State) (k : Cost) : Bool := k.coreList.all fun c => decide (k.slots ≤ (freeSlots s c).length)
def regionsUp (s : State) (k : Cost) : Bool := (bitsOf 64 k.regions.toNat).all fun r => s.regionState r = 0
def regionBad (s : State) (k : Cost) : Bool := (bitsOf 64 k.regions.toNat).any s.regionFailed
/-- A group as it starts: lanes 0 to n − 1 active, a0, a1 and a2 given in every lane, every other register zero. -/
def startGroup (c seq slice cls pc lanes arg xgroup : Nat) : Group :=
  let regs := [(10, arg), (11, xgroup), (12, slice)]
  { pc, active := BitVec.ofNat 32 (2 ^ lanes - 1), ctx := c, seq, slice, xgroup, cls
    x := (List.range 32).flatMap fun l =>
      regs.filterMap fun r => if r.2 % 2 ^ 64 = 0 then none else some (l * 32 + r.1, BitVec.ofNat 64 r.2) }
/-- The groups of a slice, in the lowest free slots of its cores (DESIGN CHOICE, log 80); a core starts with an acquire (R196). -/
def startGroups (c seq slice cls pc lanes arg : Nat) (k : Cost) (s : State) : State :=
  (k.coreList.zip (List.range 1024)).foldl (fun s e =>
    let slots := (freeSlots s e.1).take k.slots
    let s := useRegion (regionOfCore e.1) (l1Invalidate e.1 s)
    (slots.zip (List.range 16)).foldl (fun s z =>
      putGroup e.1 z.1 { startGroup c seq slice cls pc lanes arg (e.2 * k.slots + z.2) with launched := s.time.now } s) s) s
/-- A slice with no cores has no group to wait for. -/
def settleEmpty (c seq : Nat) (k : Cost) (s : State) : State := if k.coreList.isEmpty || k.slots = 0 then sliceDone c seq s else s

/-! ## Thin products (R125 to R128) -/

/-- The partition sends thin products to its Atomisers (R126, R452). -/
def routeAtomiser (s : State) (q : Partition) : Bool :=
  q.route = 2 || (q.route = 0 && decide (8 ≤ q.brimList.length) && capLists s q.brims)
def Item.thin (i : Item) : Bool := i.kind = 1 && i.f 44 4 ≠ 0
/-- The batch header (Table 04-12): route, and members by context, rows and argument block. -/
def batchHeader (route : Nat) (ms : List (Nat × Nat × Nat)) : List Byte :=
  let (body, total) := ms.foldl (fun (x : List Byte × Nat) m =>
    (x.1 ++ leBytes 4 m.1 ++ leBytes 2 m.2.1 ++ leBytes 2 x.2 ++ leBytes 8 m.2.2, x.2 + m.2.1)) ([], 0)
  (leBytes 1 route ++ leBytes 1 ms.length ++ leBytes 2 total ++ leBytes 12 0 ++ body ++ leBytes 1024 0).take 1024

/-! ## One slice -/

/-- What stands between a slice and its launch: a failed region, sleeping regions, slots that are taken. -/
inductive Ready where
  | failed | asleep | full | yes
  deriving DecidableEq, Repr
def sliceReady (s : State) (k : Cost) : Ready :=
  if regionBad s k then .failed else if !regionsUp s k then .asleep else if slotsFor s k then .yes else .full
def wakeRegions (k : Cost) (s : State) : State := (bitsOf 64 k.regions.toNat).foldl (fun s r => wakeRegion r s) s

/-- The groups of the item's next slice start, after what firmware writes or checks for it (R100, R125, R474). -/
def startSlice (c : Nat) (x : Ctx) (i : Item) (k : Cost) (s : State) : State :=
  let arg := (i.args[i.slice]?).getD 0
  let go := fun (pc lanes : Nat) (s : State) =>
    let s := s.setItem c i.seq fun i => { i with running := true }
    settleEmpty c i.seq k (startGroups c i.seq i.slice i.cls pc lanes arg k s)
  if i.kind = 4 then
    let core := k.coreList.headD 0
    let e : Engine := { die := dieOfCore core, code := 1, ctx := c, asid := x.asid, part := x.part, stall := .nose c }
    match updateCheck e i arg s with
    | .run u s =>
      let (v, s) := drawWord s
      go (v.toNat / 4 * 4) 32 (s.setItem c i.seq fun i => { i with upd := some u })
    | .ends st s => endItem c i.seq st s
    | .stall s => s
  else if i.thin then
    let route := if (s.part x.part).any (routeAtomiser s) then 3 else 1
    match vaWrite (noseOf c x) arg (batchHeader route [(c, i.f 43 1, arg)]) s with
    | .ok s => go (i.f 24 8) (i.f 42 1) s
    | .bad st s => endItem c i.seq st s
    | .stall s => s
  else go (i.f 24 8) (i.f 42 1) s
/-- The next slice of an item that has begun. -/
def launchSlice (c : Nat) (x : Ctx) (i : Item) (s : State) : State :=
  match i.costs[i.slice]? with
  | none => s
  | some k =>
    match sliceReady s k with
    | .failed => endItem c i.seq ST.regionFailed s
    | .asleep => wakeRegions k s
    | .full => s
    | .yes => startSlice c x i k s

/-- A slice of an item waits to be launched. -/
def Item.launchable (i : Item) : Bool := (i.kind = 1 || i.kind = 4) && i.phase = 2 && !i.running && !i.cancelled
/-- A FIRM item's slice is due in this beat (R48, R52). -/
def sliceDue (s : State) (c : Nat) (i : Item) : Bool :=
  s.plan.placed.any fun p => p.ctx = c && p.seq = i.seq && p.slice = i.slice && p.beat = s.beat && !p.ghost
/-- Another item goes first on a core that both would use (R67). -/
def launchBehind (s : State) (c : Nat) (i : Item) : Bool :=
  match i.costs[i.slice]? with
  | none => false
  | some k => s.ctxs.any fun e => e.1 ≠ c && (match frontItem s e.1 with
      | some (_, j) => j.launchable && moreUrgent j i && (!j.contracted || sliceDue s e.1 j) && (match j.costs[j.slice]? with
          | some m => sliceReady s m = .yes && m.coreList.any fun u => k.onCore u
          | none => false)
      | none => false)
/-! ## Merged slices -/

/-- The item's next slice may stand in a merged slice now (R127): SOFT or BULK, at the front of its context, under BATCH. -/
def batchable (s : State) (x : Ctx) (i : Item) : Bool :=
  i.thin && i.cls ≠ 0 && ((i.phase = 1 && itemReady s i) || i.launchable)
    && (s.part x.part).any fun q => !routeAtomiser s q
/-- Members in order of age, up to 32 rows. -/
def takeRows : Nat → List (Nat × Item) → List (Nat × Item)
  | _, [] => []
  | n, e :: t => if n < e.2.f 43 1 then [] else e :: takeRows (n - e.2.f 43 1) t
def insertAge (e : Nat × Item) : List (Nat × Item) → List (Nat × Item)
  | [] => [e]
  | d :: t => if e.2.age < d.2.age then e :: d :: t else d :: insertAge e t
/-- The members that would be merged with the front item of a context, all at the same slice (DEDUCED, log 54). -/
def batchOf (s : State) (c : Nat) : List (Nat × Item) :=
  match frontItem s c with
  | some (x, i) =>
    if !batchable s x i then []
    else
      let all := s.ctxs.filterMap fun e => match frontItem s e.1 with
        | some (y, j) =>
          if batchable s y j && y.asid = x.asid && j.f 44 4 = i.f 44 4 && j.f 24 8 = i.f 24 8 && j.slice = i.slice then some (e.1, j) else none
        | none => none
      takeRows 32 (all.foldl (fun l e => insertAge e l) [])
  | none => []
/-- The merged slice runs by its oldest member's argument block and cost record, in the class of its most urgent one and to
the earliest target beat. Its oldest member's context also gives the E4M3 overflow mode and the stochastic seed of every row
(R146, R155; DESIGN CHOICE, log 54). -/
def mergeLaunch (ms : List (Nat × Item)) (s : State) : State :=
  match ms with
  | [] => s
  | (c, i) :: _ =>
    match s.ctx c, i.costs[i.slice]? with
    | some x, some k =>
      match sliceReady s k with
      | .failed => endItem c i.seq ST.regionFailed s
      | .asleep => wakeRegions k s
      | .full => s
      | .yes =>
        let arg := (i.args[i.slice]?).getD 0
        match vaWrite (noseOf c x) arg (batchHeader 2 (ms.map fun m => (m.1, m.2.f 43 1, (m.2.args[i.slice]?).getD 0))) s with
        | .stall s => s
        | .bad st s => endItem c i.seq st s
        | .ok s =>
          let names := ms.map fun m => (m.1, m.2.seq)
          let cls := ms.foldl (fun n m => Nat.min n m.2.cls) 2
          let s := names.foldl (fun s m => s.setItem m.1 m.2 fun j =>
            { j with phase := 2, running := true, member := decide (m.1 ≠ c), merged := if m.1 = c then names else [] }) s
          let soon := ms.foldl (fun n m => if m.2.cls = 1 then Nat.min n m.2.target else n) (2 ^ 64)
          let s := if cls = 1 then s.setItem c i.seq fun j => { j with target := soon } else s
          let s := startGroups c i.seq i.slice cls (i.f 24 8) (i.f 42 1) arg k s
          settleEmpty c i.seq k s
    | _, _ => s
/-- A merged slice with 32 rows launches; after the window, any does. -/
def tryBatch (c : Nat) (expired : Bool) (s : State) : State :=
  if s.stalledOn (.nose c) then s
  else
    let ms := batchOf s c
    let rows := (ms.map fun m => m.2.f 43 1).sum
    if rows = 32 || (expired && !ms.isEmpty) then mergeLaunch ms s else s
/-- A slice is launched in its turn; one that may be merged, only in a full merged slice. -/
def sliceLaunch (c : Nat) (s : State) : State :=
  match frontItem s c with
  | some (x, i) =>
    if !s.alive || !i.launchable || s.stalledOn (.nose c) || (i.contracted && !(sliceDue s c i && !s.time.inGuard))
      || launchBehind s c i then s
    else if batchable s x i then tryBatch c false s else launchSlice c x i s
  | none => s
/-- SLICE_LAUNCH (R100). -/
def execSliceLaunch (ctx : Nat) (md : Media) (s : State) : Out := done s (runWith md (sliceLaunch ctx) s)

/-- BATCH_WINDOW_EXPIRY (R127): the oldest member has waited for the partition's window. -/
def batchExpiry (c : Nat) (s : State) : State :=
  match batchOf s c with
  | [] => s
  | (k, i) :: _ =>
    let window := (((s.ctx k).bind fun x => s.part x.part).map (·.window)).getD 0
    tryBatch c (decide (window ≤ i.beats)) s
def execBatchWindowExpiry (ctx : Nat) (md : Media) (s : State) : Out :=
  done s (runWith md (fun s => if s.noseUp then batchExpiry ctx s else s) s)

/-! ## Wait and signal items (R196, R299) -/

/-- The place of a flag that the Nose performs: an address, or what its access came to. -/
def noseFlag (c : Nat) (x : Ctx) (va : Nat) (acc : Acc) (s : State) : Option Nat × Served :=
  let e := noseOf c x
  let (r, s) := reachRange e acc va 8 {} s
  match r.bad with
  | some (st, _) => (none, .bad st s)
  | none =>
    if !r.faults.isEmpty then (none, .stall (openFaults e r s))
    else match r.at_ with
      | [(.dev a _, _)] => (some a, .ok s)
      | _ => (none, .ok s)
/-- A signal item stores or adds its value at the home, as a release at package scope. -/
def signalItem (c : Nat) (x : Ctx) (i : Item) (s : State) : State :=
  let va := i.f 24 8
  let v := BitVec.ofNat 64 (i.f 32 8)
  let add := i.f 40 1 = 1
  match noseFlag c x va { wr := true, atomic := add, flag := !add } s with
  | (_, .stall s) => s
  | (_, .bad st s) => endItem c i.seq st s
  | (none, .ok s) => s
  | (some a, .ok s) =>
    if add then
      let (_, p, s) := homeAtomic (lineOf a) 0 8 [(a % 256 / 8, v)] s
      endItem c i.seq (if p then ST.dataPoisoned else ST.ok) s
    else
      let s := lineWrite (lineOf a) (atOffsets (a % 256) (leBytes 8 v.toNat)) false false s
      endItem c i.seq (if s.poisoned (lineOf a) then ST.dataPoisoned else ST.ok) s
/-- A wait item ends when its flag meets the condition, or is read poisoned; the acquire is at package scope. -/
def waitItem (c : Nat) (x : Ctx) (i : Item) (s : State) : State :=
  match noseFlag c x (i.f 24 8) { rd := true, flag := true } s with
  | (_, .stall s) => s
  | (_, .bad st s) => endItem c i.seq st s
  | (none, .ok s) => s
  | (some a, .ok s) =>
    let (g, s) := lineRead (lineOf a) false s
    let n := leAt g.data (a % 256) 8
    if g.poison then endItem c i.seq ST.dataPoisoned s
    else if (if i.f 40 1 = 0 then decide (n = i.f 32 8) else decide (i.f 32 8 ≤ n)) then endItem c i.seq ST.ok s else s
/-- WAIT_ITEM_MATCH (R196). -/
def waitMatch (c : Nat) (s : State) : State :=
  match frontItem s c with
  | some (x, i) => if s.noseUp && i.kind = 7 && i.phase = 2 && !s.stalledOn (.nose c) then waitItem c x i s else s
  | none => s
def execWaitItemMatch (ctx : Nat) (md : Media) (s : State) : Out := done s (runWith md (waitMatch ctx) s)

/-! ## How an item begins -/

/-- Pieces of 64 KiB of a host copy. -/
def Item.hostPieces (i : Item) : Nat := ceilDiv (i.f 48 8) 65536
/-- The item counts as running; the die of a copy is chosen (R473). -/
def markBegun (c : Nat) (x : Ctx) (i : Item) (s : State) : State :=
  let die := if i.kind = 2 then some (copyDie c x i s) else none
  s.setItem c i.seq fun i => { i with
    phase := 2, running := i.kind ≠ 1 && i.kind ≠ 4, pieces := if i.kind = 3 then i.hostPieces else 0, die }
/-- What the Nose does as an item begins. -/
def beginWork (c : Nat) (x : Ctx) (i : Item) (s : State) : State :=
  if i.kind = 8 then signalItem c x i s
  else if i.kind = 5 || i.kind = 6 then peerStart c i.seq s else s
/-- The item begins. -/
def beginItem (c : Nat) (x : Ctx) (i : Item) (s : State) : State := beginWork c x i (markBegun c x i s)
/-- ITEM_START (R196): the front item of a context; one under contract begins in its own beat, and a thin product under
BATCH begins with its merged slice. A signal whose access replays, and a peer item that waited, go on. -/
def itemStart (c : Nat) (s : State) : State :=
  match frontItem s c with
  | none => s
  | some (x, i) =>
    if !s.noseUp || s.stalledOn (.nose c) then s
    else if i.phase = 1 && !i.contracted && itemReady s i then
      if batchable s x i then tryBatch c false s else beginItem c x i s
    else if i.phase = 2 && i.kind = 8 then signalItem c x i s
    else if i.phase = 2 && (i.kind = 5 || i.kind = 6) then peerProgress c i.seq s
    else s
def execItemStart (ctx : Nat) (md : Media) (s : State) : Out := done s (runWith md (itemStart ctx) s)

/-! ## Copies (R210, R371) -/

/-- Bytes with the poison of the line that each came from. -/
abbrev Tainted := List (Byte × Bool)
def readTainted (l : List (Where × Nat)) (s : State) : Tainted × State :=
  l.foldl (fun (x : Tainted × State) p =>
    let (g, s) := placeRead true p x.2
    (x.1 ++ g.data.map (·, g.poison), s)) ([], s)
/-- Bytes put along an access: those of device lines gathered line by line, those of host memory written; a line takes the
poison of any byte put into it. -/
def putTainted (data : Tainted) : List (Where × Nat) → Over → State → Over × State
  | [], o, s => (o, s)
  | p :: t, o, s =>
    let d := data.take p.2
    match p.1 with
    | .dev a _ => putTainted (data.drop p.2) t (overPut o a (d.map (·.1)) (d.any (·.2))) s
    | w => putTainted (data.drop p.2) t o (placeWrite true w (d.map (·.1)) (d.any (·.2)) s)
/-- Lines written by an engine with its write hint, one unit each (R186, R256). -/
def hintedLines (hint : Option Nat) (o : Over) (s : State) : State := o.foldl (fun s e => hintedWrite hint e.1 e.2.1 e.2.2 s) s
/-- Ranges written, the bytes that they put into one line as one unit (R186, R214). -/
def writeTainted (hint : Option Nat) (l : List (Tainted × Reach)) (s : State) : State :=
  let (o, s) := l.foldl (fun (x : Over × State) p => putTainted p.1 p.2.at_ x.1 x.2) ([], s)
  hintedLines hint o s
/-- An element moved: raw, or normalised and converted (R143, R145). -/
def moveElem (src dst : Nat) (nonsat : Bool) (d : Tainted) : Tainted :=
  let bad := d.any (·.2)
  if 0xC ≤ src then d.map fun b => (b.1, bad)
  else (leBytes (copySize dst) (convertTo dst nonsat (readElem src (leNat (d.map (·.1)))))).map (·, bad)
/-- Blocks of (256 ÷ e) × (256 ÷ e) elements, row by row: rows and columns of block `b`. -/
def Item.block (i : Item) (b : Nat) : Nat × Nat × Nat × Nat :=
  let w := 256 / copySize (i.f 64 1 % 16)
  let across := ceilDiv (i.f 60 4) w
  let r := b / across * w
  let k := b % across * w
  (r, Nat.min w (i.f 56 4 - r), k, Nat.min w (i.f 60 4 - k))
def Item.blocks (i : Item) : Nat :=
  let w := 256 / copySize (i.f 64 1 % 16)
  ceilDiv (i.f 56 4) w * ceilDiv (i.f 60 4) w
/-- The ranges of a list, reached in order. -/
def reachAll (e : Engine) (acc : Acc) (l : List (Nat × Nat)) (s : State) : List Reach × State :=
  l.foldl (fun (x : List Reach × State) p =>
    let (r, s) := reachRange e acc p.1 p.2 {} x.2
    (x.1 ++ [r], s)) ([], s)
/-- One block of a copy: its source lines are read, then its destination lines written (R210). The source lines cross the
Crown; the destination lines may cross a ring module (R473). -/
def copyBlock (c : Nat) (x : Ctx) (i : Item) (s : State) : State :=
  let e : Engine := { die := i.die.getD (copyDie c x i s), code := 3, ctx := c, asid := x.asid, part := x.part, stall := .brimCopy c }
  let es := { e with crown := true }
  let sf := i.f 64 1 % 16
  let df := i.f 64 1 / 16
  let se := copySize sf
  let de := copySize df
  let (r0, rn, c0, cn) := i.block i.next
  let at_ := fun (a : Nat) => a % 2 ^ 64
  let src := (List.range rn).map fun k => (at_ (i.f 24 8 + (r0 + k) * i.f 40 8 + c0 * se), cn * se)
  let tr := i.f 65 1 = 1
  let dst := if tr then (List.range cn).map fun k => (at_ (i.f 32 8 + (c0 + k) * i.f 48 8 + r0 * de), rn * de)
    else (List.range rn).map fun k => (at_ (i.f 32 8 + (r0 + k) * i.f 48 8 + c0 * de), cn * de)
  let (rs, s) := reachAll es { rd := true } src s
  let (ws, s) := reachAll e { wr := true } dst s
  match (rs ++ ws).findSome? (·.bad) with
  | some (st, _) => endItem c i.seq st s
  | none =>
    if (rs ++ ws).any fun r => !r.faults.isEmpty then (((rs ++ ws).find? fun r => !r.faults.isEmpty).map fun r => openFaults e r s).getD s
    else
      let (rows, s) := rs.foldl (fun (y : List Tainted × State) r =>
        let (d, s) := readTainted r.at_ y.2
        (y.1 ++ [d], s)) ([], readsFor es s)
      let elem := fun (row col : Nat) => moveElem sf df x.nonsat (slice ((rows[row]?).getD []) (col * se) se)
      let out := if tr then (List.range cn).map fun k => (List.range rn).flatMap fun j => elem j k
        else (List.range rn).map fun k => (List.range cn).flatMap fun j => elem k j
      let s := writeTainted (hintOf (i.f 66 1)) (out.zip ws) (readsFor e s)
      let s := s.setItem c i.seq fun i => { i with next := i.next + 1, moved := i.moved + rn * cn * de }
      if i.blocks ≤ i.next + 1 then endItem c i.seq ST.ok s else s
/-- COPY_BLOCK (R210): the copy engines of a running copy item move its next block. -/
def execCopyBlock (ctx : Nat) (md : Media) (s : State) : Out :=
  done s (runWith md (fun s => match frontItem s ctx with
    | some (x, i) => if s.alive && i.kind = 2 && i.phase = 2 && !s.stalledOn (.brimCopy ctx) then copyBlock ctx x i s else s
    | none => s) s)

/-! ## Host copies (R352 to R354) -/

/-- Pieces that may be dealt, each with the item by which it ranks: of running host copy items, and of migrations whose page
no request holds any longer, which count as SOFT (R67, R272, R283). -/
def hostWork (s : State) : List (Piece × Item) :=
  (s.ctxs.filterMap fun e => match frontItem s e.1 with
    | some (_, i) =>
      if i.kind = 3 && i.phase = 2 && decide (i.next < i.hostPieces) then some ({ ctx := e.1, seq := i.seq, off := i.next * 65536 }, i)
      else none
    | none => none)
  ++ s.faults.filterMap fun r => match r.migrating with
    | some g =>
      if decide (g.next < 1024) && !holdsLeaf s r.asid r.page 1 then
        some ({ ctx := 2 ^ 20, seq := 0, off := g.next * 65536, mig := some (r.part, r.id) },
          { seq := 0, body := [], kind := 3, cls := 1, sub := 1, target := g.target, phase := 2, age := g.age })
      else none
    | none => none
/-- The piece that goes first (R67). -/
def nextHostCopy (s : State) : Option Piece :=
  ((hostWork s).foldl (fun (b : Option (Piece × Item)) e => match b with
    | none => some e
    | some d => if moreUrgent e.2 d.2 then some e else some d) none).map (·.1)
/-- The migration of a fault record goes on. -/
def setMigration (m : Nat × Nat) (f : Migration → Migration) (s : State) : State :=
  { s with faults := modFirst (fun r => r.part = m.1 && r.id = m.2) (fun r => { r with migrating := r.migrating.map f }) s.faults }
/-- HOST_COPY_PIECE_START (R352). -/
def execHostCopyPieceStart (e : Nat) (s : State) : Out :=
  done s (if !s.alive || s.host.hostLost || 16 ≤ e || (look s.hce e).isSome then s
    else match nextHostCopy s with
      | none => s
      | some p =>
        let s := match p.mig with
          | some m => setMigration m (fun g => { g with next := g.next + 1 }) s
          | none => s.setItem p.ctx p.seq fun i => { i with next := i.next + 1 }
        { s with hce := put s.hce e p })
/-- Which ranges of an access to device lines come by TLPs that fail their ECRC (R298). -/
def ecrcOf (point : Nat) (l : List (Where × Nat)) (s : State) : List (Bool × Nat) × State :=
  l.foldl (fun (x : List (Bool × Nat) × State) p =>
    match p.1 with
    | .dev a _ =>
      let (f, s) := ecrcFails (lineOf a) point x.2
      (x.1 ++ [(f, p.2)], s)
    | _ => (x.1 ++ [(false, p.2)], x.2)) ([], s)
/-- A piece moves: host lines are written in, their words made as they enter, poisoned where a TLP fails its ECRC; or device
lines go out, each marked where it is poisoned or fails its last check (R295, R296, R298, R353). -/
def hostPiece (e : Nat) (p : Piece) (x : Ctx) (i : Item) (s : State) : State :=
  let g : Engine := { die := 24, code := 4, ctx := p.ctx, asid := x.asid, part := x.part, stall := .hostCopy p.ctx }
  let n := Nat.min 65536 (i.f 48 8 - p.off)
  let toDev := i.f 24 1 = 0
  let host := i.f 32 8 + p.off
  let (r, s) := reachRange g (if toDev then { wr := true } else { rd := true }) (i.f 40 8 + p.off) n {} s
  match r.bad with
  | some (st, _) => { endItem p.ctx i.seq st s with hce := s.hce.filter fun h => h.2.ctx ≠ p.ctx }
  | none =>
    if !r.faults.isEmpty then openFaults g r s
    else
      let s := atEngine 24 (0x1000 + e) (if toDev then [] else [(0x2000 + e, 3)]) { s with hce := del s.hce e }
      let (bad, s) :=
        if toDev then
          let (fails, s) := ecrcOf (0x1000 + e) r.at_ s
          let bad := fails.flatMap fun f => List.replicate f.2 f.1
          (0, writeTainted (hintOf (i.f 25 1)) [((cellsGet s.hostMem host n).zip bad, r)] s)
        else
          let (_, bad, s) := r.at_.foldl (fun (y : Nat × Nat × State) q =>
            let (d, s) := placeRead true q y.2.2
            (y.1 + q.2, y.2.1 + b01 d.poison, hostReq (.write y.1 d.data d.poison s.host.relaxed) s)) (host, 0, s)
          (bad, s)
      let s := s.setItem p.ctx i.seq fun i => { i with
        pieces := i.pieces - 1, moved := i.moved + n, poisoned := i.poisoned + bad }
      if i.pieces ≤ 1 then endItem p.ctx i.seq ST.ok s else s
/-- A piece of a migration moves: whole lines into the frame (R283). A line whose access is refused is not written (DESIGN
CHOICE, log 38). -/
def migrationPiece (e : Nat) (p : Piece) (r : FaultRec) (g : Migration) (s : State) : State :=
  let s := (List.range 256).foldl (fun s k =>
    let a := g.frame + p.off + 256 * k
    let (st, s) := accessCheck (some r.part) 24 4 noCtx a {} s
    if st = ST.ok then
      let (bad, s) := ecrcFails (lineOf a) (0x1000 + e) s
      lineWrite (lineOf a) (atOffsets 0 (cellsGet s.hostMem (g.host + p.off + 256 * k) 256)) bad true (atEngine 24 (0x1000 + e) [] s)
    else s) { s with hce := del s.hce e }
  setMigration (r.part, r.id) (fun g => { g with left := g.left - 1 }) s
/-- HOST_COPY_PIECE_DONE (R352). -/
def pieceDone (e : Nat) (p : Piece) (s : State) : State :=
  match p.mig with
  | some m =>
    match s.faults.find? fun r => r.part = m.1 && r.id = m.2 with
    | some r => (r.migrating.map fun g => migrationPiece e p r g s).getD s
    | none => s
  | none =>
    match s.ctx p.ctx, s.item p.ctx p.seq with
    | some x, some i => if s.stalledOn (.hostCopy p.ctx) then s else hostPiece e p x i s
    | _, _ => s
def execHostCopyPieceDone (e : Nat) (h : HostWrites) (md : Media) (s : State) : Out :=
  done s (runWith md (fun s => match look s.hce e with
    | none => s
    | some p => if s.alive && s.host.canIssue then pieceDone e p s else s) (hostWrote h s))

end Sys2Proof.Machine
end

