-- ==== Sys2Proof/Machine/Admission.lean ====
section
/-! DEFINITION. Admission (R57 to R66, R455): the budgets of a beat, the static checks, the placement, the record. -/

namespace Sys2Proof.Machine

open Sys2Proof

/-! ## Budgets of a beat (R57 to R59, Table 02-12) -/

/-- The lockstep job of a partition, whose clock and floor bound its items (R77, log 34). -/
def lockstepOf (s : State) (p : Nat) : Option Job := s.peer.jobs.find? fun j => j.part = p && j.lockstep && decide (j.state < 3)
/-- Contract clock and issue rate for a partition's items under a cap. -/
def clockFor (s : State) (p : Nat) : Nat := ((lockstepOf s p).map (·.clock)).getD s.clock
def issueFor (s : State) (p cap : Nat) : Nat :=
  match lockstepOf s p with
  | some j => Nat.min (issueOf cap) j.floor
  | none => issueOf cap
/-- FIRM limit of a link group in a beat: 0.94 of what it keeps (R59, Table 02-18). -/
def feltLimit (s : State) (g : Nat) : Nat := 94 * Nat.min (groupBase g / rateDiv s g) (lookD s.plan.links g (groupFull g)) * s.time.window / 100
/-- A ring module that joins two dies of different partitions carries no traffic (R36): its limit is 0 for every partition. -/
def feltLimitIn (s : State) (q : Partition) (g : Nat) : Nat :=
  if 24 ≤ g && !(bit q.brims.toNat (g - 24) && bit q.brims.toNat ((g - 24 + 1) % 16)) then 0 else feltLimit s g
/-- FIRM limit of a stack. -/
def stackLimit (s : State) (k : Nat) : Nat := 94 * lookD s.plan.stks k 72000 * s.time.window / 100
/-- What is left to accepted work after a fall: the limit of admission, or all that remains where that is less (R73,
Table 02-18). -/
def feltLeft (s : State) (g : Nat) : Nat :=
  Nat.min (94 * (groupBase g / rateDiv s g) * s.time.window / 100) (lookD s.plan.links g (groupFull g) * s.time.window)
def stackLeft (s : State) (k : Nat) : Nat := Nat.min (94 * 72000 * s.time.window / 100) (lookD s.plan.stks k 72000 * s.time.window)
/-- FIRM limits of a partition's shares. -/
def crownLimit (s : State) (q : Partition) : Nat := 78125 * s.time.window * 94 * q.shareCrown / 25600
def peerLimit (s : State) (q : Partition) (port : Nat) : Nat :=
  if s.plan.portsDown.contains port then 0 else 145 * s.time.window / 100 * q.sharePeer / 256
def energyLimit (s : State) (q : Partition) (b : Nat) : Nat := 97 * capIn s b * s.time.period * q.shareEnergy / 25600

/-- What the placed slices of a beat take of a resource, of one partition or of all. -/
def taken (l : List Placed) (p : Option Nat) (b kind index : Nat) : Nat :=
  ((l.filter fun x => x.beat = b && p.all (· = x.part)).map (·.cost.uses kind index)).sum

/-- A slice fits on a core in a beat (R58); a failed region has no cores (R427). -/
def coreFits (s : State) (l : List Placed) (p ctx seq b core : Nat) (k : Cost) : Bool :=
  let on := fun n => l.filter fun x => x.beat = n && x.cost.onCore core
  let near := (if b = 0 then [] else on (b - 1)) ++ on (b + 1)
  let others := near.filter fun x => !(x.ctx = ctx && x.seq = seq)
  let cap := capIn s b
  (on b).isEmpty && !s.plan.failed.getLsbD (regionOfCore core)
    && decide (k.array ≤ clockFor s p * s.time.window * issueFor s p cap / 32) && decide (k.vector ≤ clockFor s p * s.time.window)
    && decide (k.slots + (others.map (·.cost.slots)).sum ≤ 16) && decide (k.scratch + (others.map (·.cost.scratch)).sum ≤ 1048576)

/-- The first budget that a slice fails in a beat, in the order of Table 02-13: kind and index. -/
def beatFails (s : State) (q : Partition) (l : List Placed) (x : Placed) (b : Nat) : Option (Nat × Nat) :=
  let p := x.part
  let k := x.cost
  match k.coreList.find? fun c => !coreFits s l p x.ctx x.seq b c k with
  | some c => some (0x07, c)
  | none =>
    match (k.indices 1).find? fun i => decide (stackLimit s i < taken l none b 1 i + k.uses 1 i) with
    | some i => some (0x08, i)
    | none =>
      match (k.indices 2).find? fun i => decide (feltLimitIn s q ((feltGroup i).getD 0) < taken l none b 2 i + k.uses 2 i) with
      | some i => some (0x09, i)
      | none =>
        let crown := ((placedIn l p b true).map (·.cost.crown)).sum
        if crownLimit s q < crown + k.crown then some (0x0A, 0)
        else match (k.indices 3).find? fun i => decide (peerLimit s q i < taken l (some p) b 3 i + k.uses 3 i) with
          | some i => some (0x0B, i)
          | none =>
            let uj := ((placedIn l p b true).map (·.cost.energy)).sum
            if energyLimit s q b < uj + k.energy then some (0x0C, p)
            else if powerRiseOk s p (l ++ [{ x with beat := b }]) then none else some (0x0D, p)

/-! ## Placement (R51, R62) -/

/-- wake_bound (R62): the beat after the one in which the deepest wake from the next seal ends; a region that wakes already
needs what is left of its wake (DEDUCED, log 77). -/
def wakeBound (s : State) (k : Cost) : Nat :=
  let t := s.time
  let n := t.index
  let sealAt := (if t.inGuard then n + 2 else n + 1) * t.beatNs - t.guard * 1000
  let wake := fun (r : Nat) =>
    if s.pwr.waking.contains r && lookD s.pwr.leaving r 0 = 0 then lookD s.pwr.wakeEnd r 0 - (t.epoch + sealAt) else wakeNs (s.regionState r)
  let w := (bitsOf 64 k.regions.toNat).foldl (fun m r => Nat.max m (wake r)) 0
  (sealAt + w) / t.beatNs + 1
/-- A failure in a placement: kind, index, slice, beat. -/
structure Fail where
  kind : Nat
  index : Nat
  slice : Nat
  beat : Nat
  deriving DecidableEq, Repr
/-- The first beat from `b`, below a fuel, in which the slice fits, and the first failure met. -/
def seekBeat (s : State) (q : Partition) (l : List Placed) (x : Placed) : Nat → Nat → Option Fail → Option Nat × Option Fail
  | 0, _, f => (none, f)
  | n + 1, b, f =>
    match beatFails s q l x b with
    | none => (some b, f)
    | some (k, i) => seekBeat s q l x n (b + 1) (f <|> some { kind := k, index := i, slice := x.slice, beat := b })
/-- Slices placed in turn from beat `b` on: the placement, or none with the slice and beat that met the horizon. -/
def placeAll (s : State) (q : Partition) (horizon : Nat) :
    List Placed → Nat → List Placed → Option Fail → Option (List Placed) × Option Fail × Nat × Nat
  | [], _, acc, f => (some acc, f, 0, 0)
  | x :: t, b, acc, f =>
    let b := Nat.max b (wakeBound s x.cost)
    match seekBeat s q (s.plan.placed ++ acc) x (horizon + 1 - b) b f with
    | (some n, f) => placeAll s q horizon t (n + 1) (acc ++ [{ x with beat := n }]) f
    | (none, f) => (none, f, x.slice, Nat.max b (horizon + 1))

/-! ## Static checks (R64, R472) -/

/-- First page of a run that fails a test. -/
def scanPages (bad : Nat → Bool) : Nat → Nat → Option Nat
  | _, 0 => none
  | page, n + 1 => if bad page then some page else scanPages bad (page + 1) n
/-- Lowest page of a footprint that fails a test of page and kinds. -/
def lowestPage (bad : Nat → Nat → Bool) (l : List PageRun) : Option Nat :=
  (l.filterMap fun r => scanPages (fun g => bad g r.2.2) r.1 (Nat.min r.2.1 (2 ^ 31 - r.1 + 1))).min?
/-- The locked leaf of a pinned page. -/
def pinnedLeaf (s : State) (asid page : Nat) : Option W64 :=
  if (look s.aspaces asid).any fun a => a.pins.contains page then
    ((s.tcOf 24).find? fun e => e.locked && e.covers asid (page * 2 ^ 26)).map (·.leaf) else none
/-- The page is pinned with every permission that the footprint declares (R64). -/
def pageResident (s : State) (asid page kinds : Nat) : Bool :=
  match pinnedLeaf s asid page with
  | some e => (!bit kinds 0 || e.getLsbD 3) && (!bit kinds 1 || e.getLsbD 4) && (!bit kinds 2 || e.getLsbD 5)
  | none => false
/-- An unpinned page that the tables send to host memory. -/
def pageInHost (e : Engine) (s : State) (page : Nat) : Bool :=
  (pinnedLeaf s e.asid page).isNone && (match (walk e (page * 2 ^ 26) {} s).1 with | .leaf w _ => fld w.toNat 62 2 = 1 | _ => false)
/-- The kind may be FIRM here (Table 02-9, R388). -/
def classOk (s : State) (x : Ctx) (i : Item) : Bool :=
  let lock := (jobOf s i.job).any fun j => j.lockstep && decide (j.state < 3)
  match i.kind with
  | 3 => false
  | 5 => lock
  | 6 => lock && i.f 24 1 ≠ 1
  | 7 => (i.job ≠ 0 && lock)
      || ((s.ctx i.signaller.1).any (·.part = x.part) && (s.item i.signaller.1 i.signaller.2).any fun g => g.kind = 8 && g.contracted)
  | _ => true
/-- First slice whose cycles no beat holds: slice, and 0 array or 1 vector. -/
def cyclesBad (s : State) (p : Nat) (l : List Cost) : Option (Nat × Nat) :=
  let f := clockFor s p
  let q := issueFor s p s.pwr.cap
  ((List.range l.length).zip l).findSome? fun e =>
    if f * s.time.window * q / 32 < e.2.array then some (e.1, 0)
    else if f * s.time.window < e.2.vector then some (e.1, 1) else none
/-- The first static check that fails: kind, index, slice, and the address of a page where the check names one. Where no slice
failed (CLASS, MAINTENANCE, HOST_MEMORY, NOT_RESIDENT, ADMISSION_TABLE, and WINDOW below) Table 02-14 names no slice, and the
model puts 0 (DESIGN CHOICE, log 11). -/
def staticFail (s : State) (c : Nat) (x : Ctx) (q : Partition) (i : Item) (z : Slices) (foot : List PageRun) :
    Option (Nat × Nat × Nat × Option Nat) :=
  match z.bad with
  | some k => some (0x01, k, k, none)
  | none =>
    if !classOk s x i then some (0x02, i.kind, 0, none)
    else if q.maintenance then some (0x10, x.part, 0, none)
    else match lowestPage (fun g _ => pageInHost (noseOf c x) s g) foot with
      | some g => some (0x03, 0, 0, some (g * 2 ^ 26))
      | none =>
        match lowestPage (fun g k => !pageResident s x.asid g k) foot with
        | some g => some (0x04, 0, 0, some (g * 2 ^ 26))
        | none =>
          match cyclesBad s x.part z.costs with
          | some (k, v) => some (0x05, v, k, none)
          | none => if 128 * q.shareTable ≤ (firmItems s x.part).length then some (0x06, x.part, 0, none) else none

/-! ## The decision (R62, R66, R455) -/

/-- No beat (Table 02-14). -/
def noBeat : Nat := 2 ^ 64 - 1
/-- An admission record's 32 bytes (Table 02-14). -/
def admBytes (seq : Nat) (a : AdmRec) : List Byte :=
  leBytes 4 seq ++ leBytes 1 a.verdict ++ leBytes 1 a.reason ++ leBytes 2 a.index ++ leBytes 4 a.slice ++ leBytes 4 0
    ++ leBytes 8 a.beat ++ leBytes 8 a.earliest
/-- The ADMISSION entry of an item (R374, R375). -/
def admEntry (c seq : Nat) (a : AdmRec) (s : State) : State :=
  match s.item c seq with
  | some i => postEntry c (entryBody ST.ok 2 i.cls seq a.beat (admBytes seq a) []) (!i.quiet) s
  | none => s
/-- First beat that a request may use: open, not before it asks, after the context's FIRM work, after a wait's signaller,
and not before its job starts (R51, R62, R399). -/
def firstBeat (s : State) (c : Nat) (i : Item) : Nat :=
  let lo := Nat.max (Nat.max s.firstOpen (s.beat + 2)) (i.f 16 8)
  let last := (s.plan.placed.filter fun p => p.ctx = c && !p.ghost).foldl (fun m p => Nat.max m (p.beat + 1)) 0
  let sig := if i.kind = 7 then (((s.item i.signaller.1 i.signaller.2).bind (·.adm)).map (·.beat + 1)).getD 0 else 0
  let job := if i.job = 0 then 0 else ((jobOf s i.job).map (·.start)).getD 0
  Nat.max (Nat.max lo last) (Nat.max sig job)

/-- What the planner finds: an accepted placement, or a refusal record. -/
inductive Decision where
  | accept (l : List Placed) (beat : Nat)
  | refuse (a : AdmRec)
/-- The procedure of R62 after its static checks. -/
def decidePlan (s : State) (c : Nat) (x : Ctx) (q : Partition) (i : Item) (z : Slices) : Decision :=
  let lo := firstBeat s c i
  let n := z.costs.length
  let mk := fun (e : Nat × Cost) =>
    ({ ctx := c, seq := i.seq, part := x.part, slice := e.1, last := e.1 + 1 = n, kind := i.kind, beat := 0, cost := e.2
       order := s.plan.nextOrder, cap := s.pwr.cap, clock := clockFor s x.part, floor := issueFor s x.part 4000 } : Placed)
  match placeAll s q (s.beat + 65536) (((List.range n).zip z.costs).map mk) lo [] none with
  | (none, some f, _, _) =>
    .refuse { verdict := 2, reason := f.kind, index := f.index, slice := f.slice, beat := f.beat, earliest := noBeat }
  | (none, none, k, b) => .refuse { verdict := 2, reason := 0x0F, index := 0, slice := k, beat := b, earliest := noBeat }
  | (some l, f, _, _) =>
    let beat := l.foldl (fun m p => Nat.max m p.beat) 0
    if i.f 8 8 ≠ 0 && decide (i.f 8 8 < beat) then
      match f with
      | some f => .refuse { verdict := 2, reason := f.kind, index := f.index, slice := f.slice, beat := f.beat, earliest := beat }
      | none => .refuse { verdict := 2, reason := 0x0E, index := 0, slice := 0, beat := lo, earliest := beat }
    else .accept l beat

/-- A placement is committed: budgets, accord entries, table entry, and the record. -/
def acceptItem (c : Nat) (i : Item) (z : Slices) (foot : List PageRun) (l : List Placed) (beat : Nat) (s : State) : State :=
  let a : AdmRec := { verdict := 1, reason := 0, index := 0, slice := z.costs.length, beat, earliest := beat }
  let pages := foot.flatMap fun r => (List.range r.2.1).map fun k => (r.1 + k, r.2.2)
  let s := { s with plan := { s.plan with placed := s.plan.placed ++ l, nextOrder := s.plan.nextOrder + 1 } }
  admEntry c i.seq a (s.setItem c i.seq fun i => { i with phase := 1, adm := some a, args := z.args, costs := z.costs, foot := pages })
/-- A refusal: the item leaves, or under OBSERVE runs as SOFT (R66, R375, R455). -/
def refuseItem (c : Nat) (x : Ctx) (q : Partition) (i : Item) (z : Slices) (a : AdmRec) (s : State) : State :=
  if q.observe && z.bad.isNone then
    let a := { a with verdict := 3 }
    let target := if a.earliest ≠ noBeat then a.earliest else if i.f 8 8 ≠ 0 then i.f 8 8 else Nat.max s.firstOpen (s.beat + 2)
    admEntry c i.seq a (s.setItem c i.seq fun i => { i with
      phase := 1, cls := 1, target := target, adm := some a, args := z.args, costs := z.costs })
  else
    let s := admEntry c i.seq a s
    flushItems c x.items.length (s.setCtx c fun x => { x with items := x.items.filter (·.seq ≠ i.seq) })
/-- The planner decides one request. The beat of a static refusal that names no page is stated nowhere (log 11). -/
def decide_ (c : Nat) (x : Ctx) (i : Item) (s : State) : State :=
  match s.part x.part with
  | none => s
  | some q =>
    let e := noseOf c x
    let (z, s) := slicesOf e c x i s
    let (foot, s) := if z.bad.isSome then ([], s) else footprint e i z s
    match staticFail s c x q i z foot with
    | some (kind, index, slice, va) =>
      let (w, s) := drawWord s
      refuseItem c x q i z { verdict := 2, reason := kind, index, slice, beat := va.getD w.toNat, earliest := noBeat } s
    | none =>
      match decidePlan s c x q i z with
      | .accept l beat => acceptItem c i z foot l beat s
      | .refuse a => refuseItem c x q i z a s
/-- The oldest request that awaits a decision (R62). -/
def nextRequest (s : State) : Option (Nat × Nat) :=
  let all := s.ctxs.flatMap fun e => (e.2.items.filter (·.phase = 0)).map fun i => (i.age, e.1, i.seq)
  (all.foldl (fun b e => match b with | some d => if e.1 < d.1 then some e else b | none => some e) none).map (·.2)
/-- ADMISSION_DECISION (R62): requests are decided in the order in which the Nose took them. While a change of the grid or a
step of the counter waits for its boundary, decisions wait too, so that no slice stands in an accord which the boundary
discards (R45; DESIGN CHOICE, log 86). -/
def execAdmissionDecision (ctx seq : Nat) (md : Media) (s : State) : Out :=
  done s (runWith md (fun s =>
    match s.ctx ctx, s.item ctx seq with
    | some x, some i => if s.noseUp && !s.gridWaits && nextRequest s = some (ctx, seq) then decide_ ctx x i s else s
    | _, _ => s) s)

end Sys2Proof.Machine
end

