-- ==== Sys2Proof/Machine/Reset.lean ====
section
/-! DEFINITION. The full reset and its steps (18), power-up and PERST# (20, R466), emergency shutdown (R420). -/

namespace Sys2Proof.Machine

open Sys2Proof

/-- A stack's training cache being written when a reset interrupts it is invalid (R437). -/
def interruptedCache (s : State) : Bool := s.rst.step = 8 && s.rst.cold

/-- Soft row repairs of each stack that no training has made permanent yet (R209). -/
def softRepairs (s : State) : Tab Nat :=
  (List.range 16).foldl (fun t k => putD t k (lookD s.rst.softRows k 0 + (s.stack k).soft) 0) []
/-- The training of step 5 makes them permanent: the rows counted in module flash (R209, Table 08-5). -/
def madePermanent (s : State) : Tab Nat :=
  (List.range 16).foldl (fun t k => putD t k (Nat.min 65535 (lookD t k 0 + lookD s.rst.softRows k 0)) 0) s.flash.rows

/-- A full reset begins (R429): everything returns to its starting state but the fuses and the module flash; a reset
without loss of power begins at step 2 (R432). -/
def fullReset (cause step : Nat) (s : State) : State :=
  { pending := s.pending
    rst := { step := step, cause := cause, softRows := softRepairs s, events := [] }
    flash := { s.flash with trainingCache := s.flash.trainingCache && !interruptedCache s }
    pins := { s.pins with cxlPerst := false, pwrok := decide (2 ≤ step), thermAlert := true }
    dies := s.dies.map fun e => (e.1, { identity := e.2.identity, temp := e.2.temp })
    host := { linkUp := false, rrs := true }
    hostMem := s.hostMem
    pwr := { prevShutdown := s.pwr.prevShutdown, powerW := s.pwr.powerW, volts := s.pwr.volts, amps := s.pwr.amps }
    free := s.free }

/-- RESET_DEVICE, decoded by the Crown in any mailbox once the shell takes writes (R343). -/
def execResetDevice (m : Nat) (_seq : BitVec 16) (_inWords : Nat) (s : State) : Out :=
  done s (barAccess (fun s => if s.shellUp && m < 64 then fullReset 2 2 s else s) s)

/-! ## Checks of the dies (R16, R321 to R323) -/

/-- Kind of the die wired at a die-level number (Table 01-1). -/
def kindAt (d : Nat) : Nat := if d < 16 then 2 else if d < 20 then 3 else if d < 24 then 4 else 1
/-- Modules of a site (R13). -/
def siteModules (d : Nat) : Nat := if d < 20 then 0xF else 3
/-- Classes that a site requires: all for a caching agent, REQ, RSP, DAT and ACK otherwise (Table 13-9). -/
def classesNeeded (caching : Bool) : Nat := if caching then 0x3F else 0x2D
/-- Least credits of a die site (Table 13-6), REQ first. -/
def leastCredits (d : Nat) : List Nat := if d < 20 then [64, 32, 64, 64, 16, 64] else [64, 0, 64, 64, 0, 64]
/-- Share of the cap that a die-site die may draw, in W at the rated cap (Table 17-2). -/
def sitePower (d : Nat) : Nat := if d < 16 then 150 else if d < 20 then 100 else 70

/-- The die's capability words pass the checks of R323. A die whose words have not come passes (log 2). -/
def capsPass (x : Die) (d : Nat) : Bool :=
  if x.caps.isEmpty then true
  else
    let w := fun i => (lookD x.caps i 0).toNat
    let caching := fld (w 3) 56 2 = 1
    decide (1 ≤ fld (w 2) 56 8) && fld (w 2) 52 4 &&& siteModules d = siteModules d
      && fld (w 3) 58 6 &&& classesNeeded (d < 16 || caching) = classesNeeded (d < 16 || caching)
      && (d < 16 || ((List.range 6).zip (leastCredits d)).all fun e => decide (e.2 ≤ fld (w 4) (10 * e.1) 10))
      && decide (fld (w 5) 48 16 ≤ sitePower d) && decide (fld (w 5) 40 8 ≤ 2)

/-- The check that a die fails, 0 for none (R16, Table 15-1). -/
def dieCheck (s : State) (d : Nat) : Nat :=
  let w := (s.die d).identity.toNat
  let kind := fld w 60 4
  let site := fld w 56 4
  let twin := (List.range 25).any fun e =>
    e ≠ d && fld (s.die e).identity.toNat 60 4 = kind && fld (s.die e).identity.toNat 56 4 = site
  if d = 24 then 0
  else if kind ≠ kindAt d then 1
  else if twin then 2
  else if fld w 0 32 ≠ fld (s.die 24).identity.toNat 0 32 then 3
  else if !capsPass (s.die d) d then 4 else 0

/-- Modules that join a die: of its group to the Crown, and of a Brim die both ring modules. -/
def dieModules (d : Nat) : List Nat := groupModules d ++ if d < 16 then [88 + d, 88 + (d + 15) % 16] else []
/-- Step 3: dies that fail are isolated, each with an event; their modules carry nothing (R16, R17). -/
def checkDies (s : State) : State :=
  (List.range 24).foldl (fun s d =>
    let c := dieCheck s d
    if c = 0 then s
    else
      let s := s.setDie d fun x => { x with state := 1, check := c }
      let s := (dieModules d).foldl (fun s k => s.setModule k fun x => { x with state := 3 }) s
      { s with rst := { s.rst with events := s.rst.events ++ [(0x0104, 3, evAt 0 d + evAt 1 c)] } }) s

/-! ## Steps (Table 18-2) -/

/-- The reset goes on to a step. -/
def toStep (k : Nat) (s : State) : State := { s with rst := { s.rst with step := k } }

/-- Step 2 ends: the staged image boots when it passes, and the running one becomes the fallback; one that fails is
cleared and reported (R435). -/
def bootImage (good secure : Bool) (s : State) : State :=
  let s := { s with host := { s.host with rrs := false } }
  match s.flash.staged with
  | none => toStep 3 s
  | some v =>
    if good && secure then
      toStep 3 { s with
        rst := { s.rst with bootingStaged := true }
        flash := { s.flash with running := v, staged := none, fallback := some s.flash.running } }
    else
      toStep 3 { s with
        flash := { s.flash with staged := none, stagedGood := true }
        rst := { s.rst with fellBack := some (v, if good then 2 else 1) } }

/-- The boot has failed (R436). -/
def bootFails (s : State) : State := toStep 10 s

/-- Events of the reset, each in its turn (R445). -/
def postAll (l : List (Nat × Nat × Nat)) (s : State) : State :=
  l.foldl (fun s e => logEvent e.1 e.2.1 e.2.2 s) s

/-- Mailbox-ready (R432, R438, R444): the flash records begin the log, then BOOT, then the events of the reset. -/
def mailboxReady (s : State) : State :=
  let here := fun lo n => BitVec.ofNat 16 (ofBits ((List.range n).filter fun d => s.dieHere (lo + d)))
  let s := { s with
    time := {}
    rst := { s.rst with step := 9, capBrims := here 0 16, capProcs := (here 16 4).setWidth 4
                        capPorts := (here 20 4).setWidth 4, capStacks := here 0 16, capReserve := s.rst.reserveLog2 }
    reserveLog2 := s.rst.reserveLog2
    pwr := { s.pwr with failed := s.rst.badRegions }
    l2 := s.rst.badWays.foldl (fun t w =>
      let d := w / 512
      put t d { lookD t d {} with off := addSorted (w % 512) (lookD t d {}).off }) s.l2
    flash := { s.flash with
      trainingCache := true
      fallback := if s.rst.bootingStaged then none else s.flash.fallback } }
  let s := { s with plan := { s.plan with
    links := linkTable s
    stks := ((List.range 16).filter fun k => !s.dieHere k).map (·, 0)
    portsDown := (List.range 16).filter fun p => !s.dieHere (20 + p / 4) } }
  let ms := if s.rst.cold then 40000 else 2800
  let s := s.flash.events.foldl (fun s r => postRecord { r with replayed := true } s) s
  let s := { s with flash := { s.flash with events := [] } }
  let s := logEvent 0x0101 0 (evAt 0 s.rst.cause + evAt 1 (b01 s.rst.cold) + evAt 4 ms) s
  let s := match s.rst.fellBack with
    | some (v, why) => logEvent 0x0102 0 (evAt 0 v + evAt 4 why) s
    | none => s
  postAll s.rst.events { s with rst := { s.rst with events := [], fellBack := none, bootingStaged := false } }

/-- Step 7: failing regions are kept off and failing bank-ways disabled, each with SELFTEST_FAIL (R434). -/
def selfTested (badRegions : W64) (badWays : List Nat) (s : State) : State :=
  let regions := (bitsOf 64 badRegions.toNat).map fun r => (0x0103, 3, evAt 0 1 + evAt 1 (r / 4) + evAt 2 r)
  let ways := badWays.map fun w => (0x0103, 3, evAt 0 2 + evAt 1 (w / 512) + evAt 2 (w % 512))
  toStep 8 { s with rst := { s.rst with badRegions, badWays, events := s.rst.events ++ regions ++ ways } }

/-- A step of the reset ends with what it found (R432 to R437); a reserve tier of another size than R219 supports is absent.
CXL_PERST# is let go as step 4 begins (Table 20-6). -/
def resetStep (r : StepResult) (s : State) : State :=
  match s.rst.step, r with
  | 1, .ok => toStep 2 { s with pins := { s.pins with pwrok := true } }
  | 2, .image good secure => bootImage good secure s
  | 2, .ok => bootImage true true s
  | 2, .failed => bootFails s
  | 3, .ok =>
    let t := checkDies s
    toStep 4 { t with pins := { t.pins with cxlPerst := true } }
  | 4, .trained r _ =>
    let r := if 36 ≤ r && r ≤ 40 then r else 0
    toStep 5 { s with rst := { s.rst with reserveLog2 := r } }
  | 5, .trained _ cold =>
    toStep 6 { s with
      rst := { s.rst with cold := decide (cold ≠ 0) || !s.flash.trainingCache, softRows := [] }
      flash := { s.flash with rows := madePermanent s } }
  | 6, .ok => toStep 7 { s with mem := {} }
  | 7, .selfTest bad ways => selfTested bad ways s
  | 7, .failed => bootFails s
  | 8, .ok => mailboxReady s
  | _, _ => s

/-- RESET_STEP_DONE (R432). -/
def execResetStepDone (r : StepResult) (s : State) : Out := done s (resetStep r s)

/-- FW_FALLBACK_TIMEOUT (R435): the staged image has not reached mailbox-ready, and the previous one boots. -/
def execFwFallbackTimeout (s : State) : Out :=
  done s (if 2 ≤ s.rst.step && s.rst.step ≤ 8 && s.rst.bootingStaged then
    match s.flash.fallback with
    | some v =>
      { toStep 2 s with
        flash := { s.flash with running := v, fallback := none, staged := none }
        rst := { s.rst with step := 2, bootingStaged := false, fellBack := some (s.flash.running, 3) } }
    | none => s
  else s)

/-- BOOT_FAIL_TIMEOUT (R436): no image has reached mailbox-ready. -/
def execBootFailTimeout (s : State) : Out :=
  done s (if 1 ≤ s.rst.step && s.rst.step ≤ 8 then bootFails s else s)

/-! ## Input power and PERST# (R403, R405, R429, R464, R466) -/

/-- Volts in units of 10 mV beyond the absolute maximum of Table 20-4. -/
def beyondRatings (volts : Nat) : Bool := decide (6600 < volts)

/-- SOFT_START (R405): the input rises through 30 V, and the capacitance charges. -/
def execSoftStart (volts : Nat) (s : State) : Out :=
  if beyondRatings volts then .fault .outsideRatings
  else done s (if s.rst.step = 0 && 3000 ≤ volts then { s with pwr := { s.pwr with soft := true } } else s)

/-- POWER_UP (R405, R429): the input passes 40 V with its capacitance charged; after a shutdown the input must have
been below 10 V for 1 s (R420). -/
def execPowerUp (volts : Nat) (s : State) : Out :=
  if beyondRatings volts then .fault .outsideRatings
  else done s (
    let after := s.flash.shutdown.isSome
    if s.rst.step = 0 && s.pwr.soft && 4000 < volts && (!after || 1000 ≤ s.pwr.below10) then
      let t := fullReset (if after then 3 else 0) 1 s
      { t with flash := { t.flash with shutdown := none }
               pwr := { t.pwr with prevShutdown := after }
               pins := { t.pins with thermAlert := true } }
    else s)

/-- PERST_ASSERT (R466): held for at least 100 µs, it begins a full reset, which waits for its release. -/
def execPerstAssert (heldUs : Nat) (s : State) : Out :=
  done s (
    let t := { s with pins := { s.pins with perst := false } }
    if heldUs < 100 || s.rst.step = 0 then (if heldUs < 100 then s else t)
    else if s.rst.step = 1 then t
    else fullReset 1 11 t)

/-- PERST_RELEASE (R466): step 2 starts. -/
def execPerstRelease (s : State) : Out :=
  done s (
    let t := { s with pins := { s.pins with perst := true } }
    if s.rst.step = 11 then toStep 2 t else t)

/-- INPUT_BELOW_10_V (R420, R466): the time counts towards the restart, and THERM_ALERT# is let go. -/
def execInputBelow10V (heldMs : Nat) (s : State) : Out :=
  done s (if s.rst.step = 0 then
    { s with pwr := { s.pwr with below10 := heldMs, soft := false }, pins := { s.pins with thermAlert := true } }
  else { fullReset 0 0 s with pins := { s.pins with thermAlert := true, pwrok := false }, host := { linkUp := false } })

/-- PWR_SHUTDOWN as module flash keeps it (R420, R444): at most 64 records. -/
def flashShutdown (cause source : Nat) (s : State) : State :=
  let r : EvtRec := { code := 0x0604, cls := 5, seq := 0, time := s.time.now, beat := s.beat
                      payload := evPayload (evAt 0 cause + evAt 1 source) }
  let l := s.flash.events ++ s.evt.toFlash ++ [r]
  { s with flash := { s.flash with events := l.drop (l.length - 64), shutdown := some (cause, source) } }

/-- The emergency shutdown (R420): THERM_ALERT# low, the record in flash, converters and link off. -/
def shutDown (cause source : Nat) (s : State) : State :=
  let t := fullReset 3 0 (flashShutdown cause source s)
  { t with
    pins := { t.pins with thermAlert := false, pwrok := false }
    pwr := { t.pwr with on := false, soft := false, below10 := 0 }
    host := { linkUp := false } }

/-- EMERGENCY_SHUTDOWN (R420). -/
def execEmergencyShutdown (cause source : Nat) (s : State) : Out :=
  done s (if s.rst.step = 0 then s else shutDown cause source s)

/-! ## The Nose and the Crown's tables (R342, R448) -/

/-- NOSE_WATCHDOG_EXPIRY (R342): state failed, busy mailboxes end, and the log's vector is signalled. -/
def execNoseWatchdogExpiry (s : State) : Out :=
  done s (if s.rst.step = 9 then
    let s := logEvent 0x0105 5 0 (failBusy (toStep 12 s))
    if s.evt.irqEn then s else sendVector s.evt.vector s
  else s)

/-- CROWN_UE (R448): all issue stops, busy mailboxes end, and the state is failed. -/
def execCrownUe (table bank : Nat) (s : State) : Out :=
  done s (if s.alive then failBusy (toStep 13 (logEvent 0x0106 5 (evAt 0 table + evAt 2 bank) s)) else s)

end Sys2Proof.Machine
end

