-- ==== Sys2Proof/Machine/Emergency.lean ====
section
/-! DEFINITION. Power events (17): the ramp governor's samples (R412), emergencies and their release (R418), converter tiles
(R406). -/

namespace Sys2Proof.Machine

open Sys2Proof

/-! ## The ramp governor (R412) -/

/-- An instantaneous input, in 10 mV, beyond the absolute maximum of Table 20-4. -/
def sampleBeyond (volts : Int) : Bool := decide (volts < -50) || decide (7500 < volts)
/-- POWER_LIMIT with the emergency bit, at a processor or port die. -/
def limitDie (d watts : Nat) (s : State) : State :=
  if s.dieHere d then s.setDie d fun x => { x with limitW := watts, limitEmergency := true } else s
/-- A sample of the input: `slew` is the rate at which demand would change the current, in 10 mA per µs. Falls beyond 0.25 A
per µs are held with burn, which is withdrawn as fast as that rate lets the current fall; a rise beyond it that burn cannot
give holds SOFT and BULK matrix issue, then the processor dies. Burn is in 10 µW: 10 mV times 10 mA per µs over 0.1 µs. -/
def governorSample (volts _amps slew : Int) (s : State) : State :=
  let per := volts.toNat
  let burn := s.pwr.burn
  if slew < -25 then { s with pwr := { s.pwr with burn := burn + (-slew - 25).toNat * per, heldSoft := false } }
  else
    let s := { s with pwr := { s.pwr with burn := burn - (slew + 25).toNat * per } }
    if slew ≤ 25 || (slew - 25).toNat * per ≤ burn then { s with pwr := { s.pwr with heldSoft := false } }
    else
      let held := s.pwr.heldSoft
      let s := { s with pwr := { s.pwr with heldSoft := true, governing := true } }
      if held then [16, 17, 18, 19].foldl (fun s d => limitDie d (s.die d).powerW s) s else s
/-- GOVERNOR_SAMPLE. -/
def execGovernorSample (volts amps slew : Int) (s : State) : Out :=
  if sampleBeyond volts then .fault .outsideRatings
  else done s (if s.alive then governorSample volts amps slew s else s)

/-! ## Emergencies (R418, Table 17-5) -/

/-- Share of the cap of a processor or port die, in W (Table 17-2). -/
def dieShare (cap d : Nat) : Nat := if d < 20 then 25 * cap / 1000 else 175 * cap / 10000
/-- The emergency path on a die: issue rate 8 on a Brim die, POWER_LIMIT at its share on a processor or port die. -/
def throttleDie (d : Nat) (s : State) : State :=
  if d < 16 then
    if s.dieHere d then
      let b := BitVec.ofNat 16 (2 ^ d)
      { s with pwr := { s.pwr with
        throttled := s.pwr.throttled ||| b, throttledBeat := s.pwr.throttledBeat ||| b, issue := put s.pwr.issue d 8 } }
    else s
  else if d < 24 then limitDie d (dieShare s.pwr.cap d) s else s
/-- Power shed by a throttled die, as burn (R418): of a Brim die at most what its issue gives up, of a processor or port die what
it drew beyond its limit. -/
def shedBurn (d : Nat) (s : State) : Nat :=
  if !s.dieHere d then 0
  else if d < 16 then 27 * ((lookD s.pwr.issue d 32) - 8) * 100000 / 8
  else if d < 24 then ((s.die d).powerW - dieShare s.pwr.cap d) * 100000 else 0
/-- THERM_ALERT# is low while any thermal or tile-thermal emergency holds (R466). -/
def alertPin (s : State) : State :=
  { s with pins := { s.pins with thermAlert := !(s.pwr.emergencies.any fun e => e.1 = 2 || e.1 = 3) } }
/-- PWR_EMERGENCY (Table 18-10). -/
def logEmergency (cond kind source phase : Nat) : State → State :=
  logEvent 0x0603 3 (evAt 0 cond + evAt 1 source + evAt 2 phase + evAt 3 kind)
/-- An emergency begins: its dies are throttled, burn takes the power that they shed. -/
def beginEmergency (cond kind source : Nat) (dies : List Nat) (s : State) : State :=
  if s.pwr.emergencies.contains (cond, kind, source) then s
  else
    let shed := (dies.map fun d => shedBurn d s).sum
    let s := dies.foldl (fun s d => throttleDie d s) s
    let s := { s with pwr := { s.pwr with
      emergencies := s.pwr.emergencies ++ [(cond, kind, source)], burn := s.pwr.burn + shed
      droopSeen := s.pwr.droopSeen || cond = 1, thermalSeen := s.pwr.thermalSeen || cond ≠ 1 } }
    logEmergency cond kind source 1 (alertPin s)
/-- DROOP_DETECT: the input or the 6 V bus (kind 3), or a rail of a die (kind 0). -/
def execDroopDetect (kind source : Nat) (s : State) : Out :=
  done s (if s.alive then beginEmergency 1 kind (if kind = 3 then 0xFF else source) (List.range 24) s else s)
/-- THERMAL_DETECT: a die, or a stack, which throttles its Brim die and meters its controller to 50 %. -/
def execThermalDetect (isStack : Bool) (source temp : Nat) (s : State) : Out :=
  done s (
    if !s.alive then s
    else if isStack then
      if source < 16 && decide (95 ≤ temp) && s.stackState source ≠ 2 then
        beginEmergency 2 1 source [source] (s.setStack source fun z => { z with temp := temp, hot := true })
      else s
    else if decide (source < 25) && decide (105 ≤ temp) && s.dieHere source then
      beginEmergency 2 0 source [source] (s.setDie source fun x => { x with temp := temp })
    else s)
/-- TILE_THERMAL_DETECT: every die. -/
def execTileThermalDetect (tile temp : Nat) (s : State) : Out :=
  done s (if s.alive && decide (125 ≤ temp) then beginEmergency 3 2 tile (List.range 24) s else s)
/-- EMERGENCY_RELEASE: its release condition holds; planned issue rates apply again from the next boundary. -/
def releaseEmergency (cond kind source : Nat) (s : State) : State :=
  let s := { s with pwr := { s.pwr with emergencies := s.pwr.emergencies.filter (· ≠ (cond, kind, source)) } }
  let s := if cond = 2 && kind = 1 then s.setStack source fun z => { z with hot := false } else s
  logEmergency cond kind source 2 (alertPin s)
def execEmergencyRelease (cond kind source : Nat) (s : State) : Out :=
  done s (if s.alive && s.pwr.emergencies.contains (cond, kind, source) then releaseEmergency cond kind source s else s)

/-! ## Converter tiles (R406) -/

/-- TILE_FAIL: the first is logged, and a second shuts the package down. -/
def execTileFail (tile : Nat) (s : State) : Out :=
  done s (
    if s.rst.step = 0 || s.pwr.tilesFailed.contains tile then s
    else if s.pwr.tilesFailed.isEmpty then
      let s := { s with pwr := { s.pwr with tilesFailed := [tile] } }
      if s.shellUp then logEvent 0x0601 3 (evAt 0 tile) s
      else { s with rst := { s.rst with events := s.rst.events ++ [(0x0601, 3, evAt 0 tile)] } }
    else shutDown 4 tile s)

end Sys2Proof.Machine
end

