-- ==== Sys2Proof/Machine/Coherence.lean ====
section
/-! DEFINITION. The Felt's coherence messages as they arrive (10, Table 13-4): requests at homes, snoops at the filter
and the agents, answers, write-backs and acknowledgements, and scratchpad windows (R194). -/

namespace Sys2Proof.Machine

open Sys2Proof

/-- A message arrives while work in the package runs; dies found lost act. -/
def felt (f : State → State) (s : State) : Out :=
  done s (if s.alive then settle (f { s with run := {} }) else s)
/-- A message that is on its way arrives. -/
def withMsg (p : FeltMsg → Bool) (f : State → State) (s : State) : State :=
  if s.coh.net.any p then f (takeFelt p s) else s
/-- The message of an opcode, line and receiver. -/
def isMsg (op line dst : Nat) (m : FeltMsg) : Bool := m.op = op && m.line = line && m.dst = dst
/-- The message of an opcode, line and sender. -/
def fromMsg (op line src : Nat) (m : FeltMsg) : Bool := m.op = op && m.line = line && m.src = src

/-! ## Requests (R246) -/

/-- A caching agent can send a caching request (R233, R241, R243, R252, R254): it is the requester, its link has not made it
lost, it keeps fewer than its most outstanding, and no WB of its own for the line is under way; a read misses, an RLC reads
only and of another die's stack, and the named way can be freed; an UPGRADE is of a line in S or O, and never an RLC's. -/
def mayAsk (r : HomeReq) (s : State) : Bool :=
  match r.q.agent with
  | none => false
  | some a =>
    let here := agentLine s a r.line
    let common := r.q.die = a && decide (a < 20) && !s.coh.lost.contains a && decide ((outstanding s a).length < mostOutstanding a)
      && !((pendingWb s a r.line).isSome && wbInFlight s r.line)
    if r.kind = .upgrade then common && decide (16 ≤ a) && here.any fun e => e.st = .S || e.st = .O
    else
      common && here.isNone && (decide (16 ≤ a) || (r.kind = .rdShared && homeOf r.line ≠ a)) && decide (r.q.way < agentWays s a)
        && !(namedWays s a r.line).contains r.q.way
        && (agentWay s a r.line r.q.way).all fun e => !lineTied s a e.1 && ((e.2.st ≠ .M && e.2.st ≠ .O) || (freeBuf a s).isSome)
/-- A caching request is sent. -/
def cachingReq (r : HomeReq) (s : State) : State := if mayAsk r s then requestHome r s else s

/-- RD_SHARED. -/
def execRdShared (q : Requester) (line : Nat) (md : Medium) (s : State) : Out :=
  felt (cachingReq { q, kind := .rdShared, line, medium := md }) s
/-- RD_UNIQUE. -/
def execRdUnique (q : Requester) (line : Nat) (md : Medium) (s : State) : Out :=
  felt (cachingReq { q, kind := .rdUnique, line, medium := md }) s
/-- UPGRADE (R252). -/
def execUpgrade (q : Requester) (line : Nat) (md : Medium) (s : State) : Out :=
  felt (cachingReq { q, kind := .upgrade, line, medium := md }) s
/-- RD_CUR. -/
def execRdCur (q : Requester) (line : Nat) (md : Medium) (s : State) : Out :=
  felt (requestHome { q, kind := .rdCur, line, medium := md }) s
/-- WR_FULL, with its write hint (R256). -/
def execWrFull (q : Requester) (line : Nat) (data : List Byte) (poison : Bool) (hint : Option Nat) (md : Medium)
    (s : State) : Out :=
  felt (requestHome { q, kind := .wrFull hint, line, data, poison, medium := md }) s
/-- WR_PART. -/
def execWrPart (q : Requester) (line : Nat) (mask : BitVec 256) (data : List Byte) (poison : Bool) (md : Medium)
    (s : State) : Out :=
  felt (requestHome { q, kind := .wrPart mask, line, data, poison, medium := md }) s
/-- ATOMIC (R187 to R190). -/
def execAtomic (q : Requester) (line amo width : Nat) (operands : List (Nat × W64)) (md : Medium) (s : State) : Out :=
  felt (requestHome { q, kind := .atomic amo width operands, line, medium := md }) s
/-- LR (R258). -/
def execLr (q : Requester) (line : Nat) (md : Medium) (s : State) : Out :=
  felt (requestHome { q, kind := .lr, line, medium := md }) s
/-- SC (R258). -/
def execSc (q : Requester) (line : Nat) (mask : BitVec 256) (data : List Byte) (md : Medium) (s : State) : Out :=
  felt (requestHome { q, kind := .sc mask, line, data, medium := md }) s

/-! ## Scratchpad windows (R194, R195) -/

/-- A request to a window: sent where it has a credit of the REQ channel, refused with RSP_ERR, or served at the bank; a
sleeping region is woken first. One to a hole or a carve-out is refused as an address that does not exist (R203). -/
def windowRequest (q : Requester) (line code : Nat) (md : Medium) (f : State → State) (s : State) : State :=
  let a := line * 256
  let m : FeltMsg := { op := code, src := q.die, dst := homeDie s a, tag := q.tag, line, cls := q.cls }
  if !m.credited s then s
  else
    let p := if q.die < 20 then s.partOfDie q.die else s.partOfBrim (homeDie s a)
    let st := match placeOf s a with
      | .hole => ST.addressHole
      | .carve _ => ST.addressHole
      | .window _ => accessStatus p q.die a {} s
      | _ => ST.windowForeign
    let s := takeCredits m s
    match placeOf s a with
    | .window c =>
      if st = ST.ok then
        let s := if diePath s q.die (dieOfCore c) = 1 then holdLink false s.run.who q.die (dieOfCore c) s else s
        f (windowWake (regionOfCore c) { s with run := { s.run with media := [(line, md)] } })
      else refuseReq { q, kind := .rdCur, line } (homeDie s a) st s
    | _ => refuseReq { q, kind := .rdCur, line } (homeDie s a) st s

/-- SCR_RD (R194). -/
def execScrRd (q : Requester) (l : MetLine) (s : State) : Out :=
  done s (if s.alive then runWith [] (windowRequest q l.line 0x0A l.md fun s =>
    let (g, s) := lineRead l.line false s
    sendFelt { op := 0x20, src := homeDie s (l.line * 256), dst := q.die, tag := q.tag, line := l.line, data := g.data
               poison := g.poison } s) s else s)
/-- SCR_WR (R194): its data is verified on its way (R292). -/
def execScrWr (q : Requester) (l : MetLine) (mask : BitVec 256) (data : List Byte) (poison : Bool) (s : State) : Out :=
  done s (if s.alive then runWith [] (windowRequest q l.line 0x0B l.md fun s =>
    let s := lineWrite l.line (maskedBytes mask data) poison false (atEngine q.die (reqMaker q) [] s)
    sendFelt { op := 0x1D, src := homeDie s (l.line * 256), dst := q.die, tag := q.tag, line := l.line } s) s else s)

/-! ## Snoops (R250, R253) -/

/-- SNP_Q: only for a query that stands in the message's own transaction. -/
def execSnpQ (home tag line kind : Nat) (requester : Option Nat) (s : State) : Out :=
  felt (withMsg (fun m => isMsg 0x10 line 24 m && m.src = home && m.tag = tag && m.body = kind) fun s =>
    match look s.coh.txns line with
    | some t => if t.query && (t.req.q.agent = requester || requester.isNone) then filterQuery t s else s
    | none => s) s
/-- SNP_SHARED. -/
def execSnpShared (agent line tag : Nat) (s : State) : Out :=
  felt (withMsg (isMsg 0x11 line agent) (answerSnoop agent line tag 0)) s
/-- SNP_CUR. -/
def execSnpCur (agent line tag : Nat) (s : State) : Out :=
  felt (withMsg (isMsg 0x12 line agent) (answerSnoop agent line tag 1)) s
/-- SNP_INV. -/
def execSnpInv (agent line tag : Nat) (s : State) : Out :=
  felt (withMsg (isMsg 0x13 line agent) (answerSnoop agent line tag 2)) s

/-! ## Answers at the home (R247, R249, R255) -/

/-- RSP_FCOUNT (R249): its operands are the message's. -/
def execRspFcount (line sent cleared entry : Nat) (other : Bool) (s : State) : Out :=
  felt (withMsg (fun m => isMsg 0x18 line (homeOf line) m && m.body = fcountBody sent cleared entry other) fun s =>
    match look s.coh.txns line with
    | none => s
    | some t =>
      let s := addPresence line (-(cleared : Int)) s
      pumpHome (homeOf line) (setTxn line { t with query := false, replies := sent, entry, other } s)) s
/-- RSP_I. -/
def execRspI (agent line : Nat) (s : State) : Out :=
  felt (withMsg (fromMsg 0x19 line agent) (replyHome agent line id)) s
/-- RSP_S. -/
def execRspS (agent line : Nat) (s : State) : Out :=
  felt (withMsg (fromMsg 0x1A line agent) (replyHome agent line id)) s
/-- RSP_WBPEND (R255): answered when the recorded phase is the message's, else the home waits for that write-back. -/
def execRspWbpend (agent line buf : Nat) (phase : Bool) (s : State) : Out :=
  felt (withMsg (fun m => fromMsg 0x1B line agent m && m.body = inFld buf 28 6 + inFld (b01 phase) 27 1) fun s =>
    let applied := lookD s.coh.applied (phaseKey agent buf (homeOf line)) false == phase
    replyHome agent line (fun t => if applied then t else { t with wbs := t.wbs ++ [(agent, buf, phase)] }) s) s

/-! ## Completions at the requester -/

/-- RSP_GRANT (R252): the requester's copy is granted M. -/
def execRspGrant (agent line grant : Nat) (s : State) : Out :=
  felt (withMsg (fun m => isMsg 0x1C line agent m && m.body = grant) fun s =>
    match agentLine s agent line with
    | none => s
    | some e =>
      grantLine agent line e.way ((look s.coh.txns line).map (·.req.q.tag) |>.getD 0) grant ⟨e.data, e.poison⟩ s) s
/-- RSP_DONE. -/
def execRspDone (die tag : Nat) (scOk : Bool) (s : State) : Out :=
  felt (withMsg (fun m => m.op = 0x1D && m.dst = die && m.tag = tag && m.body = b01 scOk) fun s =>
    match look s.procReq tag with
    | some r =>
      if l3Of tag = die && r.op = .sc then
        { setProc tag (.value (BitVec.ofNat 64 (b01 (!scOk)))) s with procReq := del s.procReq tag }
      else gotFelt { op := 0x1D, src := 24, dst := die, tag, line := 0, body := b01 scOk } s
    | none => gotFelt { op := 0x1D, src := 24, dst := die, tag, line := 0, body := b01 scOk } s) s
/-- RSP_ERR (R308, R373). -/
def execRspErr (die tag status : Nat) (s : State) : Out :=
  felt (withMsg (fun m => m.op = 0x1E && m.dst = die && m.tag = tag && m.body = status) fun s =>
    match look s.procReq tag with
    | some r =>
      if l3Of tag = die then
        { setProc tag (.exception (procFaultCode r.op)) s with procReq := del s.procReq tag }
      else gotFelt { op := 0x1E, src := 24, dst := die, tag, line := 0, body := status } s
    | none => gotFelt { op := 0x1E, src := 24, dst := die, tag, line := 0, body := status } s) s

/-- A message's line as it comes from `prev` to the receivers and the points of its destination: each verifies it (R292), with
what struck it on its way; `sill` is the word that came to the last of them. -/
def receiveLine (m : FeltMsg) (prev : Nat) (pts : List (Nat × Nat)) (sill : W64) (md : Medium) (s : State) : Got × State :=
  let pts := receivers s m.coherent m.src m.dst ++ pts
  let last := (pts.getLast?.map (·.1)).getD 0
  let late : Medium := .struck last (sill ^^^ sillage m.data ^^^ m.sill)
  passLine m.line prev m.sill pts ⟨m.data, m.poison⟩ { s with run := { s.run with media := [(m.line, md), (m.line, late)] } }
/-- The point at which a line's words are made where it is sent from: its home, a bank, the reserve tier, or an agent. -/
def sentFrom (s : State) (line src : Nat) : Nat :=
  match placeOf s (line * 256) with
  | .window c => 0x8000 + c
  | .reserve _ => 0xF000
  | _ => if src = homeOf line then 0x6000 + src else 0xE000 + src
/-- The message that a command brings. -/
def withTaken (p : FeltMsg → Bool) (f : FeltMsg → State → State) (s : State) : State :=
  match s.coh.net.find? p with
  | some m => f m (takeFelt p s)
  | none => s
/-- Value of an AMO or LR for a processor core, from the line or the values that came. -/
def procReturn (k : Nat) (r : ProcReq) (g : Got) (s : State) : State :=
  let s := { s with procReq := del s.procReq k }
  if g.poison then procPoison k r.addr r.op s
  else
    let off := if r.op = .lr then r.addr % 256 else 0
    setProc k (.value (BitVec.ofNat 64 (leAt g.data off r.size))) s

/-- DAT: a message that is on its way, verified against its word (R292): a snooped agent's data, a grant, or a read's data. -/
def execDat (dst src tag : Nat) (l : MetLine) (grant : Nat) (data : List Byte) (poison : Bool) (sill : W64) (s : State) : Out :=
  felt (withTaken (fun m => isMsg 0x20 l.line dst m && m.src = src && m.tag = tag && m.body = grant && m.data = data && m.poison = poison)
    fun m s =>
    let open_ := look s.coh.txns l.line
    let prev := sentFrom s l.line src
    if dst = homeOf l.line && src ≠ dst && open_.any fun t => !t.ackAwaited then
      let (g, s) := receiveLine m prev [(0x6000 + dst, 1)] sill l.md s
      replyHome src l.line (fun t => { t with dirty := some (g.data, g.poison) }) s
    else if grant ≠ 0 && dst < 20 then
      let (g, s) := receiveLine m prev [(0xE000 + dst, 1)] sill l.md s
      grantLine dst l.line ((open_.map (·.req.q.way)).getD 0) tag grant g s
    else
      let (g, s) := receiveLine m prev [] sill l.md s
      let other := gotFelt { op := 0x20, src, dst, tag, line := l.line, data := g.data, poison := g.poison }
      match look s.procReq tag with
      | some r => if l3Of tag = dst && lineOf r.addr = l.line then procReturn tag r g s else other s
      | none => other s) s

/-- OFFER (R256): the agent takes the line in E where its set has room, and never writes back for it. -/
def execOffer (agent : Nat) (l : MetLine) (data : List Byte) (poison : Bool) (s : State) : Out :=
  felt (withTaken (fun m => isMsg 0x21 l.line agent m && m.data = data && m.poison = poison) fun m s =>
    let answer := fun (op way : Nat) (s : State) =>
      sendFelt { op, src := agent, dst := homeOf l.line, tag := 0, line := l.line, body := way, data := [], poison := false } s
    let (g, s) := receiveLine m (0x6000 + m.src) [(0xE000 + agent, 1)] (sillage m.data ^^^ m.sill) l.md s
    match agentRoom agent l.line s with
    | (some w, t) =>
      if s.coh.lost.contains agent then answer 0x32 0 s
      else answer 0x31 w (setAgentLine agent l.line { st := .E, way := w, data := fit g.data, poison := g.poison } t)
    | (none, _) => answer 0x32 0 s) s

/-! ## Write-backs and acknowledgements (R248, R253 to R257) -/

/-- WB (R255): a message that is on its way, verified at the receivers and the home (R292). -/
def execWb (agent : Nat) (l : MetLine) (buf : Nat) (phase : Bool) (data : List Byte) (poison : Bool) (s : State) : Out :=
  felt (withTaken (fun m => fromMsg 0x28 l.line agent m && m.tag = buf * 256 + 128 * b01 phase && m.data = data && m.poison = poison)
    fun m s =>
    let (g, s) := receiveLine m (0xE000 + agent) [(0x6000 + homeOf l.line, 1)] (sillage m.data ^^^ m.sill) l.md s
    applyWb agent l.line buf phase g s) s

/-- A DROP of the filter is on its way to a home: the filter's later ACK-class messages come after it (R249). -/
def dropsAhead (s : State) (k : Nat) : Bool := (s.coh.net ++ s.felt.stalled).any fun m => m.op = 0x34 && m.dst = k
/-- The filter has answered for a transaction that is still open: its entries of that line are not replaced, and an ACK that
would replace one waits (R254; DEDUCED, log 92). -/
def filterBusy (s : State) (line : Nat) : Bool :=
  (look s.coh.txns line).isSome && !(s.coh.net ++ s.felt.stalled).any fun m => m.op = 0x10 && m.line = line
/-- An acknowledgement of an agent's way may pass the filter and reach its home. -/
def ackPasses (agent line way : Nat) (s : State) : Bool :=
  !dropsAhead s (homeOf line) && !(filterOld s agent line way).any fun e => filterBusy s e.line
/-- ACK (R248, R253): it names the way, and the transaction that it ends names the grant. -/
def execAck (agent line way grant : Nat) (s : State) : Out :=
  felt (fun s =>
    if ackPasses agent line way s && (look s.coh.txns line).any fun t =>
        t.ackAwaited && t.req.kind.caching && t.req.q.agent = some agent && t.grant = grant
    then withMsg (fun m => fromMsg 0x30 line agent m && m.body = way)
      (fun s => unblock line (filterAck agent line way (if grant = 1 then .S else .U) false s)) s
    else s) s
/-- The transaction of a line that an agent's answer to an offer ends. -/
def offered (agent line : Nat) (s : State) : Bool :=
  (look s.coh.txns line).any fun t => t.ackAwaited && t.req.kind = .wrFull (some agent)
/-- ACK_TAKE (R256). -/
def execAckTake (agent line way : Nat) (s : State) : Out :=
  felt (fun s =>
    if ackPasses agent line way s && offered agent line s
    then withMsg (fun m => fromMsg 0x31 line agent m && m.body = way) (fun s => unblock line (filterAck agent line way .U false s)) s
    else s) s
/-- ACK_DECLINE (R256). -/
def execAckDecline (agent line : Nat) (s : State) : Out :=
  felt (fun s =>
    if !dropsAhead s (homeOf line) && offered agent line s then withMsg (fromMsg 0x32 line agent) (unblock line) s else s) s
/-- A write-back buffer is free again, and the ACK that waited for it leaves (R254, R255). -/
def freeWb (agent buf : Nat) (s : State) : State :=
  match look s.coh.wb (agent * 64 + buf) with
  | none => s
  | some b =>
    let s := { s with coh := { s.coh with wb := del s.coh.wb (agent * 64 + buf) } }
    match b.ack with
    | some (line, tag) => sendFelt { op := 0x30, src := agent, dst := homeOf line, tag, line, body := b.way } s
    | none => s
/-- WB_ACK (R255). -/
def execWbAck (agent buf : Nat) (s : State) : Out :=
  felt (withMsg (fun m => m.op = 0x33 && m.dst = agent && m.tag / 256 = buf) (freeWb agent buf)) s
/-- DROP (R249): those of a home reach it in the filter's order. -/
def execDrop (line : Nat) (s : State) : Out :=
  felt (fun s =>
    let mine := fun (m : FeltMsg) => m.op = 0x34 && m.dst = homeOf line
    if (s.coh.net.find? mine).any (·.line = line) then addPresence line (-1) (takeFelt mine s) else s) s

/-- A snoop to an agent. -/
def snoopTo (agent : Nat) (m : FeltMsg) : Bool := decide (0x11 ≤ m.op) && decide (m.op ≤ 0x13) && m.dst = agent
/-- AGENT_LOST (R259): the Crown answers for the agent, its entries go, and every line it might have changed is poisoned;
an L3's loss is fatal to its die's partition (Table 18-10). A lost RLC poisons nothing. -/
def loseAgent (agent : Nat) (s : State) : State :=
  let mine := s.coh.filter.filter fun e => e.1 / 2 ^ 20 = agent
  let risk := if agent < 16 then [] else (mine.filter fun e => e.2.st ≠ .S).map (·.2.line)
  let s := mine.foldl (fun s e =>
    sendFelt { op := 0x34, src := 24, dst := homeOf e.2.line, tag := 0, line := e.2.line }
      { s with coh := { s.coh with filter := del s.coh.filter e.1 } }) s
  let s := risk.foldl (fun s l => poisonLine l (setStored l ⟨true, 0⟩ s)) s
  let held := (s.coh.net ++ s.felt.stalled).filter (snoopTo agent)
  let s := { s with
    coh := { s.coh with
      net := s.coh.net.filter fun m => !snoopTo agent m
      lines := s.coh.lines.filter fun e => e.1 / 2 ^ 34 ≠ agent
      pcache := s.coh.pcache.filter fun e => l3Of e.1 ≠ agent
      wb := s.coh.wb.filter fun e => e.1 / 64 ≠ agent
      snooped := s.coh.snooped.filter (· ≠ agent)
      lost := addSorted agent s.coh.lost }
    felt := { s.felt with stalled := s.felt.stalled.filter fun m => !snoopTo agent m } }
  let s := held.foldl (fun s m => sendFelt { op := 0x19, src := agent, dst := homeOf m.line, tag := m.tag, line := m.line } s) s
  let fatal := decide (16 ≤ agent) && (s.partOfDie agent).isSome
  let s := logEvent 0x0204 (if fatal then 4 else 3) (evAt 0 agent + evAt 4 risk.length) s
  if fatal then { s with run := { s.run with fatal := s.run.fatal ++ [agent] } } else s

/-- AGENT_LOST (R259): only while a snoop to the agent, of a message or of an engine's access, stands held by its die's link. -/
def execAgentLost (agent : Nat) (s : State) : Out :=
  felt (fun s =>
    if !s.coh.lost.contains agent && groupServes s agent ≠ 0 && ((s.coh.net ++ s.felt.stalled).any (snoopTo agent) || s.coh.snooped.contains agent)
    then loseAgent agent s else s) s

end Sys2Proof.Machine
end

