-- ==== Sys2Proof/Machine/Felt.lean ====
section
/-! DEFINITION. Links and die sites (13): retries and retraining (R313 to R316), partial resets (R317), held requests (R318),
width agreement (R320), the sideband messages (R321 to R323), credits (R311), and the reserve tier's link (R222). -/

namespace Sys2Proof.Machine

open Sys2Proof

/-- The group of a module, numbered as LINK_STATUS orders them. -/
def groupOf (k : Nat) : Nat := if k < 64 then k / 4 else if k < 80 then 16 + (k - 64) / 4 else if k < 88 then 20 + (k - 80) / 2 else 24 + (k - 88)
/-- Die of a group, and the module's number k at it (Table 18-10). -/
def moduleDie (k : Nat) : Nat × Nat :=
  if k < 64 then (k / 4, k % 4) else if k < 80 then (16 + (k - 64) / 4, k % 4) else if k < 88 then (20 + (k - 80) / 2, k % 2) else (k - 88, 4)
/-- Width code of usable halves (Table 13-10). -/
def widthOf (lo hi : Bool) : Nat := b01 lo + 2 * b01 hi

/-! ## What follows a change of a group -/

/-- A group without an active module holds what crosses it in this beat (R72). -/
def markHeld (g : Nat) (s : State) : State :=
  if groupServes s g = 0 then s else { s with felt := { s.felt with heldBeat := addSorted g s.felt.heldBeat } }
/-- The retraining of a module ends: its time in this beat counts (R316). -/
def countRetrain (k : Nat) (s : State) : State :=
  let g := groupOf k
  let begun := s.time.epoch + s.time.index * s.time.beatNs
  let ns := s.time.now - Nat.max (s.module k).since begun
  { s with felt := { s.felt with retrainNs := putD s.felt.retrainNs g (lookD s.felt.retrainNs g 0 + ns) 0 } }
/-- A lost agent whose link returns: its cache has been invalidated (R259). -/
def agentBack (g : Nat) (s : State) : State :=
  if s.coh.lost.contains g then
    { s with coh := { s.coh with
      lost := s.coh.lost.filter (· ≠ g)
      lines := s.coh.lines.filter fun e => e.1 / 2 ^ 34 ≠ g
      pcache := s.coh.pcache.filter fun e => l3Of e.1 ≠ g
      wb := s.coh.wb.filter fun e => e.1 / 64 ≠ g } }
  else { s with coh := { s.coh with snooped := s.coh.snooped.filter (· ≠ g) } }
/-- A group serves again: requests held for it go in their order (R318). -/
def groupReturns (g : Nat) (s : State) : State :=
  let s := agentBack g { s with felt := { s.felt with expired := s.felt.expired.filter (· ≠ g) } }
  let held := s.felt.held
  held.foldl (fun s r => releaseReq r s) { s with felt := { s.felt with held := [] } }
/-- LINK_DEGRADE or LINK_DOWN with the lanes of the last test (Table 18-10). -/
def logWidth (k : Nat) (s : State) : State :=
  let x := s.module k
  let (d, n) := moduleDie k
  logEvent (if x.width = 0 then 0x0202 else 0x0201) 3
    (evAt 0 d + evAt 1 n + evAt 2 x.width + evAt 3 x.badT.toNat + evAt 4 x.badD.toNat) s
/-- The module takes a width, 0 for down; a change is reported (R314). -/
def setWidth (k w : Nat) (s : State) : State :=
  let old := (s.module k).width
  let s := s.setModule k fun x => { x with width := w }
  if w = old then s else logWidth k s

/-! ## Retries and retraining (R313, R314) -/

/-- FLIT_CRC_FAIL: a flit is retried; `failed` says that it is a retry which fails again. -/
def flitCrcFail (k : Nat) (failed : Bool) (s : State) : State :=
  s.setModule k fun x =>
    if x.state ≠ 0 then x
    else { x with
      crc := Nat.min (x.crc + 1) (2 ^ 32 - 1)
      retries := s.time.now :: x.retries.filter fun t => decide (s.time.now < t + 1000000)
      failures := if failed then x.failures + 1 else 0 }
def execFlitCrcFail (k : Nat) (failed : Bool) (s : State) : Out := done s (if s.alive then flitCrcFail k failed s else s)
/-- The module's retries call for a retrain. -/
def retrainDue (s : State) (k : Nat) : Bool :=
  let x := s.module k
  decide (16 < (x.retries.filter fun t => decide (s.time.now < t + 1000000)).length) || decide (4 ≤ x.failures)
/-- The module leaves the rotation and retrains with the lane test. -/
def startRetrain (k : Nat) (s : State) : State :=
  markHeld (groupOf k) (s.setModule k fun x => { x with
    state := 1, retrains := Nat.min (x.retrains + 1) 255, retries := [], failures := 0, since := s.time.now })
/-- MODULE_RETRAIN. -/
def execModuleRetrain (k : Nat) (s : State) : Out :=
  done s (if s.alive && (s.module k).state = 0 && retrainDue s k then startRetrain k s else s)
/-- Spares in use and whether a half is lost, after a test in which `n` of its lanes failed. -/
def testHalf (n spares : Nat) (lost : Bool) : Nat × Bool :=
  if lost then (spares, true) else (Nat.min 2 (spares + n), decide (2 < spares + n))
def ones (n v : Nat) : Nat := ((List.range n).filter fun i => v.testBit i).length
/-- LANE_TEST_DONE: spares repair failing lanes of their half, or the half is abandoned; with none left the module is
down. -/
def laneTestDone (k : Nat) (failD : W64) (failT : BitVec 8) (s : State) : State :=
  let x := s.module k
  let (a, lo) := testHalf (ones 32 failD.toNat + ones 4 failT.toNat) x.sparesLo x.lostLo
  let (b, hi) := testHalf (ones 32 (failD.toNat / 2 ^ 32) + ones 4 (failT.toNat / 16)) x.sparesHi x.lostHi
  let s := s.setModule k fun x => { x with sparesLo := a, sparesHi := b, lostLo := lo, lostHi := hi, badD := failD, badT := failT }
  let w := Nat.land (widthOf (!lo) (!hi)) x.width
  if w = 0 then
    markHeld (groupOf k) (setWidth k 0 (countRetrain k s |>.setModule k fun x => { x with state := 2 }))
  else setWidth k w s
def execLaneTestDone (k : Nat) (failD : W64) (failT : BitVec 8) (s : State) : Out :=
  done s (if s.alive && (s.module k).state = 1 then laneTestDone k failD failT s else s)

/-! ## Width agreement (R320) -/

/-- A die is isolated by a link event: it is absent with all that it owns until the next full reset (R17, R447). -/
def isolateDie (d check : Nat) (s : State) : State :=
  let owned := (s.partOfDie d).isSome
  let s := logEvent 0x0104 (if owned then 4 else 3) (evAt 0 d + evAt 1 check) (s.setDie d fun x => { x with state := 1 })
  if owned then partitionFatal d s else s
/-- WIDTH_CONFIRM: the second messages of the two sides. Equal widths take effect; else both retrain at the smaller, and the
third disagreement in succession puts the module down, or in a partial reset isolates the die. -/
def widthConfirm (k : Nat) (mine theirs : BitVec 2) (inReset : Bool) (s : State) : State :=
  let x := s.module k
  let g := groupOf k
  if mine = theirs then
    let w := Nat.land mine.toNat (widthOf (!x.lostLo) (!x.lostHi))
    let s := setWidth k w (countRetrain k s)
    if w = 0 then markHeld g (s.setModule k fun x => { x with state := 2, mismatches := 0 })
    else groupReturns g (s.setModule k fun x => { x with state := 0, mismatches := 0 })
  else if x.mismatches < 2 then
    let small := if ones 2 theirs.toNat < ones 2 mine.toNat then theirs else mine
    s.setModule k fun x => { x with
      mismatches := x.mismatches + 1, retrains := Nat.min (x.retrains + 1) 255
      lostLo := x.lostLo || !small.getLsbD 0, lostHi := x.lostHi || !small.getLsbD 1 }
  else
    let s := s.setModule k fun x => { x with mismatches := 3 }
    if inReset then
      let s := (groupModules g).foldl (fun s m => s.setModule m fun x => { x with state := 3, width := 0 }) s
      isolateDie (moduleDie k).1 5 (markHeld g s)
    else markHeld g (setWidth k 0 (countRetrain k s |>.setModule k fun x => { x with state := 2 }))
def execWidthConfirm (k : Nat) (mine theirs : BitVec 2) (inPartialReset : Bool) (s : State) : Out :=
  done s (if s.alive && (s.module k).state = 1 then settle (widthConfirm k mine theirs inPartialReset { s with run := {} }) else s)

/-! ## Partial resets (R317) and held requests (R318) -/

/-- A request ends at its requester with an error status (R308, R373). -/
def endRequest (die tag line status : Nat) (s : State) : State :=
  match look s.procReq tag with
  | some r =>
    if l3Of tag = die then { setProc tag (.exception (procFaultCode r.op)) s with procReq := del s.procReq tag }
    else gotFelt { op := 0x1E, src := 24, dst := die, tag, line, body := status, poison := true } s
  | none => gotFelt { op := 0x1E, src := 24, dst := die, tag, line, body := status, poison := true } s
/-- A message of the fabric crosses a group. -/
def crosses (s : State) (g : Nat) (m : FeltMsg) : Bool := (m.hops s).any (·.1 = g)
/-- A query, a snoop, or an answer to one: a message of a transaction that is not performed yet. -/
def FeltMsg.early (m : FeltMsg) : Bool :=
  (decide (0x10 ≤ m.op) && decide (m.op ≤ 0x13)) || (decide (0x18 ≤ m.op) && decide (m.op ≤ 0x1B))
    || (m.op = 0x20 && m.dst = homeOf m.line && m.src ≠ m.dst)
/-- The filter lists again an agent whose invalidating snoop goes: it keeps its copy (log 38). -/
def relist (line : Nat) (query : Bool) (m : FeltMsg) (s : State) : State :=
  match if m.op = 0x13 then agentLine s m.dst line else none with
  | some e =>
    let st : FSt := if e.st = .S then .S else .U
    let s := if query then s else addPresence line 1 s
    { s with coh := { s.coh with filter := put s.coh.filter (filterKey s m.dst line e.way) { line, st } } }
  | none => s
/-- A transaction that is not performed yet ends with `m`, which is not replayed: the rest of its messages go, data that an
invalidated agent returned reach the home copy, and the line is poisoned where `m` carried them (log 38). -/
def abandonTxn (t : Txn) (m : FeltMsg) (s : State) : State :=
  let line := t.req.line
  let inv := decide (t.req.kind.snoop = 2)
  let rest := (s.coh.net ++ s.felt.stalled).filter fun x => x.early && x.line = line
  let s := { s with
    coh := { s.coh with net := s.coh.net.filter fun x => !(x.early && x.line = line) }
    felt := { s.felt with stalled := s.felt.stalled.filter fun x => !(x.early && x.line = line) } }
  let s := (m :: rest).foldl (fun s x => relist line t.query x s) s
  let back := (if inv then t.dirty.toList else []) ++ rest.filterMap fun x => if inv && x.op = 0x20 then some (x.data, x.poison) else none
  let s := back.foldl (fun s d => mergeDirty line (some d) s) s
  let s := if inv && m.op = 0x20 then poisonLine line s else s
  unblock line (endRequest t.req.q.die t.req.q.tag line ST.dieLost s)
/-- An acknowledgement that is not replayed: the agent gives up the line, which is poisoned where the copy was dirty, and the
home unblocks it (log 38). -/
def ungrant (m : FeltMsg) (s : State) : State :=
  let dirty := (agentLine s m.src m.line).any fun e => e.st = .M || e.st = .O
  let s := if (filterOf s m.src m.line).isSome then addPresence m.line (-1) (filterClear m.src m.line s) else s
  let s := dropAgentLine m.src m.line s
  unblock m.line (if dirty then poisonLine m.line s else s)
/-- A write-back that is not replayed: its buffer is free, and its line is poisoned, for the home copy is stale (log 38). -/
def loseWb (m : FeltMsg) (s : State) : State :=
  poisonLine m.line { s with coh := { s.coh with wb := s.coh.wb.filter fun e => !(e.1 / 64 = m.src && e.2.line = m.line) } }
/-- A message that is not replayed: the transaction to which it belongs ends with ST_DIE_LOST at its requester, if it has not
completed there, and its home unblocks the line (R317). -/
def dropMessage (m : FeltMsg) (s : State) : State :=
  let s := takeFelt (· = m) s
  let ended := endRequest m.dst m.tag m.line ST.dieLost s
  match m.op, look s.coh.txns m.line with
  | 0x28, _ => loseWb m s
  | 0x33, _ => freeWb m.dst (m.tag / 256) s
  | 0x30, some _ | 0x31, some _ => ungrant m s
  | 0x21, some _ | 0x32, some _ => unblock m.line s
  | 0x1D, _ | 0x1E, _ => ended
  | op, some t =>
    if m.early && !t.ackAwaited then abandonTxn t m s
    else if (op = 0x20 || op = 0x1C) && t.ackAwaited && t.req.q.die = m.dst && t.req.q.tag = m.tag then unblock m.line ended
    else if op = 0x20 then ended else s
  | op, none => if op = 0x20 then ended else s
/-- A partial reset of a group: every module retrains, the last `ended` messages on it are not replayed, its credits start
afresh. -/
def partialReset (g cause ended : Nat) (s : State) : State :=
  let mine := s.coh.net.filter (crosses s g)
  let s := (groupModules g).foldl (fun s k => if (s.module k).state = 0 then startRetrain k s else s) s
  let gone := mine.drop (mine.length - ended)
  let s := gone.foldl (fun s m => dropMessage m s) s
  let s := { s with felt := { s.felt with credits := s.felt.credits.filter fun e => e.1 / 12 ≠ g } }
  logEvent 0x0203 2 (evAt 0 (if g < 24 then g else g - 24) + evAt 1 cause + evAt 4 gone.length) (markHeld g s)
/-- PARTIAL_RESET. -/
def execPartialReset (grp cause ended : Nat) (s : State) : Out :=
  done s (if s.alive then settle (partialReset grp cause ended { s with run := {} }) else s)
/-- DIE_RESET_NOTICE: how many of its messages are unacknowledged is a free choice (log 11). -/
def dieResetNotice (d reason : Nat) (s : State) : State :=
  let n := (s.coh.net.filter (crosses s d)).length
  let (k, s) := drawBelow (n + 1) s
  settle (partialReset d 2 k (s.setDie d fun x => { x with resetReason := some reason }))
def execDieResetNotice (die reason : Nat) (s : State) : Out :=
  done s (if s.alive && decide (16 ≤ die) && decide (die < 24) && s.dieHere die then dieResetNotice die reason { s with run := {} } else s)
/-- HELD_REQUEST_TIMEOUT: a request of a die, held for more than 1 ms, ends; where it belongs to an engine that this model
runs as one access, the group counts as lost to that access until it returns (log 39). -/
def heldTimeout (die tag : Nat) (s : State) : State :=
  match s.felt.held.find? fun r => r.q.die = die && r.q.tag = tag with
  | some r =>
    endRequest die tag r.line ST.dieLost { s with felt := { s.felt with held := dropFirst (· = r) s.felt.held } }
  | none =>
    if die < 24 && groupServes s die = 1 then { s with felt := { s.felt with expired := addSorted die s.felt.expired } } else s
def execHeldRequestTimeout (die tag : Nat) (s : State) : Out := done s (if s.alive then heldTimeout die tag s else s)

/-! ## Sideband messages (R321 to R323, R408) -/

/-- CAP_WORD: before mainband training of the full reset. -/
def execCapWord (die idx : Nat) (v : W64) (s : State) : Out :=
  done s (if die < 24 && (s.rst.step = 2 || s.rst.step = 3) then
    s.setDie die fun x => { x with caps := put x.caps idx v, identity := if idx = 0 then v else x.identity } else s)
/-- CAP_SELECT: after the checks of the reset's step 3. -/
def execCapSelect (die : Nat) (w2 w3 : W64) (s : State) : Out :=
  done s (if die < 24 && decide (3 ≤ s.rst.step) && decide (s.rst.step ≤ 8) && s.dieHere die then
    s.setDie die fun x => { x with sel2 := w2, sel3 := w3 } else s)
/-- Regions of a slice on a Brim die. -/
def Cost.onDie (k : Cost) (d : Nat) : Bool := (List.range 4).any fun r => k.regions.getLsbD (4 * d + r)
/-- FIRM slices of the beat just ended whose last Brim die is `d`. -/
def endedOn (s : State) (d : Nat) : List Placed :=
  s.plan.placed.filter fun x => x.beat + 1 = s.beat && !x.ghost && ((List.range 16).filter x.cost.onDie).getLast? = some d
/-- What the dies of a slice drew in the beat, in µJ: the slice drew no more. -/
def drawnMost (s : State) (x : Placed) : Nat := (((List.range 16).filter x.cost.onDie).map fun e => (s.die e).powerW).sum * s.time.period
/-- ENERGY_EXCESS (R56, Table 18-10), at the telemetry of a slice's last die. What part of its dies' power a slice drew is a
free value, not above what they drew in all (log 40). -/
def energyCheck (d : Nat) (s : State) : State :=
  (endedOn s d).foldl (fun s x =>
    let (drawn, s) := drawBelow (drawnMost s x + 1) s
    if x.cost.energy < drawn then
      logEvent 0x0501 0 (evAt 0 x.ctx + evAt 4 x.seq + evAt 8 x.cost.energy + evAt 12 drawn) s
    else s) s
/-- TELEMETRY (R321, R421). -/
def execTelemetry (die powerW temp : Nat) (s : State) : Out :=
  done s (if s.alive && s.dieHere die then energyCheck die (s.setDie die fun x => { x with powerW := powerW, temp := temp }) else s)
/-- POWER_LIMIT at a processor or port die (R408). -/
def execPowerLimit (die limitW : Nat) (emergency : Bool) (s : State) : Out :=
  done s (if s.alive && decide (16 ≤ die) && decide (die < 24) && s.dieHere die then
    s.setDie die fun x => { x with limitW := limitW, limitEmergency := emergency } else s)

/-! ## Credits (R311) -/

/-- Class in which a message is admitted: BULK where it crosses the Crown because its ring module carries nothing (R319). -/
def FeltMsg.rank (s : State) (m : FeltMsg) : Nat :=
  match ringOf m.src m.dst with
  | some r => if !m.coherent && groupServes s r ≠ 0 && s.partOfBrim m.src = s.partOfBrim m.dst then 2 else Nat.min m.cls 2
  | none => Nat.min m.cls 2
/-- CREDIT_RETURN: messages that waited go while there is credit, those of FIRM items before SOFT and BULK ones, each in their
order (R67, R312). -/
def creditReturn (g dir vc n : Nat) (s : State) : State :=
  let s := setCredits g dir vc (Nat.min (linkCredits s g dir vc) (creditsOf s g dir vc + n)) s
  let wait := s.felt.stalled
  let ranked := wait.filter (·.rank s = 0) ++ wait.filter (·.rank s = 1) ++ wait.filter (·.rank s = 2)
  ranked.foldl (fun s m => sendAgain m s) { s with felt := { s.felt with stalled := [] } }
def execCreditReturn (grp dir vc count : Nat) (s : State) : Out := done s (if s.alive then creditReturn grp dir vc count s else s)

/-! ## The reserve tier's link (R222) -/

/-- A virtual range reaches the reserve tier, by the pages of 64 MiB it touches. -/
def rangeReserve (c : Nat) (x : Ctx) (acc : Acc) (s : State) (p : Nat × Nat) : Bool :=
  (List.range (if p.2 = 0 then 0 else (p.1 + p.2 - 1) / 2 ^ 26 - p.1 / 2 ^ 26 + 1)).any fun i =>
    let va := if i = 0 then p.1 else (p.1 / 2 ^ 26 + i) * 2 ^ 26
    match devAt c x va acc s with
    | some a => (match placeOf s a with | .reserve _ => true | _ => false)
    | none => false
/-- The item touches the reserve tier: a copy, a host copy, or the Nose's flag of a wait or signal (R220). -/
def touchesReserve (c : Nat) (x : Ctx) (i : Item) (s : State) : Bool :=
  if i.kind = 2 then (rowPieces i.copySrc).any (rangeReserve c x { rd := true } s) || (rowPieces i.copyDst).any (rangeReserve c x { wr := true } s)
  else if i.kind = 3 then rangeReserve c x (if i.f 24 1 = 0 then { wr := true } else { rd := true }) s (i.f 40 8, i.f 48 8)
  else if i.kind = 7 then rangeReserve c x { rd := true, flag := true } s (i.f 24 8, 8)
  else if i.kind = 8 then rangeReserve c x { wr := true, flag := true } s (i.f 24 8, 8) else false
/-- RESERVE_LINK_DOWN. -/
def reserveLinkDown (s : State) : State :=
  let hit := s.ctxs.flatMap fun e => (e.2.items.filter fun i => decide (i.phase < 3) && touchesReserve e.1 e.2 i s).map fun i => (e.1, i)
  let s := hit.foldl (fun s h =>
    let s := if h.2.contracted then leavePlan h.1 h.2.seq (s.beat + 1) s else s
    let s := { endItem h.1 h.2.seq ST.reserveLost s with hce := s.hce.filter fun p => !(p.2.ctx = h.1 && p.2.seq = h.2.seq) }
    leaveFaults (fun z => z = .brimCopy h.1 || z = .hostCopy h.1) s) s
  logEvent 0x0404 3 (evAt 0 hit.length) { s with reserveLog2 := 0 }
def execReserveLinkDown (s : State) : Out :=
  done s (if s.alive && s.reserveLog2 ≠ 0 then reserveLinkDown s else s)

end Sys2Proof.Machine
end

