-- ==== Sys2Proof/Machine/Jobs.lean ====
section
/-! DEFINITION. Jobs (R376, R395 to R401): JOB_ARM and its tree, arming and commit, heartbeats and stop; packets as a path
receives them (R382, R383), and what each operation of Table 16-3 does at the receiver (R386 to R389); ports (R379, R402). -/

namespace Sys2Proof.Machine

open Sys2Proof

/-! ## Trees (Table 16-7) -/

/-- The root's entry in place of a parent. -/
def noParent : Nat := 0xFFFF
def childrenIn (sel : Member → Nat) (l : List Member) (m : Nat) : List Nat :=
  ((List.range l.length).zip l).filterMap fun e => if sel e.2 = m && e.1 ≠ m then some e.1 else none
/-- Children of this package in the primary tree, and in both. -/
def Job.kids (j : Job) : List Nat := childrenIn (·.parent) j.members j.self
def Job.kids2 (j : Job) : List Nat := childrenIn (·.parent2) j.members j.self
def Job.allKids (j : Job) : List Nat := j.kids ++ j.kids2
/-- Parents of this package; the root has none. -/
def Job.parents (j : Job) : List Nat :=
  if j.root then [] else ((j.members[j.self]?).map fun e => [e.parent, e.parent2]).getD []
def Job.parent1 (j : Job) : List Nat := j.parents.take 1
/-- The root's member index. -/
def rootOf (l : List Member) : Nat := (l.findIdx? fun e => e.parent = noParent && e.parent2 = noParent).getD 0
/-- A member reaches the root within a number of hops. -/
def reaches (sel : Member → Nat) (l : List Member) (root : Nat) : Nat → Nat → Bool
  | 0, m => m = root
  | n + 1, m => m = root || (match l[m]? with | some e => reaches sel l root n (sel e) | none => false)

/-! ## Job records -/

/-- Stop of a job on this package, where it is live. -/
def stopLive (id missing : Nat) (s : State) : State :=
  match jobOf s id with
  | some j => if j.state < 3 then stopJob id missing s.beat s else s
  | none => s
/-- Paths of a job start afresh at commit (R382). -/
def resetPaths (id : Nat) (s : State) : State :=
  { s with peer := { s.peer with paths := s.peer.paths.filter (·.job ≠ id) } }
/-- A package becomes committed and sends COMMIT to its children in both trees (R398). -/
def commitJob (j : Job) (s : State) : State :=
  let s := setJob j.id (fun j => { j with state := 1 }) (resetPaths j.id s)
  sendAll j.id OP.commit [BitVec.ofNat 64 j.start] j.allKids s
/-- JOB_STOP to members: missing member and beat. -/
def tellStop (id missing beat : Nat) (peers : List Nat) (s : State) : State :=
  sendAll id OP.jobStop [BitVec.ofNat 64 missing, BitVec.ofNat 64 beat] peers s
/-- The stop that a package will make at the next boundary; the first stands (R401). -/
def stopSoon (id missing beat : Nat) (s : State) : State :=
  setJob id (fun j => { j with stopping := j.stopping <|> some (missing, beat) }) s
/-- The agreement of a package whose own arming agrees and whose primary children have agreed (R398). -/
def tryAgree (id : Nat) (s : State) : State :=
  match jobOf s id with
  | none => s
  | some j =>
    if j.state = 0 && !j.root && !j.refused && !j.sentAck && (j.self :: j.kids).all j.agreed.contains then
      sendAll id OP.armAck [0] j.parent1 (setJob id (fun j => { j with sentAck := true }) s)
    else s
/-- A refusal is passed up at once. -/
def refuseArm (id : Nat) (s : State) : State :=
  match jobOf s id with
  | none => s
  | some j =>
    if j.state = 0 && !j.refused then
      sendAll id OP.armAck [1] j.parent1 (setJob id (fun j => { j with refused := true }) s)
    else s
/-- The words of an ARM. -/
def armWords (j : Job) : List W64 :=
  [j.start, j.epoch, j.period, b01 j.lockstep, j.floor, j.clock, j.digest.toNat].map (BitVec.ofNat 64)
def forwardArm (j : Job) (s : State) : State := sendAll j.id OP.arm (armWords j) j.kids s
/-- An ARM compared with the package's own arming, forwarded, and answered (R398). -/
def judgeArm (j : Job) (r : ArmRec) (s : State) : State :=
  let same := r.start = j.start && r.epoch = j.epoch && r.period = j.period && r.lockstep = j.lockstep && r.floor = j.floor
    && r.clock = j.clock && r.digest = j.digest
  let s := forwardArm j { s with peer := { s.peer with arms := s.peer.arms.filter (·.job ≠ j.id) } }
  if same then tryAgree j.id (setJob j.id (fun j => { j with agreed := addSorted j.self j.agreed }) s)
  else refuseArm j.id s

/-! ## JOB_ARM, JOB_STOP, JOB_QUERY (R376, R396, R401) -/

/-- Member entries of a descriptor's bytes. -/
def memberEntries (b : List Byte) (n : Nat) : List Member :=
  (List.range n).map fun k =>
    let o := 64 + 32 * k
    { pfx := BitVec.ofNat 64 (leAt b o 8), serial := leAt b (o + 8) 4, parent := leAt b (o + 12) 2, parent2 := leAt b (o + 14) 2 }
/-- The conditions of R396 on a tree, for a package and its flag. -/
def treeOk (s : State) (l : List Member) (self : Nat) (root : Bool) : Bool :=
  let ids := List.range l.length
  let r := rootOf l
  let depth := s.time.window / 20
  let heads := l.filter fun e => e.parent = noParent && e.parent2 = noParent
  (l[self]?).any (fun e => e.serial = fld (s.die 24).identity.toNat 0 32)
    && heads.length = 1 && (root == decide (r = self))
    && ids.all fun m => m = r || (
      (l[m]?).any (fun e => e.parent ≠ e.parent2)
        && reaches (·.parent) l r depth m && reaches (·.parent2) l r depth m
        && ((childrenIn (·.parent) l m).isEmpty || (childrenIn (·.parent2) l m).isEmpty))
    && ids.all fun m => decide ((childrenIn (·.parent) l m).length ≤ 64) && decide ((childrenIn (·.parent2) l m).length ≤ 64)
/-- A record for a new arming: the records without any of its id, and without the oldest dead one where all are in use. -/
def jobRoom (l : List Job) (id : Nat) : List Job :=
  let l := l.filter (·.id ≠ id)
  if l.length < 4096 then l
  else
    let oldest := (l.filter fun j => decide (3 ≤ j.state)).foldl (fun b j => match b with
      | some o => if j.order < o then some j.order else some o
      | none => some j.order) (none : Option Nat)
    l.filter fun j => !(decide (3 ≤ j.state) && oldest = some j.order)

/-- JOB_ARM (R376, R396): checks in their order, then the record, and the root's ARM or the comparison with one held. -/
def cmdJobArm (m : Nat) (linkOk : Bool) (s : State) : State :=
  let w0 := s.pw m 0
  let id := fld w0 0 32
  let p := fld w0 32 8
  let flags := fld w0 40 8
  let floor := fld w0 48 8
  let start := s.pw m 1
  let epoch := s.pw m 2
  let period := fld (s.pw m 3) 0 32
  let clock := fld (s.pw m 3) 32 32
  let tree := s.pw m 4
  let lock := flags.testBit 0
  let ranges := decide (id ≠ 0) && decide (p < 16) && decide (flags < 8) && fld w0 56 8 = 0 && bufferOk tree
    && (if lock then decide (1 ≤ floor) && decide (floor ≤ 32) else decide (floor = 0) && decide (clock = 0))
    && s.pw m 5 = 0 && s.pw m 6 = 0 && s.pw m 7 = 0
  let q := s.part p
  if !ranges then complete m ST.badPayload [] s
  else if s.peer.jobs.any fun j => j.id = id && decide (j.state < 3) then complete m ST.jobExists [] s
  else if q.isNone then complete m ST.noPartition [] s
  else if start < s.beat + 3 then complete m ST.jobLate [] s
  else if epoch ≠ s.time.epoch || period ≠ s.time.period || (lock && s.gridWaits) then complete m ST.jobBeat [] s
  else if lock && (s.time.source = 0 || !s.time.locked || s.time.timeFault) then complete m ST.timeUnlocked [] s
  else if lock && decide (s.clock < clock) then complete m ST.jobClock [] s
  else if lock && decide (issueOf s.pwr.cap < floor) then complete m ST.jobFloor [] s
  else if lock && !flags.testBit 1 then complete m ST.notProvisioned [] s
  else if !linkOk then complete m ST.hostBuffer [] s
  else
    let head := cellsGet s.hostMem tree 64
    let n := leAt head 4 4
    let self := leAt head 8 2
    let asid := leAt head 10 2
    let headOk := leAt head 0 4 = id && decide (1 ≤ n) && decide (n ≤ 65536) && decide (asid < 4096) && zeroAt head 12 52
    if !((look s.aspaces (asid % 4096)).any (·.part = p)) then complete m ST.noAspace [] s
    else if !headOk then complete m ST.badPayload [] s
    else
      let body := cellsGet s.hostMem tree (64 + 32 * n)
      let l := memberEntries body n
      let zeros := (List.range n).all fun k => zeroAt body (64 + 32 * k + 16) 16
      if !(zeros && treeOk s l self (flags.testBit 2)) then complete m ST.badPayload [] s
      else if lock && s.peer.jobs.any fun j => j.part = p && j.lockstep && decide (j.state < 3) then complete m ST.jobArmed [] s
      else
        let room := jobRoom s.peer.jobs id
        if 4096 ≤ room.length then complete m ST.jobExists [] s
        else
          let root := flags.testBit 2
          let j : Job :=
            { id, part := p, lockstep := lock, root, floor, start, epoch, period, clock, self, asid, members := l
              digest := sillage (body.drop 64), agreed := if root then [self] else [], order := s.peer.nextOrder }
          let s := { s with peer := { s.peer with jobs := room ++ [j], nextOrder := s.peer.nextOrder + 1 } }
          let s := complete m ST.ok [] s
          if root then forwardArm j s
          else match s.peer.arms.find? (·.job = id) with
            | some r => judgeArm j r s
            | none => s
/-- JOB_STOP (R401): at once. -/
def cmdJobStop (m : Nat) (s : State) : State :=
  let id := s.pw m 0
  if 2 ^ 32 ≤ id then complete m ST.badPayload [] s
  else if (jobOf s id).isNone then complete m ST.noJob [] s
  else complete m ST.ok [] (stopLive id 0xFFFF s)
/-- JOB_QUERY (Table 15-1). -/
def cmdJobQuery (m : Nat) (s : State) : State :=
  let id := s.pw m 0
  if 2 ^ 32 ≤ id then complete m ST.badPayload [] s
  else match jobOf s id with
    | some j => complete m ST.ok [j.state, j.start] s
    | none => complete m ST.noJob [] s
def execJobArm (m : Nat) (seq : BitVec 16) (inWords : Nat) (linkOk : Bool) (h : HostWrites) (s : State) : Out :=
  done s (barAccess (accept m 0x0901 seq inWords (guarded m 8 (cmdJobArm m linkOk))) (hostWrote h s))
def execJobStop (m : Nat) (seq : BitVec 16) (inWords : Nat) (s : State) : Out := submit m 0x0902 seq inWords 1 (cmdJobStop m) s
def execJobQuery (m : Nat) (seq : BitVec 16) (inWords : Nat) (s : State) : Out := submit m 0x0903 seq inWords 1 (cmdJobQuery m) s

/-! ## A path as it receives (R382) -/

/-- `a` comes before `b` in the numbers of a path. -/
def seqBefore (a b : Nat) : Bool :=
  let d := (b + 2 ^ 32 - a % 2 ^ 32) % 2 ^ 32
  decide (d ≠ 0) && decide (d ≤ 2 ^ 31)
/-- Packets before an acknowledgement leave their path. -/
def takeAck (p : Pkt) (s : State) : State :=
  let z := s.path p.job p.src p.port
  let rest := z.unacked.filter fun k => !seqBefore k.hdr.seq p.ack
  if rest.length = z.unacked.length then s
  else progressJob p.job (s.setPath { z with unacked := rest, retries := 0 })
/-- ACK on a path's reverse. -/
def ackPath (job peer port : Nat) (s : State) : State := sendPkt job peer port OP.ack 0 false 0 0 0 [] [] [] none s
/-- A packet accepted in its turn. -/
def tookPacket (p : Pkt) (s : State) : State :=
  let z := s.path p.job p.src p.port
  let s := s.setPath { z with expect := (p.seq + 1) % 2 ^ 32, owed := z.owed + 1 }
  if 8 ≤ z.owed + 1 then ackPath p.job p.src p.port s else s
/-- NAK ST_NO_JOB to a package whose job this one does not run; it takes no number (R386, R401). -/
def nakNoJob (p : Pkt) (s : State) : State :=
  let pkt : OutPkt :=
    { op := OP.nak, words := [BitVec.ofNat 64 (ST.noJob + p.seq * 2 ^ 16)]
      hdr := { p with cls := 0, last := false, lines := 0, src := p.dst, dst := p.src, seq := 0, ack := 0, poison := 0 } }
  { s with peer := { s.peer with out := pkt :: s.peer.out } }
/-- PEER_REFUSED (Table 18-10). -/
def peerRefused (p : Pkt) (status addr : Nat) : State → State :=
  logEvent 0x0704 0 (evAt 0 p.job + evAt 4 p.src + evAt 6 status + evAt 8 addr)
/-- A packet of a job: from a member to this one; numbered packets in their turn, once each. A packet of a job that is not
committed or running is refused, but for the packets that arm, `early`. -/
def deliver (p : Pkt) (early : Bool) (act : Job → State → State) (s : State) : State :=
  if !s.alive || !portUp s p.port then s
  else match jobOf s p.job with
    | none => if early then s else nakNoJob p (peerRefused p ST.noJob p.addr s)
    | some j =>
      if p.dst ≠ j.self || j.members.length ≤ p.src || p.src = j.self then s
      else if j.state = 0 && early then tookPacket p (act j s)
      else if j.state = 0 || 3 ≤ j.state then nakNoJob p (peerRefused p ST.noJob p.addr s)
      else
        let s := takeAck p s
        let z := s.path p.job p.src p.port
        if p.seq = z.expect then tookPacket p (act j s)
        else if seqBefore p.seq z.expect then ackPath p.job p.src p.port s
        else s

/-! ## Data at the receiver (R386 to R389, R297) -/

/-- Lines of a packet as they arrive: bytes, and whether each is poisoned, by its bit or by a mismatch at the port
(R297). -/
def arrived (p : Pkt) (data : List Byte) (sill : List W64) (s : State) : List (List Byte × Bool) × State :=
  (List.range p.lines).foldl (fun (x : List (List Byte × Bool) × State) k =>
    let d := (slice data (256 * k) 256 ++ List.replicate 256 0).take 256
    let w := (sill[k]?).getD 0
    let bad := !p.poison.getLsbD k && decide (w ≠ sillage d)
    let s := if bad then logMismatch (0x3000 + p.port) 0 4 1 (p.addr + 256 * k) noCtx w (sillage d) x.2 else x.2
    (x.1 ++ [(d, p.poison.getLsbD k || bad)], s)) ([], s)
/-- A refusal of a packet: NAK and its event; the packet's turn is over. -/
def refusePacket (p : Pkt) (status addr : Nat) (s : State) : State :=
  sendNak p.job p.src p.port addr status p.seq (peerRefused p status addr s)
/-- Lines written whole at their homes by the port's receive, each with the write hint that an item here gives for it (R256). -/
def putLines (port : Nat) (hints : List (Option Nat)) (addrs : List Nat) (l : List (List Byte × Bool)) (s : State) : State :=
  ((addrs.zip l).zip hints).foldl (fun s e => hintedWrite e.2 (lineOf e.1.1) (atOffsets 0 e.1.2.1) e.1.2.2 s)
    (atEngine (20 + port / 4) (0x3000 + port) [] s)
/-- RECV items that a line from a member counts for. -/
def recvItems (s : State) (job member va : Nat) : List (Nat × Nat) :=
  s.ctxs.flatMap fun e => (e.2.items.filter fun i =>
    i.kind = 6 && i.f 24 1 = 3 && decide (i.phase < 3) && i.job = job && i.f 32 2 = member
      && decide (i.f 40 8 ≤ va) && decide (va < i.f 40 8 + i.f 56 8)).map fun i => (e.1, i.seq)
def countLine (job member va : Nat) (s : State) : State :=
  { s with peer := { s.peer with
    recvd := (recvItems s job member va).foldl (fun l r =>
      if l.contains (r.1, r.2, va) then l else l ++ [(r.1, r.2, va)]) s.peer.recvd } }
/-- The line address of a header's address. -/
def pktLine (p : Pkt) : Nat := p.addr / 256 * 256
/-- The hint of the RECV item that a line counts for; a packet carries none (DESIGN CHOICE, log 51). -/
def recvHint (s : State) (job member va : Nat) : Option Nat :=
  ((recvItems s job member va).findSome? fun r => s.item r.1 r.2).bind fun i => hintOf (i.f 26 1)
/-- PUT_DATA (R386). -/
def takePut (p : Pkt) (data : List Byte) (sill : List W64) (j : Job) (s : State) : State :=
  match peerLines p.port j.asid j.part (pktLine p) { wr := true } p.lines s with
  | .error b => refusePacket p b.st b.va (peerEvent p.port noCtx b s)
  | .ok addrs =>
    let (l, s) := arrived p data sill (peerWait p.port addrs s)
    let s := putLines p.port ((List.range p.lines).map fun k => recvHint s j.id p.src (pktLine p + 256 * k)) addrs l s
    let s := (List.range p.lines).foldl (fun s k => countLine j.id p.src ((pktLine p) + 256 * k) s) s
    progressJob j.id s
/-- GET_REQ (R385): the lines go back on the same port; while that path is full the request waits. -/
def takeGetReq (p : Pkt) (back : Nat) (j : Job) (s : State) : State :=
  match peerLines p.port j.asid j.part (pktLine p) { rd := true } p.lines s with
  | .error b => refusePacket p b.st b.va (peerEvent p.port noCtx b s)
  | .ok addrs =>
    let s := if pathOpen s j.id p.src p.port then s else holdRun s
    let (d, z, w, s) := packLines p.port addrs (peerWait p.port addrs s)
    sendPkt j.id p.src p.port OP.getData p.cls p.last p.lines back z [] d w none s
/-- The GET item whose local range holds an address. -/
def getItem (s : State) (job member va : Nat) : Option (Nat × Ctx × Item) :=
  s.ctxs.findSome? fun e => match frontItem s e.1 with
    | some (x, i) =>
      if i.kind = 6 && i.f 24 1 = 1 && i.phase = 2 && i.job = job && i.f 32 2 = member && decide (i.f 40 8 ≤ va)
          && decide (va < i.f 40 8 + i.f 56 8) then some (e.1, x, i) else none
    | none => none
/-- GET_DATA (R385): the lines are performed locally; those of an item that has ended are dropped. -/
def takeGetData (p : Pkt) (data : List Byte) (sill : List W64) (j : Job) (s : State) : State :=
  match getItem s j.id p.src (pktLine p) with
  | none => s
  | some (c, x, i) =>
    match peerLines p.port x.asid x.part (pktLine p) { wr := true } p.lines s with
    | .error b => endItem c i.seq b.st (refusePacket p b.st b.va (peerEvent p.port c b s))
    | .ok addrs =>
      let (l, s) := arrived p data sill (peerWait p.port addrs s)
      let s := putLines p.port ((List.range p.lines).map fun _ => hintOf (i.f 26 1)) addrs l s
      peerProgress c i.seq (s.setItem c i.seq fun i => { i with moved := i.moved + 256 * p.lines })
/-- SIGNAL (R385, R387): a store, or one atomic addition, at the flag's home. -/
def takeSignal (p : Pkt) (v : W64) (add : Bool) (j : Job) (s : State) : State :=
  match peerAddr p.port j.asid j.part p.addr { wr := true } s with
  | .error b => refusePacket p b.st p.addr (peerEvent p.port noCtx b s)
  | .ok a =>
    let s := atEngine (20 + p.port / 4) (0x3000 + p.port) [] (peerWait p.port [a] s)
    let o := a % 256 / 8 * 8
    if add then (homeAtomic (lineOf a) 0 8 [(o / 8, v)] s).2.2
    else lineWrite (lineOf a) (atOffsets o (leBytes 8 v.toNat)) false true s
/-- COLL (R389): lines of a collective; those that the item here does not await end it, here and there. -/
def takeColl (p : Pkt) (data : List Byte) (sill : List W64) (j : Job) (s : State) : State :=
  let id := p.addr / 2 ^ 32
  let off := p.addr % 2 ^ 32
  let offs := if p.lines = 0 then [off] else (List.range p.lines).map (off + ·)
  let (l, s) := arrived p data sill s
  let parts := offs.zip (if p.lines = 0 then [([], false)] else l) |>.map fun e => (p.src, e.1, e.2.1, e.2.2)
  match s.peer.colls.find? fun y => y.job = j.id && y.coll = id with
  | some y =>
    match s.item y.ctx y.seq with
    | some i =>
      if offs.all (collAwaits i i.collLines j.self p.src).contains then
        let s := { s with peer := { s.peer with
          colls := modFirst (fun y => y.job = j.id && y.coll = id) (fun y => { y with parts := y.parts ++ parts }) s.peer.colls } }
        peerProgress y.ctx y.seq s
      else dropPeer y.ctx y.seq (endItem y.ctx y.seq ST.badItem (refusePacket p ST.badItem p.addr s))
    | none =>
      { s with peer := { s.peer with
        colls := modFirst (fun y => y.job = j.id && y.coll = id) (fun y => { y with parts := y.parts ++ parts }) s.peer.colls } }
  | none => { s with peer := { s.peer with colls := s.peer.colls ++ [{ job := j.id, coll := id, ctx := noOwner, seq := 0, parts }] } }

def execPutData (p : Pkt) (data : List Byte) (sill : List W64) (md : Media) (s : State) : Out :=
  done s (runWith md (deliver p false (takePut p data sill)) s)
def execGetReq (p : Pkt) (back : Nat) (md : Media) (s : State) : Out := done s (runWith md (deliver p false (takeGetReq p back)) s)
def execGetData (p : Pkt) (data : List Byte) (sill : List W64) (md : Media) (s : State) : Out :=
  done s (runWith md (deliver p false (takeGetData p data sill)) s)
def execEsrikSignal (p : Pkt) (v : W64) (add : Bool) (md : Media) (s : State) : Out :=
  done s (runWith md (deliver p false (takeSignal p v add)) s)
def execColl (p : Pkt) (data : List Byte) (sill : List W64) (md : Media) (s : State) : Out :=
  done s (runWith md (deliver p false (takeColl p data sill)) s)

/-! ## Answers (R382, R386) -/

/-- ACK (R382). -/
def execEsrikAck (p : Pkt) (md : Media) (s : State) : Out :=
  done s (runWith md (fun s =>
    if s.alive && portUp s p.port && (jobOf s p.job).any (fun j => p.dst = j.self && decide (j.state < 3)) then takeAck p s else s) s)
/-- A NAK's effect: the refused packet leaves its path and its item, `own`, ends with the status; ST_BAD_ITEM ends the
collective that the address names (R386, R389). -/
def nakAct (p : Pkt) (status seq : Nat) (own : Option (Nat × Nat)) (s : State) : State :=
  let z := s.path p.job p.src p.port
  let s := if z.unacked.any (·.hdr.seq = seq) then s.setPath { z with unacked := z.unacked.filter (·.hdr.seq ≠ seq) } else s
  let coll := if status = ST.badItem then
      (s.peer.colls.find? fun y => y.job = p.job && y.coll = p.addr / 2 ^ 32).map fun y => (y.ctx, y.seq)
    else none
  let s := (own.toList ++ coll.toList).foldl (fun s e =>
    if (s.item e.1 e.2).any (·.phase = 2) then dropPeer e.1 e.2 (endItem e.1 e.2 status s) else s) s
  progressJob p.job s
/-- NAK (R386). -/
def takeNak (p : Pkt) (status seq : Nat) (s : State) : State :=
  match jobOf s p.job with
  | none => s
  | some j =>
    let own := ((s.path p.job p.src p.port).unacked.find? (·.hdr.seq = seq)).bind (·.own)
    if !s.alive || !portUp s p.port || p.dst ≠ j.self || j.state = 0 || 3 ≤ j.state then s
    else if status = ST.noJob then nakAct p status seq own s
    else deliver p false (fun _ s => nakAct p status seq own s) s
def execNak (p : Pkt) (status seq : Nat) (s : State) : Out := done s (runWith [] (takeNak p status seq) s)

/-! ## Arming and commit (R398) -/

/-- ARM: held until the package's own JOB_ARM, then compared. -/
def takeArm (p : Pkt) (r : ArmRec) (s : State) : State :=
  if !s.alive || !portUp s p.port then s
  else match jobOf s p.job with
    | some j =>
      if 3 ≤ j.state then { s with peer := { s.peer with arms := s.peer.arms.filter (·.job ≠ r.job) ++ [r] } }
      else deliver p true (fun j s => if j.state = 0 && !j.agreed.contains j.self then judgeArm j r s else s) s
    | none => { s with peer := { s.peer with arms := s.peer.arms.filter (·.job ≠ r.job) ++ [r] } }
def execArm (p : Pkt) (start epoch period : Nat) (lockstep : Bool) (floor clock : Nat) (digest : W64) (s : State) : Out :=
  done s (runWith [] (takeArm p
    { job := p.job, start, epoch, period, lockstep, floor, clock, digest, sender := p.src, self := p.dst }) s)
/-- ARM_ACK of a primary child. -/
def execArmAck (p : Pkt) (refuse : Bool) (s : State) : Out :=
  done s (runWith [] (deliver p true fun j s =>
    if j.state ≠ 0 || !j.kids.contains p.src then s
    else if refuse then refuseArm j.id s
    else tryAgree j.id (setJob j.id (fun j => { j with agreed := addSorted p.src j.agreed }) s)) s)
/-- COMMIT: the first, from either parent, commits and is forwarded. -/
def execCommit (p : Pkt) (start : Nat) (s : State) : Out :=
  done s (runWith [] (deliver p true fun j s =>
    if j.state = 0 && j.start = start && j.parents.contains p.src then commitJob j s else s) s)
/-- ARM_TIMEOUT: beat S − 2 begins without the package's own arming. -/
def armTimeout (id : Nat) (s : State) : State :=
  match s.peer.arms.find? (·.job = id) with
  | some r =>
    if s.alive && decide (r.start ≤ s.beat + 2) && !(s.peer.jobs.any fun j => j.id = id && decide (j.state < 3)) then
      let s := sendControl id r.sender OP.armAck [1] s
      { s with peer := { s.peer with
        arms := s.peer.arms.filter (·.job ≠ id)
        paths := s.peer.paths.filter (·.job ≠ id) } }
    else s
  | none => s
def execArmTimeout (job : Nat) (s : State) : Out := done s (runWith [] (armTimeout job) s)
/-- COMMIT_DECISION of the root at the start of beat S − 1. -/
def commitDecision (id : Nat) (s : State) : State :=
  match jobOf s id with
  | some j =>
    if s.alive && j.root && j.state = 0 && decide (s.beat + 1 = j.start) then
      if !j.refused && j.kids.all j.agreed.contains then commitJob j s
      else tellStop id 0xFFFF s.beat j.allKids s
    else s
  | none => s
def execCommitDecision (job : Nat) (s : State) : Out := done s (runWith [] (commitDecision job) s)
/-- Heartbeats of a running package for a beat (R400). -/
def sendHeartbeats (j : Job) (s : State) : State :=
  sendAll j.id OP.heartbeat [BitVec.ofNat 64 s.beat] (if j.root then j.allKids else j.parents) s
/-- JOB_START_BEAT: a committed package runs from the start of beat S, and its items go on; one that is not is aborted. -/
def jobStart (id : Nat) (s : State) : State :=
  match jobOf s id with
  | some j =>
    if !s.alive || s.beat < j.start then s
    else if j.state = 1 then progressJob id (sendHeartbeats j (setJob id (fun j => { j with state := 2 }) s))
    else if j.state = 0 then logEvent 0x0705 0 (evAt 0 id + evAt 8 j.start) (setJob id (fun j => { j with state := 4, stopping := none }) s)
    else s
  | none => s
def execJobStartBeat (job : Nat) (s : State) : Out := done s (runWith [] (jobStart job) s)

/-! ## Heartbeats and stop (R400, R401) -/

/-- HEARTBEAT. -/
def execHeartbeat (p : Pkt) (beat : Nat) (s : State) : Out :=
  done s (runWith [] (deliver p false fun j s =>
    setJob j.id (fun j => { j with beats := (p.src, beat) :: j.beats.filter fun b => decide (beat ≤ b.2 + 4) }) s) s)
/-- The root ends the job for a missing member. -/
def rootStops (j : Job) (missing beat : Nat) (s : State) : State :=
  stopSoon j.id missing beat (tellStop j.id missing beat j.allKids s)
/-- HEARTBEAT_CHECK of the beat that has ended. -/
def heartbeatCheck (id : Nat) (s : State) : State :=
  match jobOf s id with
  | some j =>
    if !s.alive || j.state ≠ 2 || s.beat < j.start + 1 then s
    else
      let came := fun m => j.beats.contains (m, s.beat - 1)
      let lost := (j.allKids.foldl (fun l m => addSorted m l) []).filter fun m => !came m
      if j.root then
        match lost with
        | [] => s
        | m :: _ => rootStops j m s.beat s
      else
        let s := lost.foldl (fun s m =>
          sendAll id OP.childMissing [BitVec.ofNat 64 m, BitVec.ofNat 64 s.beat] j.parents s) s
        let r := rootOf j.members
        if j.parents.contains r && !came r then tellStop id r s.beat j.allKids s else s
  | none => s
def execHeartbeatCheck (job : Nat) (s : State) : Out := done s (runWith [] (heartbeatCheck job) s)
/-- CHILD_MISSING, passed on to both parents, or ended by the root. -/
def execChildMissing (p : Pkt) (member beat : Nat) (s : State) : Out :=
  done s (runWith [] (deliver p false fun j s =>
    if j.root then rootStops j member beat s
    else sendAll j.id OP.childMissing [BitVec.ofNat 64 member, BitVec.ofNat 64 beat] j.parents s) s)
/-- JOB_STOP: the first is forwarded, and the job stops at the next boundary. -/
def execEsrikJobStop (p : Pkt) (missing beat : Nat) (s : State) : Out :=
  done s (runWith [] (deliver p true fun j s =>
    if j.stopping.isSome then s else stopSoon j.id missing beat (tellStop j.id missing beat j.allKids s)) s)

/-! ## Retransmission, lost paths, ports (R382, R383, R402) -/

/-- The packets of a path that are not acknowledged go out again, from the first. -/
def resend (z : Path) (s : State) : State :=
  let again := z.unacked.map fun k => { k with hdr := { k.hdr with ack := z.expect } }
  { s with peer := { s.peer with out := again.reverse ++ s.peer.out } }
/-- RETRANSMIT_TIMEOUT: the wait doubles from 20 µs up to 1,280 µs. -/
def execRetransmitTimeout (job peer port : Nat) (s : State) : Out :=
  done s (
    let z := s.path job peer port
    if s.alive && portUp s port && !z.unacked.isEmpty then
      resend z (s.setPath { z with retries := Nat.min (z.retries + 1) 6 }) else s)
/-- ACK_TIMER: something received is not acknowledged. -/
def execAckTimer (job peer port : Nat) (s : State) : Out :=
  done s (if s.alive && decide (0 < (s.path job peer port).owed) then ackPath job peer port s else s)
/-- PEER_PATH_LOST (R383): a packet has stayed unacknowledged for 100 ms. -/
def execPeerPathLost (job peer port : Nat) (s : State) : Out :=
  done s (if s.alive && !(s.path job peer port).unacked.isEmpty then
    stopLive job 0xFFFF (logEvent 0x0703 0 (evAt 0 job + evAt 4 peer + evAt 6 port) s) else s)
/-- PORT_DOWN (R402). -/
def execPortDown (port : Nat) (s : State) : Out :=
  done s (if s.alive && portUp s port then
    logEvent 0x0701 3 (evAt 0 port) { s with peer := { s.peer with down := addSorted port s.peer.down } } else s)
/-- PORT_UP (R402): what the port held goes out. -/
def portReturns (port : Nat) (s : State) : State :=
  let s := logEvent 0x0702 0 (evAt 0 port) { s with peer := { s.peer with down := s.peer.down.filter (· ≠ port) } }
  let s := (s.peer.paths.filter (·.port = port)).foldl (fun s z => resend z s) s
  (s.peer.jobs.map (·.id)).foldl (fun s id => progressJob id s) s
def execPortUp (port : Nat) (s : State) : Out :=
  done s (if s.alive && s.peer.down.contains port then runWith [] (portReturns port) s else s)
/-- The IPv6 address of a port (Table 16-1), upper half first: the prefix that all ports share, once one has come, and the
interface identifier from the interposer's serial number. -/
def portAddress (port : Nat) (s : State) : Option (W64 × W64) :=
  s.peer.pfx.map fun p => (p, BitVec.ofNat 64 (0x2548000000000000 + fld (s.die 24).identity.toNat 0 32 * 16 + port))
/-- ROUTER_ADVERTISEMENT (R379): the first with the autonomous flag on port 0 gives the prefix. -/
def execRouterAdvertisement (port : Nat) (auto : Bool) (pfx : W64) (s : State) : Out :=
  done s (if s.alive && port = 0 && auto && s.peer.pfx.isNone && portUp s 0 then
    { s with peer := { s.peer with pfx := some pfx } } else s)

end Sys2Proof.Machine
end

