-- ==== Sys2Proof/Machine/Commands.lean ====
section
/-! DEFINITION. The firmware commands of Table 15-1: each a 64-bit write of CRN_MBX_CMD with go set, and the events
that end those which wait. -/

namespace Sys2Proof.Machine

open Sys2Proof

/-- NOP (R361). -/
def execNop (m : Nat) (seq : BitVec 16) (inWords : Nat) (s : State) : Out :=
  submit m 0x0002 seq inWords 0 (cmdNop m) s

/-- DIE_INVENTORY (R361). -/
def execDieInventory (m : Nat) (seq : BitVec 16) (inWords : Nat) (s : State) : Out :=
  submit m 0x0010 seq inWords 0 (cmdDieInventory m) s

/-- MEMORY_INVENTORY (R361). -/
def execMemoryInventory (m : Nat) (seq : BitVec 16) (inWords : Nat) (linkOk : Bool) (s : State) : Out :=
  submit m 0x0011 seq inWords 1 (cmdMemoryInventory m linkOk) s

/-- LINK_STATUS (R361). -/
def execLinkStatus (m : Nat) (seq : BitVec 16) (inWords : Nat) (s : State) : Out :=
  submit m 0x0012 seq inWords 0 (cmdLinkStatus m) s

/-- SAT_READ (R361). -/
def execSatRead (m : Nat) (seq : BitVec 16) (inWords : Nat) (linkOk : Bool) (s : State) : Out :=
  submit m 0x0013 seq inWords 1 (cmdSatRead m linkOk) s

/-- CONTEXT_CREATE (R365). -/
def execContextCreate (m : Nat) (seq : BitVec 16) (inWords : Nat) (s : State) : Out :=
  submit m 0x0101 seq inWords 8 (cmdContextCreate m) s

/-- CONTEXT_DESTROY (R367). -/
def execContextDestroy (m : Nat) (seq : BitVec 16) (inWords : Nat) (s : State) : Out :=
  submit m 0x0102 seq inWords 1 (cmdContextDestroy m) s

/-- CONTEXT_QUERY (R369). -/
def execContextQuery (m : Nat) (seq : BitVec 16) (inWords : Nat) (s : State) : Out :=
  submit m 0x0103 seq inWords 2 (cmdContextQuery m) s

/-- CONTEXT_STOP (R367). -/
def execContextStop (m : Nat) (seq : BitVec 16) (inWords : Nat) (s : State) : Out :=
  submit m 0x0104 seq inWords 1 (cmdContextStop m) s

/-- ITEM_CANCEL (R368). -/
def execItemCancel (m : Nat) (seq : BitVec 16) (inWords : Nat) (s : State) : Out :=
  submit m 0x0105 seq inWords 2 (cmdItemCancel m) s

/-- PARTITION_CREATE (R362). -/
def execPartitionCreate (m : Nat) (seq : BitVec 16) (inWords : Nat) (s : State) : Out :=
  submit m 0x0201 seq inWords 3 (cmdPartitionCreate m) s

/-- PARTITION_DESTROY (R364). -/
def execPartitionDestroy (m : Nat) (seq : BitVec 16) (inWords : Nat) (s : State) : Out :=
  submit m 0x0202 seq inWords 1 (cmdPartitionDestroy m) s

/-- PARTITION_SET (R363). -/
def execPartitionSet (m : Nat) (seq : BitVec 16) (inWords : Nat) (s : State) : Out :=
  submit m 0x0203 seq inWords 3 (cmdPartitionSet m) s

/-- ASPACE_CREATE (R364). -/
def execAspaceCreate (m : Nat) (seq : BitVec 16) (inWords : Nat) (s : State) : Out :=
  submit m 0x0211 seq inWords 2 (cmdAspaceCreate m) s

/-- ASPACE_DESTROY (R364). -/
def execAspaceDestroy (m : Nat) (seq : BitVec 16) (inWords : Nat) (s : State) : Out :=
  submit m 0x0212 seq inWords 1 (cmdAspaceDestroy m) s

/-- PAGE_PIN (R270). -/
def execPagePin (m : Nat) (seq : BitVec 16) (inWords : Nat) (s : State) : Out :=
  submit m 0x0301 seq inWords 3 (cmdPagePin m) s

/-- PAGE_UNPIN (R271). -/
def execPageUnpin (m : Nat) (seq : BitVec 16) (inWords : Nat) (s : State) : Out :=
  submit m 0x0302 seq inWords 3 (cmdPageUnpin m) s

/-- SHOOTDOWN (R272). -/
def execShootdown (m : Nat) (seq : BitVec 16) (inWords : Nat) (s : State) : Out :=
  submit m 0x0303 seq inWords 3 (cmdShootdown m) s

/-- FAULT_RESUME (R280). -/
def execFaultResume (m : Nat) (seq : BitVec 16) (inWords : Nat) (s : State) : Out :=
  submit m 0x0304 seq inWords 2 (cmdFaultResume m) s

/-- FAULT_MIGRATE (R283). -/
def execFaultMigrate (m : Nat) (seq : BitVec 16) (inWords : Nat) (s : State) : Out :=
  submit m 0x0305 seq inWords 5 (cmdFaultMigrate m) s

/-- FAULT_ABORT (R280). -/
def execFaultAbort (m : Nat) (seq : BitVec 16) (inWords : Nat) (s : State) : Out :=
  submit m 0x0306 seq inWords 2 (cmdFaultAbort m) s

/-- FRAME_RETIRE (R217). -/
def execFrameRetire (m : Nat) (seq : BitVec 16) (inWords : Nat) (s : State) : Out :=
  submit m 0x0310 seq inWords 1 (cmdFrameRetire m) s

/-- FRAME_UNRETIRE (R217). -/
def execFrameUnretire (m : Nat) (seq : BitVec 16) (inWords : Nat) (s : State) : Out :=
  submit m 0x0311 seq inWords 1 (cmdFrameUnretire m) s

/-- STACK_RETEST (R223). -/
def execStackRetest (m : Nat) (seq : BitVec 16) (inWords : Nat) (s : State) : Out :=
  submit m 0x0312 seq inWords 1 (cmdStackRetest m) s

/-- RESERVE_MODE (R221). -/
def execReserveMode (m : Nat) (seq : BitVec 16) (inWords : Nat) (s : State) : Out :=
  submit m 0x0313 seq inWords 1 (cmdReserveMode m) s

/-- ACCORD_READ (R361). -/
def execAccordRead (m : Nat) (seq : BitVec 16) (inWords : Nat) (linkOk : Bool) (s : State) : Out :=
  submit m 0x0401 seq inWords 4 (cmdAccordRead m linkOk) s

/-- BEAT_SET (R45). -/
def execBeatSet (m : Nat) (seq : BitVec 16) (inWords : Nat) (s : State) : Out :=
  submit m 0x0402 seq inWords 2 (cmdBeatSet m) s

/-- TIME_SOURCE (R361). -/
def execTimeSource (m : Nat) (seq : BitVec 16) (inWords : Nat) (s : State) : Out :=
  submit m 0x0403 seq inWords 1 (cmdTimeSource m) s

/-- CACHE_INVALIDATE_ALL (R239). -/
def execCacheInvalidateAll (m : Nat) (seq : BitVec 16) (inWords : Nat) (s : State) : Out :=
  submit m 0x0501 seq inWords 2 (cmdCacheInvalidateAll m) s

/-- CACHE_ENABLE (R239). -/
def execCacheEnable (m : Nat) (seq : BitVec 16) (inWords : Nat) (s : State) : Out :=
  submit m 0x0502 seq inWords 2 (cmdCacheEnable m) s

/-- CACHE_DISABLE (R239). -/
def execCacheDisable (m : Nat) (seq : BitVec 16) (inWords : Nat) (s : State) : Out :=
  submit m 0x0503 seq inWords 2 (cmdCacheDisable m) s

/-- CACHE_POLICY (R239). -/
def execCachePolicy (m : Nat) (seq : BitVec 16) (inWords : Nat) (s : State) : Out :=
  submit m 0x0504 seq inWords 3 (cmdCachePolicy m) s

/-- POWER_CAP (R407). -/
def execPowerCap (m : Nat) (seq : BitVec 16) (inWords : Nat) (s : State) : Out :=
  submit m 0x0601 seq inWords 1 (cmdPowerCap m) s

/-- SMOOTHING (R416). -/
def execSmoothing (m : Nat) (seq : BitVec 16) (inWords : Nat) (s : State) : Out :=
  submit m 0x0602 seq inWords 1 (cmdSmoothing m) s

/-- DEBUG_HALT (R361). -/
def execDebugHalt (m : Nat) (seq : BitVec 16) (inWords : Nat) (s : State) : Out :=
  submit m 0x0801 seq inWords 3 (cmdDebugHalt m) s

/-- FW_STAGE (R377). -/
def execFwStage (m : Nat) (seq : BitVec 16) (inWords : Nat) (linkOk flashOk : Bool) (h : HostWrites) (s : State) : Out :=
  done s (barAccess (accept m 0x0b01 seq inWords (guarded m 2 (cmdFwStage m linkOk flashOk))) (hostWrote h s))

/-- FW_UNSTAGE (R377). -/
def execFwUnstage (m : Nat) (seq : BitVec 16) (inWords : Nat) (s : State) : Out :=
  submit m 0x0b02 seq inWords 0 (cmdFwUnstage m) s

/-- SHOOTDOWN_DRAIN_DONE (R272, R273). -/
def execShootdownDrainDone (m elapsed : Nat) (s : State) : Out :=
  done s (if s.noseUp then shootdownDone m elapsed s else s)

/-- MIGRATION_COPY_DONE (R283). -/
def execMigrationCopyDone (p fid : Nat) (h : HostWrites) (s : State) : Out :=
  done s (if s.noseUp && s.host.canIssue then migrationDone p fid (hostWrote h s) else s)

/-- STACK_RETEST_DONE (R223). -/
def execStackRetestDone (stack : Nat) (bad : List Nat) (s : State) : Out :=
  done s (if s.noseUp then retestDone stack bad s else s)

end Sys2Proof.Machine
end

