-- ==== Sys2Proof/Machine/Registers.lean ====
section
/-! DEFINITION. The registers of BAR0 as reads give them (R330) and as writes change them (R8, R9), the doorbells of
BAR2 (R346, R347), the BAR4 window (R334, R335), configuration space (R327 to R329) and the I3C registers (R469). -/

namespace Sys2Proof.Machine

open Sys2Proof

/-! ## The capability list (R331 to R333) -/

/-- Entries present, each with its identity, length in units of 16 bytes and body words. -/
def capEntries (s : State) : List (Nat × Nat × List Nat) :=
  let r := s.rst
  [ (0x1, 1, [1]), (0x2, 2, [inFld s.flash.running 32 32 + 0x302, inFld (s.flash.staged.getD 0) 32 32, 0]),
    (0x3, 2, [inFld r.capStacks.toNat 24 16 + inFld r.capPorts.toNat 20 4 + inFld r.capProcs.toNat 16 4 + r.capBrims.toNat,
              s.clock, 0]),
    (0x4, 1, [0xF]), (0x5, 1, [r.capBrims.toNat]), (0x6, 1, [r.capBrims.toNat]), (0x7, 1, [0]), (0x8, 1, [0]),
    (0x9, 1, [7]) ] ++ (if r.capReserve = 0 then [] else [(0xA, 1, [r.capReserve])])
/-- The words of the list from an offset: a header with the next entry's offset, then the body. -/
def capWords : Nat → List (Nat × Nat × List Nat) → List Nat
  | _, [] => []
  | off, (id, len, body) :: rest =>
    let next := if rest.isEmpty then 0 else off + 16 * len
    (inFld next 32 32 + inFld len 24 8 + inFld 1 16 8 + id) :: body ++ capWords (off + 16 * len) rest

/-! ## Values of registers -/

/-- CRN_ID (Table 14-3). -/
def crnId (s : State) : Nat := inFld 0x2548 48 16 + inFld 0x11 40 8 + inFld 3 24 8 + inFld 2 16 8 + s.idState
/-- Requests are held while Bus Master Enable is 0 (R328): writes and messages, those of host copies and migrations under way,
and ring reads that are due. -/
def bmeHold (s : State) : Bool :=
  !s.host.busEn && (!s.host.held.isEmpty || !s.hce.isEmpty || s.faults.any (·.migrating.isSome)
    || s.ctxs.any fun e => (e.2.sqHost && !e.2.stopped && decide (e.2.sqHead ≠ e.2.tail)) || e.2.items.any fun i => i.kind = 3 && i.phase = 2)
/-- CRN_HOST_STATUS (Table 14-6). -/
def crnHostStatus (s : State) : Nat :=
  inFld s.host.width 11 5 + inFld s.host.rate 8 3 + inFld (b01 (bmeHold s)) 2 1 + inFld (b01 s.host.recovery) 1 1
    + b01 s.host.hostLost
/-- A mailbox's register at an offset (Tables 14-9 to 14-12). -/
def mailboxReg (b : Mailbox) (o : Nat) : Nat :=
  if o = 0 then inFld b.seq.toNat 32 16 + inFld b.inWords 16 7 + inFld b.opcode 0 16
  else if o = 8 then inFld b.state 62 2 + inFld (b01 b.collision) 61 1 + inFld b.stsSeq.toNat 32 16 + inFld b.outWords 16 7
    + inFld b.status 0 16
  else if o = 0x10 then inFld b.vector 16 11 + b01 b.irqEn
  else if 0x20 ≤ o && o < 0x400 then b.word ((o - 0x20) / 8) else 0
/-- A word of an event record (Table 18-9). -/
def recordWord (r : EvtRec) (k : Nat) : Nat :=
  if k = 0 then inFld r.code 0 16 + inFld r.cls 16 8 + inFld (b01 r.replayed) 24 1 + inFld r.seq 32 32
  else if k = 1 then r.time else if k = 2 then r.beat else ((r.payload[k - 3]?).getD 0).toNat
/-- Unread records, oldest first. -/
def unreadRecords (e : EvtLog) : List EvtRec := (List.range e.unread).filterMap fun i => look e.slots ((e.head + i) % 1008)
/-- Registers of the event log (Tables 18-5 to 18-8). -/
def evtReg (e : EvtLog) (o : Nat) : Nat :=
  if o = 0 then e.head
  else if o = 8 then inFld e.nextSeq 32 32 + e.tail
  else if o = 0x10 then inFld e.vector 16 11 + inFld e.irqClass 8 3 + b01 e.irqEn
  else if o = 0x18 then
    inFld e.lost 32 32 + inFld ((unreadRecords e).foldl (fun m r => Nat.max m r.cls) 0) 24 3 + inFld e.unread 0 11
  else if 0x400 ≤ o && o < 0x400 + 1008 * 0x40 then
    match look e.slots ((o - 0x400) / 0x40) with
    | some r => recordWord r ((o - 0x400) % 0x40 / 8)
    | none => 0
  else 0
/-- Registers of time and beat (Tables 02-1 to 02-5). -/
def timeReg (t : TimeSt) (o : Nat) : Nat :=
  if o = 0 then t.now else if o = 8 then t.epoch
  else if o = 0x10 then inFld t.planGuard 32 12 + inFld t.guard 16 12 + inFld t.period 0 11
  else if o = 0x18 then t.index
  else if o = 0x20 then inFld t.accuracy 20 20 + inFld (b01 t.timeFault) 3 1 + inFld (b01 t.locked) 2 1 + inFld t.source 0 2
  else 0
/-- CRN_PWR_CAP, CRN_PWR_INPUT and CRN_PWR_STATUS (Tables 17-8 to 17-10). -/
def pwrCap (s : State) : Nat :=
  inFld 4000 48 16 + inFld s.pwr.cap 32 16 + inFld s.pwr.floor256 16 8 + inFld (b01 s.pwr.smoothing) 8 1
    + issueOf s.pwr.cap
def pwrInput (s : State) : Nat :=
  inFld s.pwr.powerW 48 16 + inFld (s.parts.map fun e => plannedPower s e.1 s.beat).sum 32 16 + inFld s.pwr.volts 16 16
    + inFld s.pwr.amps 0 16
def pwrStatus (s : State) : Nat :=
  let p := s.pwr
  inFld p.throttled.toNat 32 16 + inFld (Nat.min p.tilesFailed.length 1) 16 2 + inFld (b01 p.prevShutdown) 7 1
    + inFld (b01 p.thermalSeen) 6 1 + inFld (b01 p.droopSeen) 5 1 + inFld (b01 p.lowlineSeen) 4 1
    + inFld (b01 (p.emergencies.any fun e => e.1 = 2 || e.1 = 3)) 3 1 + inFld (b01 (p.emergencies.any fun e => e.1 = 1)) 2 1
    + inFld (b01 p.lowLine) 1 1 + b01 p.governed
/-- CRN_THERM_n (Table 17-12). -/
def crnTherm (s : State) (n : Nat) : Nat :=
  ((List.range 8).map fun j => if 8 * n + j < 25 then inFld (s.die (8 * n + j)).temp (8 * j) 8 else 0).sum
def pwrReg (s : State) (o : Nat) : Nat :=
  if o = 0 then pwrCap s else if o = 8 then pwrInput s else if o = 0x10 then pwrStatus s
  else if o = 0x100 || o = 0x108 then
    ((List.range 32).map fun j => inFld (s.regionState (4 * (o - 0x100) + j)) (2 * j) 2).sum
  else if o = 0x110 then s.pwr.failed.toNat
  else if 0x200 ≤ o && o < 0x220 then crnTherm s ((o - 0x200) / 8) else 0
/-- Registers of a fault queue (Tables 11-5 to 11-9); migrate reads 1 where no partition turned it off. -/
def fqReg (s : State) (p o : Nat) : Nat :=
  let q := s.fqOf p
  if o = 0 then q.base * 256
  else if o = 8 then inFld q.vector 16 11 + inFld (b01 (((s.part p).map (·.migrate)).getD true)) 1 1 + b01 q.enable
  else if o = 0x10 then q.head
  else if o = 0x18 then inFld (b01 q.phase) 12 1 + q.tail
  else if o = 0x20 then
    inFld q.overflow 32 32 + inFld (Nat.min q.pending.length 65535) 16 16 + b01 (q.unread = 4096)
  else 0
/-- The MSI-X table and pending bits (R327). -/
def msixReg (h : HostIf) (o : Nat) : Nat :=
  if o < 0x8000 then
    let e := lookD h.msix (o / 16) {}
    if o % 16 = 0 then e.addr.toNat else e.data.toNat + inFld (b01 e.masked) 32 1
  else if o < 0x8100 then ofBits ((List.range 64).filter fun i => (lookD h.msix ((o - 0x8000) * 8 + i) {}).pending) else 0

/-- STK_L2_STATUS and STK_L2_WAYOFF_k (Tables 09-6, 09-7). -/
def l2Status (z : L2) : Nat :=
  inFld z.off.length 32 10 + inFld (b01 z.prefetch) 4 1 + inFld (b01 z.seqDetect) 3 1 + inFld (b01 z.busy) 2 1
    + inFld (b01 z.invalidated) 1 1 + b01 z.enabled
def l2WayOffReg (z : L2) (k : Nat) : Nat := ofBits ((List.range 64).filter fun i => z.off.contains (4 * k * 16 + i))
/-- STK_ERR_COUNT (Table 08-5). -/
def stkErrCount (s : State) (k : Nat) : Nat :=
  inFld (s.stack k).ceTotal 32 32 + inFld (s.stack k).ueTotal 16 16 + inFld (lookD s.flash.rows k 0) 0 16
/-- A Brim die's modules as its window shows them: 0-3 to the Crown, 4 and 5 on the ring (R326). -/
def brimModule (d k : Nat) : Nat := if k < 4 then 4 * d + k else if k = 4 then 88 + d else 88 + (d + 15) % 16

/-- Condition of a group (R108): 0 free, 1 ready, 2 waiting, 3 fault-stalled, 4 halted. -/
def groupCondition (s : State) (c : Nat) (g : Option Group) : Nat :=
  match g with
  | none => 0
  | some x =>
    if s.halted (regionOfCore c) then 4
    else match x.wait with
      | .none => 1
      | .fault _ => 3
      | _ => 2
/-- BRM_DBG_DATA: the word that BRM_DBG_SEL names (R108); a free slot has no words and reads 0 (DESIGN CHOICE, log 81). -/
def dbgData (s : State) (d : Nat) : Nat :=
  let z := lookD s.dbgSel d {}
  let c := d * 64 + z.core
  let g := look (s.core c).groups z.group
  match g with
  | none => 0
  | some x =>
    if z.space = 0 then (if z.index < 32 then (lookD x.x (z.lane * 32 + z.index) 0).toNat else 0)
    else if z.space = 1 then (if z.index < 32 then (lookD x.f (z.lane * 32 + z.index) 0).toNat else 0)
    else if z.space = 2 then
      if z.index = 0 then x.pc
      else if z.index = 1 then x.active.toNat + inFld x.stack.length 32 8 + inFld (groupCondition s c g) 40 4
      else if z.index = 2 then x.wdCount
      else if z.index = 3 then (lookD x.fcsr z.lane 0).toNat
      else if z.index = 4 then x.scope.toNat else 0
    else
      match (x.stack.reverse)[z.index / 3]? with
      | none => 0
      | some e => if z.index % 3 = 0 then e.addr + inFld (b01 e.loop) 63 1 else if z.index % 3 = 1 then e.outer.toNat else e.other.toNat

/-- The debug registers answer: debug mode is on for the die's partition (R107). -/
def debugOn (s : State) (d : Nat) : Bool := ((s.partOfBrim d).bind s.part).any (·.debug)

/-- A register of the debug window of Brim `d` (R15, R107, R215, R240, R326). -/
def windowReg (s : State) (d o : Nat) : Nat :=
  if o = 0 then (s.die d).identity.toNat
  else if o = 0x1000 then stkStatus s d else if o = 0x1008 then stkErrCount s d
  else if o = 0x1010 then l2Status (s.l2Of d)
  else if 0x1040 ≤ o && o < 0x1080 then l2WayOffReg (s.l2Of d) ((o - 0x1040) / 8)
  else if 0x1100 ≤ o && o < 0x1130 then moduleWord (s.module (brimModule d ((o - 0x1100) / 8)))
  else if !debugOn s d then 0
  else if 0x100 ≤ o && o < 0x140 then
    let x := s.dbgOf (4 * d + (o - 0x100) / 16)
    if o % 16 = 0 then inFld x.stepCore 12 4 + inFld x.stepGroup 8 4
    else inFld x.cause 8 8 + inFld (b01 x.stepWait) 2 1 + inFld (b01 x.stepDone) 1 1 + b01 (x.cause ≠ 0)
  else if o = 0x200 then
    let z := lookD s.dbgSel d {}
    inFld z.core 18 6 + inFld z.group 14 4 + inFld z.lane 9 5 + inFld z.space 7 2 + inFld z.index 0 7
  else if o = 0x208 then dbgData s d else 0

/-- What a 64-bit read of BAR0 at an offset returns (R330, R329). -/
def bar0Read (s : State) (o : Nat) : Nat :=
  if !s.shellUp then (if o = 0 then crnId s else 0)
  else if o = 0 then crnId s else if o = 8 then 0x100 else if o = 0x10 then inFld s.host.win 28 13
  else if o = 0x18 then crnHostStatus s
  else if o < 0x100 then 0
  else if o < 0x10000 then ((capWords 0x100 (capEntries s))[(o - 0x100) / 8]?).getD 0
  else if o < 0x20000 then mailboxReg (s.mailbox ((o - 0x10000) / 0x400)) ((o - 0x10000) % 0x400)
  else if o < 0x30000 then evtReg s.evt (o - 0x20000)
  else if o < 0x40000 then timeReg s.time (o - 0x30000)
  else if o < 0x50000 then pwrReg s (o - 0x40000)
  else if o < 0x51000 then fqReg s ((o - 0x50000) / 0x100) ((o - 0x50000) % 0x100)
  else if 0x80000 ≤ o && o < 0x88100 then msixReg s.host (o - 0x80000)
  else if 0x1000000 ≤ o && o < 0x2000000 then windowReg s ((o - 0x1000000) / 0x100000) (o % 0x100000) else 0

/-- A read of BAR0 with an access of `size` bytes: an aligned register or half of one, else Unsupported Request (R8). A
32-bit read of CRN_TIME_NOW's low half latches the high half, which the next read of it returns (R43). -/
def registerRead (o size : Nat) (s : State) : State :=
  let v := bar0Read s (o / 8 * 8)
  if size = 8 && o % 8 = 0 then s.answer (.value (BitVec.ofNat 64 v))
  else if !(size = 4 && o % 4 = 0) then s.answer .ur
  else if o = 0x30000 && s.shellUp then
    { s with time := { s.time with latch := some (BitVec.ofNat 32 (v / 2 ^ 32)) } }.answer
      (.value (BitVec.ofNat 64 (v % 2 ^ 32)))
  else if o = 0x30004 && s.shellUp then
    { s with time := { s.time with latch := none } }.answer
      (.value (BitVec.ofNat 64 (match s.time.latch with | some x => x.toNat | none => v / 2 ^ 32)))
  else s.answer (.value (BitVec.ofNat 64 (if o % 8 = 0 then v % 2 ^ 32 else v / 2 ^ 32)))

/-! ## Writes -/

/-- Bits that an access writes, and their value in place. -/
def halfMask : Half → Nat
  | .whole => 2 ^ 64 - 1
  | .low => 2 ^ 32 - 1
  | .high => 2 ^ 64 - 2 ^ 32
def halfValue (h : Half) (v : W64) : Nat :=
  match h with
  | .whole => v.toNat
  | .low => v.toNat % 2 ^ 32
  | .high => v.toNat % 2 ^ 32 * 2 ^ 32
/-- A register's value with the written bits taken from the access. -/
def mergeHalf (old : Nat) (h : Half) (v : W64) : Nat := (old &&& (2 ^ 64 - 1 - halfMask h)) ||| halfValue h v

/-- Payload word `k` of a mailbox: ignored while busy, with collision set (R340). -/
def payloadWrite (m k : Nat) (h : Half) (v : W64) (s : State) : State :=
  let b := s.mailbox m
  if b.state = 1 then s.setMailbox m { b with collision := true }
  else s.setMailbox m { b with data := putD b.data k (BitVec.ofNat 64 (mergeHalf (b.word k) h v)) 0 }

/-- Opcodes of Table 15-1 with their request lengths and bodies, as a write of CRN_MBX_CMD reaches them. -/
def firmwareCommand (op m : Nat) : Option (Nat × (State → State)) :=
  match op with
  | 0x0002 => some (0, cmdNop m) | 0x0010 => some (0, cmdDieInventory m) | 0x0011 => some (1, cmdMemoryInventory m true)
  | 0x0012 => some (0, cmdLinkStatus m) | 0x0013 => some (1, cmdSatRead m true)
  | 0x0101 => some (8, cmdContextCreate m) | 0x0102 => some (1, cmdContextDestroy m)
  | 0x0103 => some (2, cmdContextQuery m) | 0x0104 => some (1, cmdContextStop m) | 0x0105 => some (2, cmdItemCancel m)
  | 0x0201 => some (3, cmdPartitionCreate m) | 0x0202 => some (1, cmdPartitionDestroy m)
  | 0x0203 => some (3, cmdPartitionSet m) | 0x0211 => some (2, cmdAspaceCreate m) | 0x0212 => some (1, cmdAspaceDestroy m)
  | 0x0301 => some (3, cmdPagePin m) | 0x0302 => some (3, cmdPageUnpin m) | 0x0303 => some (3, cmdShootdown m)
  | 0x0304 => some (2, cmdFaultResume m) | 0x0305 => some (5, cmdFaultMigrate m) | 0x0306 => some (2, cmdFaultAbort m)
  | 0x0310 => some (1, cmdFrameRetire m) | 0x0311 => some (1, cmdFrameUnretire m) | 0x0312 => some (1, cmdStackRetest m)
  | 0x0313 => some (1, cmdReserveMode m) | 0x0401 => some (4, cmdAccordRead m true) | 0x0402 => some (2, cmdBeatSet m)
  | 0x0403 => some (1, cmdTimeSource m) | 0x0501 => some (2, cmdCacheInvalidateAll m)
  | 0x0502 => some (2, cmdCacheEnable m) | 0x0503 => some (2, cmdCacheDisable m) | 0x0504 => some (3, cmdCachePolicy m)
  | 0x0601 => some (1, cmdPowerCap m) | 0x0602 => some (1, cmdSmoothing m) | 0x0801 => some (3, cmdDebugHalt m)
  | 0x0901 => some (8, cmdJobArm m true) | 0x0902 => some (1, cmdJobStop m) | 0x0903 => some (1, cmdJobQuery m)
  | 0x0B01 => some (2, cmdFwStage m true true) | 0x0B02 => some (0, cmdFwUnstage m)
  | _ => none

/-- A command whose opcode no row has: ST_BAD_OPCODE after the two checks that precede it (R359). -/
def badOpcode (m : Nat) (s : State) : State :=
  if s.idState = 2 then complete m ST.deviceFailed [] s
  else if s.idState = 3 then complete m ST.hostLost [] s
  else complete m ST.badOpcode [] s

/-- A write of CRN_MBX_CMD (Table 14-10, R339, R340, R343). -/
def mailboxCmdWrite (m : Nat) (h : Half) (v : W64) (s : State) : State :=
  let b := s.mailbox m
  let n := mergeHalf (mailboxReg b 0) h v
  let op := fld n 0 16
  let b' := { b with opcode := op, inWords := fld n 16 7, seq := BitVec.ofNat 16 (fld n 32 16) }
  if (halfValue h v).testBit 63 then
    if op = 1 then fullReset 2 2 s
    else
      let run := match firmwareCommand op m with
        | some (len, f) => guarded m len f
        | none => badOpcode m
      accept m op b'.seq b'.inWords run s
  else s.setMailbox m b'

/-- A write to a mailbox's registers. -/
def mailboxWrite (m o : Nat) (h : Half) (v : W64) (s : State) : State :=
  let b := s.mailbox m
  if o = 0 then mailboxCmdWrite m h v s
  else if o = 8 then
    if (halfValue h v).testBit 61 then s.setMailbox m { b with collision := false } else s
  else if o = 0x10 then
    let n := mergeHalf (mailboxReg b o) h v
    s.setMailbox m { b with vector := fld n 16 11, irqEn := n.testBit 0 }
  else if 0x20 ≤ o && o < 0x400 then payloadWrite m ((o - 0x20) / 8) h v s else s

/-- CRN_EVT_HEAD (R441): slots up to the new head are free; a value above 1,007 is ignored. -/
def evtHead (n : Nat) (s : State) : State :=
  let n := n % 1024
  if 1007 < n then s
  else
    let freed := (n + 1008 - s.evt.head) % 1008
    { s with evt := { s.evt with head := n, unread := s.evt.unread - freed } }
/-- CRN_EVT_CFG (Table 18-7, R443): one message when enabled while a record of its class is unread. -/
def evtCfg (n : Nat) (s : State) : State :=
  let was := s.evt.irqEn
  let s := { s with evt := { s.evt with vector := fld n 16 11, irqClass := fld n 8 3, irqEn := n.testBit 0 } }
  let due := (unreadRecords s.evt).any fun r => decide (s.evt.irqClass ≤ r.cls)
  if !was && due then evtSignal 7 s else s

/-- CRN_FQ_HEAD (R277): entries up to the new head are free, and pending records are posted. -/
def fqHead (p n : Nat) (s : State) : State :=
  let n := n % 4096
  pumpFaults p (s.setFq p fun q => { q with head := n, unread := q.unread - (n + 4096 - q.head) % 4096 })
/-- CRN_FQ_CTL (Table 11-6): setting enable resets head, tail and phase. -/
def fqCtl (p n : Nat) (s : State) : State :=
  let on := n.testBit 0
  pumpFaults p (s.setFq p fun q =>
    let q := { q with vector := fld n 16 11 }
    if on && !q.enable then { q with enable := true, head := 0, tail := 0, phase := true, unread := 0 }
    else { q with enable := on })
/-- Registers of a fault queue (Tables 11-5 to 11-9). -/
def fqWrite (p o : Nat) (h : Half) (v : W64) (s : State) : State :=
  let n := mergeHalf (fqReg s p o) h v
  if o = 0 then s.setFq p fun q => if q.enable then q else { q with base := n / 256 }
  else if o = 8 then fqCtl p n s
  else if o = 0x10 then fqHead p n s else s

/-- The MSI-X table (R337): an entry that is unmasked with its bit pending is sent. -/
def msixWrite (o : Nat) (h : Half) (v : W64) (s : State) : State :=
  if 0x8000 ≤ o then s
  else
    let k := o / 16
    let e := lookD s.host.msix k {}
    let n := mergeHalf (msixReg s.host o) h v
    let e := if o % 16 = 0 then { e with addr := BitVec.ofNat 64 n }
      else { e with data := BitVec.ofNat 32 n, masked := n.testBit 32 }
    flushMsix { s with host := { s.host with msix := putD s.host.msix k e {} } }

/-- A write of BRM_DBG_RCTL without its step (Table 03-12): the selection, then halt and resume. -/
def rctlWrite (d r : Nat) (v : Nat) (s : State) : State :=
  if !debugOn s d then s
  else
    let k := 4 * d + r
    let s := s.setDbg k fun x => { x with stepCore := fld v 12 4, stepGroup := fld v 8 4 }
    let s := if v.testBit 0 then haltRegion k 1 s else s
    if v.testBit 1 then resumeRegion k s else s

/-- A group leaves the barrier at which it waits; one that all have left is idle. -/
def leaveBarrier (die : Bool) (key c slot : Nat) (s : State) : State :=
  let leave := fun (t : Tab Barrier) => match look t key with
    | some b =>
      let ws := b.waiting.filter (· ≠ (c, slot))
      if ws.isEmpty then del t key else put t key { b with waiting := ws }
    | none => t
  if die then { s with barDie := leave s.barDie } else { s with barCl := leave s.barCl }
/-- The mask stack with `n` entries: those above go, and those that appear hold free values (log 81). -/
def setDepth (n : Nat) (g : Group) (s : State) : Group × State :=
  if n ≤ g.stack.length then ({ g with stack := g.stack.drop (g.stack.length - n) }, s)
  else
    let new := (List.range (n - g.stack.length)).map fun i =>
      let v := fun k => Config.freeWord (s.free + 4 * i + k)
      ({ loop := (v 0).getLsbD 0, addr := (v 1).toNat, outer := (v 2).setWidth 32, other := (v 3).setWidth 32 } : MaskEntry)
    ({ g with stack := new ++ g.stack }, { s with free := s.free + 4 * (n - g.stack.length) })
/-- The pc of a group written: one that waited before an instruction waits no more, since it stopped before it (R109). -/
def setGroupPc (c slot : Nat) (pc : Nat) (g : Group) (s : State) : State :=
  let stays := match g.wait with
    | .engine _ => true
    | _ => false
  let s := match g.wait with
    | .barrier die key => leaveBarrier die key c slot s
    | _ => s
  s.setCore c fun k => { k with groups := put k.groups slot { g with pc := pc, wait := if stays then g.wait else .none } }

/-- A write through BRM_DBG_DATA (R108): only in a halted region, to spaces 0 and 1 and state words 0 and 1. Word 1 sets the
active mask as written, be it empty or beyond the lane count, and the depth, at most 32 (DESIGN CHOICE, log 81). -/
def dbgDataPut (d : Nat) (v : W64) (s : State) : State :=
  let z := lookD s.dbgSel d {}
  let c := d * 64 + z.core
  let key := z.lane * 32 + z.index
  let set := fun (g : Group) (s : State) => s.setCore c fun k => { k with groups := put k.groups z.group g }
  if !debugOn s d || !s.halted (regionOfCore c) then s
  else match look (s.core c).groups z.group with
    | none => s
    | some x =>
      if z.space = 0 && 0 < z.index && z.index < 32 then set { x with x := putD x.x key v 0 } s
      else if z.space = 1 && z.index < 32 then set { x with f := putD x.f key v 0 } s
      else if z.space = 2 && z.index = 0 then setGroupPc c z.group v.toNat x s
      else if z.space = 2 && z.index = 1 then
        let (g, s) := setDepth (Nat.min 32 (fld v.toNat 32 8)) { x with active := v.setWidth 32 } s
        set g s
      else s

/-- Registers of a debug window (Tables 03-12 to 03-15). -/
def windowWrite (d o : Nat) (h : Half) (v : W64) (s : State) : State :=
  if !debugOn s d then s
  else if 0x100 ≤ o && o < 0x140 then
    let r := (o - 0x100) / 16
    if o % 16 = 0 then rctlWrite d r (mergeHalf (windowReg s d o) h v) s
    else if (halfValue h v).testBit 1 then s.setDbg (4 * d + r) fun x => { x with stepDone := false } else s
  else if o = 0x200 then
    let n := mergeHalf (windowReg s d o) h v
    let z : DbgSel := { core := fld n 18 6, group := fld n 14 4, lane := fld n 9 5, space := fld n 7 2, index := fld n 0 7 }
    { s with dbgSel := putD s.dbgSel d z {} }
  else if o = 0x208 then dbgDataPut d (BitVec.ofNat 64 (mergeHalf (dbgData s d) h v)) s else s

/-- CRN_TIME_STATUS and CRN_PWR_STATUS clear bits written 1 (Tables 02-5, 17-10). -/
def timeStatusWrite (n : Nat) (s : State) : State :=
  if n.testBit 3 then { s with time := { s.time with timeFault := false } } else s
def pwrStatusWrite (n : Nat) (s : State) : State :=
  { s with pwr := { s.pwr with
    prevShutdown := s.pwr.prevShutdown && !n.testBit 7, thermalSeen := s.pwr.thermalSeen && !n.testBit 6
    droopSeen := s.pwr.droopSeen && !n.testBit 5, lowlineSeen := s.pwr.lowlineSeen && !n.testBit 4 } }

/-- A write to a register of BAR0, with the effect that its fields' access codes give (R9, R330). -/
def bar0Write (o : Nat) (h : Half) (v : W64) (s : State) : State :=
  if !s.shellUp then s
  else if o = 0x10 then { s with host := { s.host with win := fld (mergeHalf (bar0Read s o) h v) 28 13 } }
  else if o < 0x10000 then s
  else if o < 0x20000 then mailboxWrite ((o - 0x10000) / 0x400) ((o - 0x10000) % 0x400) h v s
  else if o = 0x20000 then evtHead (mergeHalf s.evt.head h v) s
  else if o = 0x20010 then evtCfg (mergeHalf (evtReg s.evt 0x10) h v) s
  else if o = 0x30020 then timeStatusWrite (halfValue h v) s
  else if o = 0x40010 then pwrStatusWrite (halfValue h v) s
  else if 0x50000 ≤ o && o < 0x51000 then fqWrite ((o - 0x50000) / 0x100) ((o - 0x50000) % 0x100) h v s
  else if 0x80000 ≤ o && o < 0x88000 then msixWrite (o - 0x80000) h v s
  else if 0x1000000 ≤ o && o < 0x2000000 then windowWrite ((o - 0x1000000) / 0x100000) (o % 0x100000) h v s
  else s

/-! ## Doorbells (R346, R347) -/

/-- DOORBELL_STRAY (Table 18-10). -/
def strayDoorbell (c word : Nat) : State → State := logEvent 0x0402 0 (evAt 0 c + evAt 4 (word % 2 ^ 32))

/-- The tail word of a context's doorbell (R347, R358, R367). -/
def ringDoorbell (c : Nat) (v : W64) (s : State) : State :=
  let n := v.toNat
  let tail := fld n 0 16
  let seq := BitVec.ofNat 16 (fld n 16 16)
  if s.host.hostLost || !s.noseUp then s
  else match s.ctx c with
    | none => strayDoorbell c n s
    | some x =>
      if 2 ^ x.sqLog2 ≤ tail then strayDoorbell c n s
      else
        let ahead := (seq - x.lastSeq).toNat
        if x.stopped || ahead = 0 || 32768 < ahead then s
        else s.setCtx c fun x => { x with lastSeq := seq, tail := tail }

/-- The cq_head word of a context's doorbell (R346, R351, R367). -/
def headDoorbell (c : Nat) (v : W64) (s : State) : State :=
  let n := v.toNat
  let head := fld n 0 16
  if s.host.hostLost || !s.noseUp then s
  else match s.ctx c with
    | none => strayDoorbell c n s
    | some x =>
      let size := 2 ^ x.cqLog2
      if size ≤ head || (x.cqTail + size - x.cqHead) % size < (head + size - x.cqHead) % size then strayDoorbell c n s
      else finishDestroys (pumpEntries c x.held.length (s.setCtx c fun x => { x with cqHead := head }))

/-- A write to a doorbell word: only its low half acts (R346). -/
def bar2Write (o : Nat) (h : Half) (v : W64) (s : State) : State :=
  if !s.shellUp || h = .high then s
  else
    let v := BitVec.ofNat 64 (halfValue h v)
    if o % 16 = 0 then ringDoorbell (o / 16) v s else headDoorbell (o / 16) v s

/-! ## BAR4 (R334, R335) -/

/-- Device physical address of a BAR4 offset: the window's base aligned down to the BAR's size. -/
def bar4Addr (s : State) (o : Nat) : Nat :=
  let size := 2 ^ s.host.bar4Log2
  s.host.win * 2 ^ 28 / size * size + o % size

/-- A BAR4 request to this address is not served (R335). -/
def bar4Refuses (s : State) (a : Nat) : Bool :=
  match placeOf s a with
  | .stack k => s.stackState k ≠ 0 || s.flash.retired.contains (frameOf a)
  | .window c => 1024 ≤ c || (s.partOfBrim (dieOfCore c)).isNone || s.regionFailed (regionOfCore c)
  | _ => true
/-- The wait of a BAR4 access for a sleeping region or a retraining group. -/
def bar4Wait (l : Nat) (s : State) : State :=
  let s := if crownPath s 24 (homeDie s (l * 256)) = 1 then holdRun s else s
  match placeOf s (l * 256) with
  | .window c => windowWake (regionOfCore c) s
  | _ => s

/-- A read through BAR4: every line at one instant, EP on a poisoned line or a lost die (R334, R335). -/
def bar4ReadBody (o n : Nat) (s : State) : State :=
  let a := bar4Addr s o
  let ls := linesOf a n
  if !s.shellUp || s.rst.step = 10 || ls.any fun l => bar4Refuses s (l * 256) then s.answer .ur
  else
    let s := ls.foldl (fun s l => bar4Wait l s) s
    let lost := ls.any fun l => crownPath s 24 (homeDie s (l * 256)) = 2
    let (g, s) := bytesRead a n false (atEngine 24 0 [(0x2010, 3)] s)
    s.answer (.bytes g.data (g.poison || lost))

/-- A write through BAR4: discarded with HOST_ACCESS, or one unit per line (R334, R335); poisoned where its TLP fails its ECRC
(R298). -/
def bar4WriteBody (o : Nat) (data : List Byte) (s : State) : State :=
  let a := bar4Addr s o
  let ls := linesOf a data.length
  if !s.shellUp || s.rst.step = 10 then s.answer .ur
  else match ls.find? fun l => bar4Refuses s (l * 256) with
    | some l => logEvent 0x0401 0 (evAt 8 (Nat.max a (l * 256))) s
    | none =>
      let (bad, s) := ls.foldl (fun (x : Bool × State) l =>
        let (f, s) := ecrcFails l 0x1010 x.2
        (x.1 || f, s)) (false, ls.foldl (fun s l => bar4Wait l s) s)
      bytesWrite a data bad false (atEngine 24 0x1010 [] s)

/-! ## Meanings -/

/-- MBX_DATA_WRITE (R340). -/
def execMbxDataWrite (m k : Nat) (half : Half) (v : W64) (s : State) : Out :=
  done s (barAccess (fun s => if s.shellUp && m < 64 && k < 124 then payloadWrite m k half v s else s) s)
/-- TIME_NOW_LOW_READ (R43). -/
def execTimeNowLowRead (s : State) : Out :=
  done s (barAccess (registerRead 0x30000 4) s)
/-- TIME_NOW_HIGH_READ (R43). -/
def execTimeNowHighRead (s : State) : Out :=
  done s (barAccess (registerRead 0x30004 4) s)
/-- TIME_FAULT_CLEAR (R42). -/
def execTimeFaultClear (v : W64) (s : State) : Out := done s (barAccess (bar0Write 0x30020 .whole v) s)
/-- DOORBELL_TAIL (R347). -/
def execDoorbellTail (ctx : Nat) (v : W64) (s : State) : Out := done s (barAccess (bar2Write (ctx * 16) .whole v) s)
/-- DOORBELL_CQ_HEAD (R346). -/
def execDoorbellCqHead (ctx : Nat) (v : W64) (s : State) : Out := done s (barAccess (bar2Write (ctx * 16 + 8) .whole v) s)
/-- FQ_HEAD_WRITE (R277). -/
def execFqHeadWrite (p : Nat) (v : W64) (s : State) : Out :=
  done s (barAccess (fun s => if s.shellUp && p < 16 then fqHead p v.toNat s else s) s)
/-- FQ_ENABLE_WRITE (R277). -/
def execFqEnableWrite (p : Nat) (v : W64) (s : State) : Out :=
  done s (barAccess (fun s => if s.shellUp && p < 16 then fqCtl p v.toNat s else s) s)
/-- EVT_HEAD_WRITE (R441). -/
def execEvtHeadWrite (v : W64) (s : State) : Out := done s (barAccess (bar0Write 0x20000 .whole v) s)
/-- EVT_CFG_WRITE (R443). -/
def execEvtCfgWrite (v : W64) (s : State) : Out := done s (barAccess (bar0Write 0x20010 .whole v) s)
/-- BAR4_WIN_WRITE (R334). -/
def execBar4WinWrite (v : W64) (s : State) : Out := done s (barAccess (bar0Write 0x10 .whole v) s)
/-- DBG_RCTL_HALT (R109). -/
def execDbgRctlHalt (die r : Nat) (v : W64) (s : State) : Out :=
  done s (barAccess (fun s => if s.shellUp then rctlWrite die r (v.toNat ||| 1) s else s) s)
/-- DBG_RCTL_RESUME (R109). -/
def execDbgRctlResume (die r : Nat) (v : W64) (s : State) : Out :=
  done s (barAccess (fun s => if s.shellUp then rctlWrite die r (v.toNat ||| 2) s else s) s)
/-- DBG_DATA_WRITE (R108). -/
def execDbgDataWrite (die : Nat) (v : W64) (s : State) : Out :=
  done s (barAccess (fun s => if s.shellUp then dbgDataPut die v s else s) s)
/-- BAR4_READ (R335). -/
def execBar4Read (off len : Nat) (md : Media) (s : State) : Out :=
  done s (barAccess (runWith md (bar4ReadBody off len)) s)
/-- BAR4_WRITE (R335). -/
def execBar4Write (off : Nat) (data : List Byte) (md : Media) (s : State) : Out :=
  done s (barAccess (runWith md (bar4WriteBody off data)) s)

/-- I3C_SYNC_TOD_WRITE (R468): the target answers from step 2 until the converters turn off (R469). -/
def execI3cSyncTodWrite (v : W64) (s : State) : Out :=
  done s (if 2 ≤ s.rst.step then
    { s with time := { s.time with tod := fld v.toNat 0 48, todFresh := true, todAt := s.time.now } } else s)
/-- I3C_SYNC_ACC_WRITE (R467). -/
def execI3cSyncAccWrite (v : W64) (s : State) : Out :=
  done s (if 2 ≤ s.rst.step then
    { s with time := { s.time with delayNs := fld v.toNat 32 20, accNs := fld v.toNat 0 20 } } else s)

/-! ## Configuration space and the host link (R327 to R329, R356 to R358) -/

/-- The register that a configuration offset names: those of the type 0 header stand at their places in it (R3). -/
def cfgNamed : CfgReg → CfgReg
  | .other off =>
    let o := off / 4 * 4
    if o = 0 then .ids else if o = 4 then .command else if o = 8 then .revClass else if o = 0xC then .header
    else if 0x10 ≤ o && o < 0x28 then .bar ((o - 0x10) / 4) else .other off
  | r => r
/-- Place of an access in its register, in bits. -/
def cfgShift : CfgReg → Nat
  | .other off => 8 * (off % 4)
  | _ => 0
/-- A configuration register's value. -/
def cfgValue (s : State) : CfgReg → Nat
  | .ids => 0x25481F7B
  | .command => b01 s.host.memEn * 2 + b01 s.host.busEn * 4
  | .revClass => 0x12000011
  | .header => 0
  | .bar i => (lookD s.host.bars i 0).toNat
  | .msixControl => 2047 + inFld (b01 s.host.msixMask) 14 1 + inFld (b01 s.host.msixEn) 15 1
  | .deviceControl => s.host.devCtl.toNat
  | .pmcsr => if s.host.d3hot then 3 else 0
  | .rebar => inFld (s.host.bar4Log2 - 20) 8 6
  | .aer => s.host.aer.toNat % 2 ^ 9 / 2 ^ 5 % 16 * 2 ^ 5 ||| 0xA0
  | .serial hi => if hi then 0 else fld (s.die 24).identity.toNat 0 32
  | .other _ => 0

/-- Address bits of a BAR that are not writable by its size (Table 14-1), with its type bits. -/
def barMask (s : State) (i : Nat) : Nat × Nat :=
  let m := fun (lg : Nat) (hi : Bool) => if hi then (if lg ≤ 32 then 0 else 2 ^ (lg - 32) - 1) else (if 32 ≤ lg then 2 ^ 32 - 1 else 2 ^ lg - 1)
  if i = 0 then (m 26 false, 4) else if i = 1 then (0, 0) else if i = 2 then (m 24 false, 4) else if i = 3 then (0, 0)
  else if i = 4 then (m s.host.bar4Log2 false, 12) else (m s.host.bar4Log2 true, 0)

/-- A change of Bus Master Enable: what was held is issued in order (R328). -/
def setBusMaster (on : Bool) (s : State) : State := releaseHeld { s with host := { s.host with busEn := on } }

/-- What a read of configuration space returns: the register's value from the byte addressed. -/
def cfgRead (s : State) (r : CfgReg) : Nat := cfgValue s (cfgNamed r) / 2 ^ cfgShift r

/-- A write to a configuration register. -/
def cfgSet (r : CfgReg) (v : W32) (s : State) : State :=
  let n := v.toNat
  match r with
  | .command => setBusMaster (n.testBit 2) { s with host := { s.host with memEn := n.testBit 1 } }
  | .bar i =>
    let (mask, typ) := barMask s i
    { s with host := { s.host with bars := putD s.host.bars i (BitVec.ofNat 32 ((n &&& (2 ^ 32 - 1 - mask)) ||| typ)) 0 } }
  | .msixControl =>
    flushMsix { s with host := { s.host with msixEn := n.testBit 15, msixMask := n.testBit 14 } }
  | .deviceControl => { s with host := { s.host with devCtl := v, relaxed := n.testBit 4 } }
  | .pmcsr => { s with host := { s.host with d3hot := n % 4 = 3 } }
  | .rebar =>
    let lg := 20 + fld n 8 6
    if 28 ≤ lg && lg ≤ 41 then { s with host := { s.host with bar4Log2 := lg } } else s
  | .aer => { s with host := { s.host with aer := v } }
  | _ => s
/-- A write to configuration space: the bytes below the one addressed keep their value. -/
def cfgWrite (r : CfgReg) (v : W32) (s : State) : State :=
  let k := cfgShift r
  cfgSet (cfgNamed r) (BitVec.ofNat 32 (cfgValue s (cfgNamed r) % 2 ^ k + v.toNat * 2 ^ k)) s

/-- PCIE_CONFIG_REQUEST (R329). -/
def execPcieConfigRequest (reg : CfgReg) (wr : Option W32) (s : State) : Out :=
  done s (if !s.host.linkUp then s
    else if s.host.rrs then s.answer .rrs
    else match wr with
      | some v => (cfgWrite reg v s).answer .ok
      | none => s.answer (.value (BitVec.ofNat 64 (cfgRead s reg))))
/-- BUS_MASTER_ENABLE_WRITE (R328). -/
def execBusMasterEnableWrite (on : Bool) (s : State) : Out :=
  done s (if !s.host.linkUp then s else if s.host.rrs then s.answer .rrs else (setBusMaster on s).answer .ok)

/-- LINK_RECOVERY (R356). -/
def execLinkRecovery (s : State) : Out :=
  done s (if s.host.linkUp then { s with host := { s.host with recovery := true } } else s)
/-- LINK_RECOVERY_END (R356): held traffic resumes at the new width and rate. -/
def execLinkRecoveryEnd (width rate : Nat) (s : State) : Out :=
  done s (if s.host.linkUp && s.host.recovery then
    releaseHeld { s with host := { s.host with recovery := false, width := width, rate := rate } } else s)
/-- HOST_LINK_UP (R358): the link trains; a device that was host-lost stays so. -/
def execHostLinkUp (width rate : Nat) (s : State) : Out :=
  done s (if s.rst.step = 0 || s.rst.step = 1 || s.rst.step = 11 then s
    else { s with host := { s.host with linkUp := true, recovery := false, width := width, rate := rate } })

/-- Unfinished host copy items, which a link-down ends (R357). -/
def hostCopies (s : State) : List (Nat × Nat) :=
  s.ctxs.flatMap fun e => (e.2.items.filter fun i => i.kind = 3 && decide (i.phase < 3)).map fun i => (e.1, i.seq)

/-- Ends of running migrations without their leaf, the frame's contents open (R286, R357). -/
def abandonMigrations (s : State) : State :=
  s.faults.foldl (fun s r =>
    match r.migrating with
    | none => s
    | some g =>
      let s := scrambleFrame g.frame s
      let stop := fun (x : FaultRec) => { x with migrating := none }
      complete g.mbx ST.hostLost [] { s with
        hce := s.hce.filter fun e => e.2.mig ≠ some (r.part, r.id)
        faults := modFirst (fun x => x.part = r.part && x.id = r.id) stop s.faults }) s

/-- HOST_LINK_DOWN without PERST# (R357): posted writes go, host copies and migrations end with ST_HOST_LOST. The
number of writes discarded in the link's own queues is `discarded`, and those held count too. -/
def execHostLinkDown (discarded : Nat) (s : State) : Out :=
  done s (if !s.host.linkUp then s
    else if s.shellUp && s.rst.step ≠ 10 then
      let copies := hostCopies s
      let lost := discarded + s.host.held.length
      let s := { s with host := { s.host with linkUp := false, recovery := false, held := [] } }
      let s := abandonMigrations s
      let s := { s with host := { s.host with hostLost := true } }
      let s := copies.foldl (fun s e => endItem e.1 e.2 ST.hostLost { s with hce := s.hce.filter fun p => !(p.2.ctx = e.1 && p.2.seq = e.2) }) s
      logEvent 0x0403 5 (evAt 0 copies.length + evAt 4 lost) s
    else { s with host := { s.host with linkUp := false, recovery := false } })

/-- IRQ_COALESCE_TIMER (R443): one message for what was coalesced, if still enabled. -/
def execIrqCoalesceTimer (s : State) : Out :=
  done s (if s.evt.spacing then
    let due := s.evt.coalesced && s.evt.irqEn
    let s := { s with evt := { s.evt with spacing := due, coalesced := false } }
    if due then sendVector s.evt.vector s else s
  else s)
/-- EVENT_FLASH_COPY (R444): at most 64 records are kept, the most recent. -/
def execEventFlashCopy (s : State) : Out :=
  done s (match s.evt.toFlash with
    | [] => s
    | r :: rest =>
      let l := s.flash.events ++ [r]
      { s with evt := { s.evt with toFlash := rest }, flash := { s.flash with events := l.drop (l.length - 64) } })

end Sys2Proof.Machine
end

