-- ==== Sys2Proof/Machine/Beat.lean ====
section
/-! DEFINITION. The beat (R48): its boundary and its guard, how contracts end in overrun, suspension or breach (R52, R53,
R69 to R75, R78, R419, R453), and the sleep and wake of regions (R422 to R427). -/

namespace Sys2Proof.Machine

open Sys2Proof

/-! ## How a contract ends (R53, R69, R71, R453) -/

/-- The record of a notice (Table 15-7): cause, resource index, slice, and the signaller of a notice passed on. -/
def noticeRecord (cause index slice : Nat) (sig : Nat × Nat) : List Byte :=
  leBytes 1 cause ++ leBytes 1 0 ++ leBytes 2 index ++ leBytes 4 slice ++ leBytes 4 sig.1 ++ leBytes 4 sig.2
/-- One item is demoted and its context told. -/
def demoteWith (status cause index slice : Nat) (sig : Nat × Nat) (e : Nat × Nat) (s : State) : State :=
  notice e.1 e.2 status (noticeRecord cause index slice sig) [] (demote e.1 e.2 s)
/-- FIRM waits on a signal item. -/
def waitersOf (s : State) (c seq : Nat) : List (Nat × Nat) :=
  s.ctxs.flatMap fun e => (e.2.items.filter fun i => i.waitsOn c seq).map fun i => (e.1, i.seq)
/-- An item leaves its contract; the FIRM waits on its signal leave theirs at the same moment, for the same cause, with a
notice that names it. -/
def endContract (status cause index slice c seq : Nat) (s : State) : State :=
  if (s.item c seq).any (·.contracted) then
    (waitersOf s c seq).foldl (fun s w => demoteWith status cause index 0 (c, seq) w s)
      (demoteWith status cause index slice (0, 0) (c, seq) s)
  else s
/-- A breach (R71). -/
def breach (cause index slice c seq : Nat) (s : State) : State := endContract ST.contractBreach cause index slice c seq s
/-- Contracted items of a lockstep job's partition are breached with cause 6, and the package leaves the job as JOB_STOP
does (R46, R394, log 34); a halted region is no exception (log 65). -/
def leaveLockstep (j : Job) (s : State) : State :=
  let s := (firmItems s j.part).foldl (fun s e => breach 6 0 e.2.slice e.1 e.2.seq s) s
  stopJob j.id 0xFFFF s.beat s
def lockstepJobs (s : State) : List Job := s.peer.jobs.filter fun j => j.lockstep && decide (j.state < 3)

/-! ## The check of FIRM slices at a guard start (R69, R72, R78, R453) -/

/-- Brim dies of a slice: those of its regions, and of its copy engines (R473). -/
def placedDies (s : State) (x : Placed) : List Nat :=
  let own := (List.range 16).filter x.cost.onDie
  match s.ctx x.ctx, s.item x.ctx x.seq with
  | some y, some i => if x.kind = 2 then addSorted (i.die.getD (copyDie x.ctx y i s)) own else own
  | _, _ => own
/-- The slice has not finished. -/
def sliceOpen (s : State) (x : Placed) : Bool :=
  (s.item x.ctx x.seq).any fun i => i.contracted && decide (i.slice ≤ x.slice)
/-- Regions and Brim dies of a slice. -/
def Cost.regionList (k : Cost) : List Nat := bitsOf 64 k.regions.toNat
def Cost.dieList (k : Cost) : List Nat := (List.range 16).filter k.onDie
/-- A region of the slice was halted in this beat. -/
def sliceHalted (s : State) (x : Placed) : Bool := x.cost.regionList.any fun r => s.halted r || (s.dbgOf r).haltedInBeat
/-- Retraining ns of a group in this beat, up to now. -/
def retrainNow (s : State) (g : Nat) : Nat :=
  let begun := s.time.epoch + s.time.index * s.time.beatNs
  lookD s.felt.retrainNs g 0 + ((groupModules g).map fun k =>
    let m := s.module k
    if m.state = 1 then s.time.now - Nat.max m.since begun else 0).sum
/-- A Felt link index of a group (Table 02-13), from the named die. -/
def linkIndex (g : Nat) : Nat :=
  if g < 16 then g else if g < 20 then 2 * 256 + (g - 16) else if g < 24 then 3 * 256 + (g - 20) else 256 + (g - 24)
/-- What the device did to a slice's link groups: cause and resource index. A request of the slice was held for a group where
its context's access met the group in retraining, or where the record declares a group that had no active module at some
moment of the beat (DESIGN CHOICE, log 87). -/
def linkBreach (s : State) (x : Placed) : Option (Nat × Nat) :=
  ((s.felt.heldReq.find? fun h => h.1 = x.ctx).map fun h => (1, linkIndex h.2)) <|> (x.cost.indices 2).findSome? fun i =>
    match feltGroup i with
    | none => none
    | some g =>
      if s.felt.expired.contains g then some (4, if g < 24 then g else g - 24)
      else if s.felt.heldBeat.contains g || decide (20000 < retrainNow s g)
          || decide (100 * linkRate s g < 94 * (groupBase g / rateDiv s g)) then some (1, i) else none
/-- Sector units per µs of a stack now (R59, R209, R418). -/
def stackRate (s : State) (k : Nat) : Nat :=
  let z := s.stack k
  if s.stackState k = 2 then 0
  else 72000 * (if z.hot then 50 else 100) * (if z.elevated && z.repair.isSome then 92 else 100) / 10000
/-- The breach that R72 makes of an overrun: die, link, stack or port. -/
def overrunBreach (s : State) (x : Placed) : Option (Nat × Nat) :=
  (((placedDies s x).find? fun d => s.pwr.throttledBeat.getLsbD d).map fun d => (3, d))
    <|> linkBreach s x
    <|> ((x.cost.indices 1).find? fun k => decide (100 * stackRate s k < 94 * 72000)).map (fun k => (2, k))
    <|> ((x.cost.indices 3).find? fun p => !portUp s p).map (fun p => (5, p))
/-- The slice is late peer traffic of a lockstep job: a transfer or collective that is not acknowledged, or a wait on
another package's signal (R53, R78). -/
def latePeer (i : Item) : Bool := i.kind = 5 || i.kind = 6 || (i.kind = 7 && decide (i.job ≠ 0))
/-- Port of late peer traffic: that of its first unacknowledged packet, or of its item; else any (log 11). -/
def latePort (c : Nat) (i : Item) (s : State) : Nat × State :=
  match (s.peer.paths.flatMap (·.unacked)).find? fun p => p.own = some (c, i.seq) with
  | some p => (p.hdr.port, s)
  | none => if i.kind = 6 && i.f 25 1 ≠ 0xFF then (i.f 25 1, s) else drawBelow 16 s
/-- An unfinished FIRM slice of the beat at its guard start: suspended by debug, held behind an earlier item, breached, or
overrun. Late peer traffic that R72 breaches too takes the cause of R72: neither rule orders them (DESIGN CHOICE, log 65). -/
def judgeSlice (x : Placed) (s : State) : State :=
  match s.item x.ctx x.seq with
  | none => s
  | some i =>
    if !sliceOpen s x then s
    else if sliceHalted s x then endContract ST.debugSuspended 0 0 x.slice x.ctx x.seq s
    else if i.phase = 1 && (i.job = 0 || (jobOf s i.job).any (·.state = 2)) then
      endContract ST.overrunDemoted 0x80 0 x.slice x.ctx x.seq s
    else match overrunBreach s x with
      | some (cause, index) => breach cause index x.slice x.ctx x.seq s
      | none =>
        if latePeer i then
          let (p, s) := latePort x.ctx i s
          breach 5 p x.slice x.ctx x.seq s
        else endContract ST.overrunDemoted 0 0 x.slice x.ctx x.seq s
/-- FIRM waits whose signaller was cancelled or stopped (R53). -/
def demoteOrphans (s : State) : State :=
  (s.ctxs.flatMap fun e => (e.2.items.filter fun i => i.contracted && i.orphan).map fun i => (e.1, i)).foldl (fun s w =>
    demoteWith ST.overrunDemoted 0x81 0 0 w.2.signaller (w.1, w.2.seq) s) s

/-! ## Seal and wake orders (R48, R425) -/

/-- Regions of a partition's Brim dies. -/
def Partition.regionList (q : Partition) : List Nat := regionsOf q.brimList
/-- The first beat after the current one in which a FIRM slice, or floor of a sealed accord, needs a region. -/
def nextNeed (s : State) (p r : Nat) : Option Nat :=
  let slices := (s.plan.placed.filter fun x => !x.ghost && decide (s.beat < x.beat) && x.cost.regions.getLsbD r).map (·.beat)
  let floors := [s.beat + 1, s.beat + 2].filter fun b => (floorRegions s p b).contains r
  (slices ++ floors).min?
/-- Wake orders that fall due at this seal: no later one would complete before the beat of need. -/
def wakeOrders (p : Nat) (q : Partition) (s : State) : State :=
  let seal_ := (s.beat + 1) * s.time.beatNs - s.time.guard * 1000
  q.regionList.foldl (fun s r =>
    match nextNeed s p r with
    | some b =>
      let st := s.regionState r
      if st ≠ 0 && !s.regionFailed r && !s.pwr.waking.contains r && decide (lastSeal s.time (wakeNs st) b ≤ seal_) then
        let s := wakeRegion r s
        { s with pwr := { s.pwr with ordered := addSorted r s.pwr.ordered } }
      else s
    | none => s) s
/-- The accord of beat n+2 is sealed: floors and the regions that carry them, the input on which rises are planned
(R415), wakes under way. -/
def sealAccord (s : State) : State :=
  let b := s.beat + 2
  let floors := s.parts.map fun e => (e.1, b, floorUj s e.1 b)
  let heads := s.parts.map fun e => ({
    part := e.1, beat := b, carry := floorRegions s e.1 b, head := true, issue := issueOf (capIn s b)
    lock := lockIn s e.1 } : Sealed)
  let s := { s with plan := { s.plan with
    sealedTo := Nat.max s.plan.sealedTo b, floor := floors ++ s.plan.floor, sealed_ := heads ++ s.plan.sealed_
    sealVolts := (b, s.pwr.volts) :: s.plan.sealVolts } }
  let s := s.parts.foldl (fun s e => wakeOrders e.1 e.2 s) s
  let woken := s.pwr.waking ++ s.pwr.ordered
  { s with plan := { s.plan with sealed_ := s.plan.sealed_.map fun x => if x.beat = b then { x with woken } else x } }
/-- Cores whose holder's matrix state yields to a FIRM slice of the next beat (R117). -/
def spillCores (s : State) : State :=
  (s.cores.map (·.1)).foldl (fun s c =>
    match (s.core c).mx.holder with
    | some h =>
      if (firmOn s c (s.beat + 1)).any fun p => p.cost.array ≠ 0 && !(p.ctx = h.1 && p.seq = h.2.1) then mxSpill c (mxInterrupt c s) else s
    | none => s) s
/-- The guard of a beat begins (R48). -/
def guardStart (s : State) : State :=
  let at_ := s.time.nextBoundary - s.time.guard * 1000
  let s := { s with time := { s.time with now := Nat.max s.time.now at_, inGuard := true } }
  let due := s.plan.placed.filter fun x => x.beat = s.beat && !x.ghost
  let s := demoteOrphans (spillCores (sealAccord s))
  finishDestroys (due.foldl (fun s x => judgeSlice x s) s)
/-- GUARD_START. -/
def execGuardStart (s : State) : Out := done s (if s.alive && !s.time.inGuard then guardStart s else s)

/-! ## Records of the beat that ends (R38, R68, R104, R301) -/

/-- A group's sample (R104). -/
def Group.sample (g : Group) : Sample := { depth := g.stack.length, top := g.stack.head?, active := g.active }
/-- The watchdog of a resident group that issued in the beat. -/
def Group.watch (g : Group) : Group :=
  let v := g.sample
  let waits := v.top.any fun t => t.outer &&& ~~~g.active ≠ 0
  { g with wdSample := some v, wdCount := if g.wdSample = some v && waits then g.wdCount + 1 else 0, issued := false }
/-- Watchdog samples: a beat that ends in a debug halt does not count. -/
def watchGroups (s : State) : State :=
  { s with cores := s.cores.map fun e => (e.1, { e.2 with groups := e.2.groups.map fun g =>
      (g.1, if g.2.issued && !s.halted (regionOfCore e.1) then g.2.watch else { g.2 with issued := false }) }) }

/-- Dies of a Felt link index, by die-level number. -/
def linkDies (i : Nat) : List Nat :=
  match feltGroup i with
  | some g => if g < 24 then [g] else [g - 24, (g - 23) % 16]
  | none => []
def uniqSorted (l : List Nat) : List Nat := l.foldl (fun t i => addSorted i t) []
/-- Instances of Table 01-7 that a cost names. -/
def costInstances (k : Cost) : List (Nat × Nat) :=
  let cs := k.coreList
  cs.map (0, ·) ++ (uniqSorted (cs.map (· / 4))).map (1, ·) ++ k.regionList.map (2, ·)
    ++ (uniqSorted (k.dieList ++ (k.indices 2).flatMap linkDies)).map (3, ·)
    ++ (if k.crown = 0 then [] else [(4, 0)]) ++ (k.indices 3).map (5, ·)
/-- The cost of an item's next slice: as its record gives it, or what its copy would be charged. -/
def Item.costNow (s : State) (c : Nat) (x : Ctx) (i : Item) : Cost :=
  if i.kind = 2 then copyCost c x i s else (i.costs[i.slice]?).getD {}
/-- Instances of Table 01-7 that an item's next slice uses (R40): a host copy crosses the Crown and the die of its device
lines, a peer item its ports and their dies. -/
def sliceInstances (s : State) (c : Nat) (x : Ctx) (i : Item) : List (Nat × Nat) :=
  let ports := if i.kind = 5 || (i.kind = 6 && i.f 25 1 = 0xFF) then List.range 16 else if i.kind = 6 then [i.f 25 1] else []
  costInstances (i.costNow s c x)
    ++ (if i.kind = 3 then
        (4, 0) :: match devAt c x (i.f 40 8 + i.next * 65536) (if i.f 24 1 = 0 then { wr := true } else { rd := true }) s with
          | some a => [(3, homeDie s a)]
          | none => []
      else [])
    ++ (if ports.isEmpty then [] else (uniqSorted (ports.map fun p => 20 + p / 4)).map (3, ·) ++ [(4, 0)] ++ ports.map (5, ·))
/-- An instance whose capacity FIRM work of the beat took (Table 02-16): a core that a FIRM slice holds, or a die's links, the
Crown or a port, where what FIRM slices declare leaves less than the item needs. No record declares a cluster's or a region's
traffic, so levels 1 and 2 are never named (DESIGN CHOICE, log 87). -/
def firmHeld (s : State) (k : Cost) : Option (Nat × Nat) :=
  let l := s.plan.placed.filter fun x => x.beat = s.beat && !x.ghost
  let t := s.time.period
  ((k.coreList.find? fun u => !(firmOn s u s.beat).isEmpty).map (0, ·))
    <|> ((k.indices 2).find? fun i =>
        let u := (l.map (·.cost.uses 2 i)).sum
        u ≠ 0 && decide (linkRate s ((feltGroup i).getD 0) * t < u + k.uses 2 i)).map (fun i => (3, (linkDies i).headD 0))
    <|> (let u := (l.map (·.cost.crown)).sum
        if u ≠ 0 && decide (78125 * t < u + k.crown) then some (4, 0) else none)
    <|> ((k.indices 3).find? fun i =>
        let u := (l.map (·.cost.uses 3 i)).sum
        u ≠ 0 && decide (145 * t / 100 < u + k.uses 3 i)).map (5, ·)
/-- A SOFT item that runs uses an instance that the item uses too (Table 02-16). -/
def softAhead (s : State) (inst : List (Nat × Nat)) : Bool :=
  s.ctxs.any fun e => e.2.items.any fun j => j.cls = 1 && j.phase = 2 && (sliceInstances s e.1 e.2 j).any inst.contains
/-- A stalled engine of an item that runs. -/
def itemStalled (s : State) (c : Nat) (i : Item) : Bool :=
  i.phase = 2 && s.faults.any fun r => r.stalled.any fun z => Stall.ofCtx s (leadOf s c i.seq) z
/-- The first cause of Table 02-16 that holds at the end of the beat, or held all through it, with level and instance: `sat` gives the saturated
instances. -/
def delayCause (s : State) (c : Nat) (x : Ctx) (i : Item) (sat : List (Nat × Nat)) : Nat × Nat × Nat :=
  let k := i.costNow s c x
  let inst := sliceInstances s c x i
  let front := (x.items.find? (·.phase < 3)).any (·.seq = i.seq)
  let hot := inst.find? fun e => sat.any fun z => z.1 = e.1 * 1024 + e.2 && z.2 ≠ 0
  let port := inst.find? fun e => e.1 = 5 && s.peer.down.contains e.2
  match k.regionList.find? fun r => s.halted r || (s.dbgOf r).haltedInBeat with
  | some r => (1, 2, r)
  | none =>
    if itemStalled s c i then (2, 0xF, 0)
    else if !front || i.kind = 7 || (batchable s x i && !i.running) || (i.job ≠ 0 && !(jobOf s i.job).any (·.state = 2)) then (3, 0xF, 0)
    else match k.regionList.find? fun r => s.regionState r ≠ 0 with
      | some r => (4, 2, r)
      | none =>
        match firmHeld s k with
        | some e => (5, e.1, e.2)
        | none =>
          match hot <|> port with
          | some e => (6, e.1, e.2)
          | none =>
            if i.cls = 2 && softAhead s inst then (7, 0xF, 0)
            else if s.pwr.governing || k.dieList.any fun d => lookD s.pwr.issue d 32 ≠ 32 then (8, 0xF, 0) else (0, 0xF, 0)
/-- Unfinished items of the same partition and class that go first. -/
def queuePosition (s : State) (x : Ctx) (i : Item) : Nat :=
  (s.ctxs.map fun e => if e.2.part = x.part then
    (e.2.items.filter fun j => decide (1 ≤ j.phase) && decide (j.phase < 3) && j.cls = i.cls && moreUrgent j i).length else 0).sum
/-- The first of the causes that held in the beat: what holds at its end, or what lapsed in it. -/
def firstCause (now : Nat × Nat × Nat) (l : List (Nat × Nat × Nat)) : Nat × Nat × Nat :=
  l.foldl (fun a b => if a.1 = 0 || b.1 < a.1 then b else a) now
/-- Delay records (R68): ages count the boundaries turned since the entry was taken. -/
def updateDelays (sat : List (Nat × Nat)) (s : State) : State :=
  { s with ctxs := s.ctxs.map fun e => (e.1, { e.2 with items := e.2.items.map fun i =>
      if i.phase = 3 then i
      else if i.cls = 0 then { i with beats := i.beats + 1 }
      else
        let d := firstCause (delayCause s e.1 e.2 i sat) i.lapsed
        { i with
          lapsed := []
          beats := i.beats + 1
          delay := { age := i.beats + 1, queue := queuePosition s e.2 i, cause := d.1, level := d.2.1, inst := d.2.2 } } }) }
/-- Saturation counters (R38): the µs of the ending beat in which a request waited, 0 where none did. -/
def updateSat (sat : List (Nat × Nat)) (s : State) : State :=
  let old := s.sat.filterMap fun e => if e.2.2 = 0 then none else some (e.1, (0, e.2.2))
  { s with sat := sat.foldl (fun t e =>
      let us := Nat.min e.2 s.time.period
      putD t e.1 (us, ((lookD t e.1 (0, 0)).2 + us) % 2 ^ 39) (0, 0)) old }
/-- Summary records of the mismatches beyond 64 at a point (R301). -/
def mismSummaries (s : State) : State :=
  let s' := s.mism.foldl (fun s e =>
    if 64 < e.2.1 then
      let (addr, prev, kind) := e.2.2
      logEvent 0x030D 2 (evAt 0 e.1 + evAt 2 prev + evAt 4 kind + evAt 5 3 + evAt 6 (Nat.min (e.2.1 - 64) 65535) + evAt 8 addr
        + evAt 16 noCtx) s
    else s) s
  { s' with mism := [] }

/-! ## The turn of the beat: time, settings, capacities -/

/-- The next beat begins: the counter reaches it, with holdover's accuracy (R394) and what slewing has corrected (R393). -/
def turnTime (t : TimeSt) : TimeSt :=
  let now := t.nextBoundary
  let step : Int := t.period
  { t with
    now := now, inGuard := false
    slew := if 0 ≤ t.slew then t.slew - min t.slew step else t.slew + min (-t.slew) step
    accuracy := match t.holdover with
      | some (from_, acc) => Nat.min 0xFFFFF (acc + 5 * ((now - from_) / 1000000))
      | none => t.accuracy }
/-- Corrected-error counters cleared; the count of a disabled bank-way stays, for it is out until the next full reset (R237). -/
def L2.clearCe (z : L2) : L2 := { z with ce := z.ce.filter fun e => decide (16 < e.2) }
/-- The first boundary of a new grid (R45): no accord stands, the first two carry no slice. -/
def newGrid (s : State) : State :=
  let t := s.time
  let (epoch, period) := match t.newGrid with
    | some g => g
    | none => (t.epoch, t.period)
  let t := { t with epoch, period, planGuard := planGuardOf period, newGrid := none, stepped := false }
  { s with
    time := { t with gridStart := t.index }
    plan := { s.plan with
      placed := [], floor := [], sealed_ := [], sealVolts := [], sealedTo := t.index + 1, caps := [(0, s.pwr.cap)] }
    l2 := s.l2.map fun e => (e.1, e.2.clearCe) }
def turnGrid (s : State) : State := if s.time.newGrid.isSome || s.time.stepped then newGrid s else s
/-- The effective guard, and time_fault (R46); a package beyond the lockstep limit leaves its lockstep jobs. -/
def turnGuard (s : State) : State :=
  let t := s.time
  let g := guardOf t.period t.source t.accuracy
  let ovr := decide (t.period < 4 * g)
  let s := { s with time := { t with guard := g, timeFault := t.timeFault || ovr } }
  let s := if ovr && !t.timeFault then logEvent 0x0502 3 (evAt 0 t.accuracy) s else s
  if ovr then (lockstepJobs s).foldl (fun s j => leaveLockstep j s) s else s
/-- Settings of a partition that wait for a boundary (R363), and its first wake budget (R424). -/
def Partition.turn (q : Partition) : Partition :=
  let w := q.nextWake.getD q.wakeUs
  { q with
    observe := q.nextObserve.getD q.observe, route := q.nextRoute.getD q.route, window := q.nextWindow.getD q.window
    wakeUs := w, sleepUs := some w
    nextObserve := none, nextRoute := none, nextWindow := none, nextWake := none }
/-- Dies in emergency throttle (Table 17-5). -/
def emergencyDies (s : State) : BitVec 16 :=
  s.pwr.emergencies.foldl (fun m e =>
    m ||| (if e.1 = 2 then (if e.2.2 < 16 then BitVec.ofNat 16 (2 ^ e.2.2) else 0) else 0xFFFF)) 0
/-- A processor or port die is in emergency. -/
def dieEmergency (s : State) (d : Nat) : Bool :=
  s.pwr.emergencies.any fun e => e.1 ≠ 2 || (e.2.1 = 0 && e.2.2 = d)
/-- Power of the new beat (R408, R411, R418): measures, throttled dies, issue rates, POWER_LIMIT. -/
def turnPower (powerW volts amps : Nat) (s : State) : State :=
  let th := emergencyDies s
  let issue := (List.range 16).filterMap fun d =>
    let q := if th.getLsbD d then 8 else if (s.partOfBrim d).isSome then issueIn s ((s.partOfBrim d).getD 0) s.beat else 32
    if q = 32 then none else some (d, q)
  let s := { s with pwr := { s.pwr with
    powerW, volts, amps, lowLine := decide (volts < 4800), issue, throttled := th, throttledBeat := th
    governed := s.pwr.governing, governing := false, heldSoft := false } }
  ((List.range 8).map (16 + ·)).foldl (fun s d =>
    if s.dieHere d then
      s.setDie d fun x => { x with limitW := dieShare s.pwr.cap d, limitEmergency := dieEmergency s d }
    else s) s
/-- Capacities in force from this boundary: links, stacks and ports (R73, R209, R315, R402), rate tables (R456). -/
def turnTables (s : State) : State :=
  { s with plan := { s.plan with
    links := linkTable s
    stks := (List.range 16).filterMap fun k => if stackRate s k = 72000 then none else some (k, stackRate s k)
    portsDown := (List.range 16).filter fun p => !portUp s p
    cached := (List.range 16).filter fun k => (s.l2Of k).enabled } }
/-- Plans and caps that no accord can be read for any more. -/
def prunePlan (s : State) : State :=
  let n := s.beat
  let recent := fun (b : Nat) => decide (n ≤ b + 17)
  let k := ((s.plan.caps.findIdx? fun e => decide (e.1 + 17 ≤ n)).map (· + 1)).getD s.plan.caps.length
  { s with plan := { s.plan with
    placed := s.plan.placed.filter fun x => recent x.beat
    floor := s.plan.floor.filter fun x => recent x.2.1
    sealed_ := s.plan.sealed_.filter fun x => recent x.beat
    sealVolts := s.plan.sealVolts.filter fun x => recent x.1
    caps := s.plan.caps.take k } }

/-! ## Re-checks (R73, R419, R415) -/

/-- A slice that lost its room: its item by order of acceptance, with cause and resource index. -/
structure Misfit where
  x : Placed
  cause : Nat
  index : Nat
  deriving DecidableEq, Repr
/-- Slices in order of acceptance. -/
def insertOrder (x : Placed) : List Placed → List Placed
  | [] => [x]
  | y :: t => if x.order < y.order then x :: y :: t else y :: insertOrder x t
/-- Slices that do not fit under `room`, each given its room in turn. -/
def misfits (room : Nat) (use : Placed → Nat) (cause index : Nat) : Nat → List Placed → List Misfit
  | _, [] => []
  | used, x :: t =>
    if use x = 0 || used + use x ≤ room then misfits room use cause index (used + use x) t
    else { x, cause, index } :: misfits room use cause index used t
/-- Misfits of one beat over every resource that its slices name. -/
def beatMisfits (s : State) (b : Nat) : List Misfit :=
  let l := (s.plan.placed.filter fun x => x.beat = b && !x.ghost).foldl (fun l x => insertOrder x l) []
  let idx := fun (kind : Nat) => (l.flatMap fun x => x.cost.indices kind).foldl (fun t i => addSorted i t) []
  (idx 2).flatMap (fun i => misfits (feltLeft s ((feltGroup i).getD 0)) (·.cost.uses 2 i) 1 i 0 l)
    ++ (idx 1).flatMap (fun i => misfits (stackLeft s i) (·.cost.uses 1 i) 2 i 0 l)
    ++ ((idx 3).filter s.plan.portsDown.contains).flatMap (fun i => misfits 0 (·.cost.uses 3 i) 5 i 0 l)
/-- An item whose open slices find no room where they stand moves to other beats that keep its promise, or is breached. -/
def moveItem (m : Misfit) (s : State) : State :=
  let x := m.x
  let mine := fun (y : Placed) => y.ctx = x.ctx && y.seq = x.seq && !y.ghost
  let all := s.plan.placed.filter mine
  let open_ := all.filter fun y => decide (s.plan.sealedTo < y.beat)
  let promise := all.foldl (fun n y => Nat.max n y.beat) 0
  match s.part x.part, s.item x.ctx x.seq with
  | some q, some i =>
    if !i.contracted then s
    else if x.beat ≤ s.plan.sealedTo then breach m.cause m.index x.slice x.ctx x.seq s
    else
      let rest := s.plan.placed.filter fun y => !(mine y && decide (s.plan.sealedTo < y.beat))
      let before := rest.filter fun y => y.ctx = x.ctx && !y.ghost && decide (y.order ≤ x.order)
      let from_ := before.foldl (fun n y => Nat.max n (y.beat + 1)) (Nat.max s.firstOpen (i.f 16 8))
      let bare := { s with plan := { s.plan with placed := rest } }
      match placeAll bare q promise open_ from_ [] none with
      | (some l, _, _, _) => { s with plan := { s.plan with placed := rest ++ l } }
      | (none, _, _, _) => breach m.cause m.index x.slice x.ctx x.seq s
  | _, _ => s
/-- Misfits by order of acceptance, one for each item: its first. -/
def insertMisfit (m : Misfit) : List Misfit → List Misfit
  | [] => [m]
  | y :: t =>
    if m.x.order < y.x.order || (m.x.order = y.x.order && decide (m.x.beat < y.x.beat)) then m :: y :: t else y :: insertMisfit m t
def firstOfItems : List Misfit → List Misfit
  | [] => []
  | m :: t => m :: (firstOfItems t).filter fun y => y.x.order ≠ m.x.order
/-- The re-check of every accepted item against what is left (R73). It breaches an item whose region is halted too: R75
suspends such an item at its guard start, and no rule exempts it from a re-check before that (DESIGN CHOICE, log 65). -/
def recheckPlan (s : State) : State :=
  let last := s.plan.placed.foldl (fun n x => Nat.max n x.beat) s.beat
  let ms := (List.range (last + 1 - s.beat)).flatMap fun k => beatMisfits s (s.beat + k)
  (firstOfItems (ms.foldl (fun l m => insertMisfit m l) [])).foldl (fun s m => moveItem m s) s
/-- Failed regions leave the capacity tables at a boundary, and items with a slice on one are breached (R427). -/
def recheckFailed (s : State) : State :=
  let s := { s with plan := { s.plan with failed := s.pwr.failed } }
  let l := (s.plan.placed.filter fun x => decide (s.beat ≤ x.beat) && !x.ghost).foldl (fun l x => insertOrder x l) []
  l.foldl (fun s x =>
    match x.cost.regionList.find? s.regionFailed with
    | some r => breach 7 r x.slice x.ctx x.seq s
    | none => s) s
/-- Slices of throttled dies in the beat that begins and in the published accords, re-checked at q = 8 (R419); a halted
region is no exception (log 65). -/
def recheckThrottled (s : State) : State :=
  (s.plan.placed.filter fun x => decide (s.beat ≤ x.beat) && decide (x.beat ≤ s.plan.sealedTo) && !x.ghost).foldl (fun s x =>
    match (placedDies s x).find? fun d => s.pwr.throttled.getLsbD d with
    | some d => if clockFor s x.part * s.time.window * 8 / 32 < x.cost.array then breach 3 d x.slice x.ctx x.seq s else s
    | none => s) s
/-- Slices of the beat that begins whose region is not active (R425). -/
def recheckAwake (s : State) : State :=
  (s.plan.placed.filter fun x => x.beat = s.beat && !x.ghost).foldl (fun s x =>
    match x.cost.regionList.find? fun r => s.regionState r ≠ 0 with
    | some r => breach 7 r x.slice x.ctx x.seq s
    | none => s) s
/-- Power that a rise reached before its beat began: planned at the seal's mean input, it ran at the input that came; in W,
from 10 mV and µs (R415). -/
def riseReached (rise share period guard planned volts : Nat) : Nat :=
  let most := (period + guard) * 1000
  let plan := Nat.min planned 4800
  let ns := if plan * share = 0 then most else Nat.min most (ceilDiv (rise * 102400000) (plan * share))
  volts * share * ns / 102400000
/-- A rise of a partition's planned power that low input cut short: its dies are throttled in the beat, as an emergency. -/
def lowLine (p : Nat) (q : Partition) (before : Nat) (s : State) : State :=
  let rise := plannedPower s p s.beat - before
  let planned := ((s.plan.sealVolts.find? (·.1 = s.beat)).map (·.2)).getD 4800
  if rise ≠ 0 && decide (s.pwr.volts < 4800)
      && decide (riseReached rise q.shareEnergy s.time.period s.time.guard planned s.pwr.volts < rise) then
    let s := { s with pwr := { s.pwr with throttledBeat := s.pwr.throttledBeat ||| q.brims, lowlineSeen := true } }
    logEvent 0x0602 3 (evAt 0 s.pwr.volts + evAt 2 p) s
  else s

/-! ## Slots, sleep, start -/

/-- Slots of groups whose item or context has stopped are free from this boundary (R103, R368), once the engine
instructions that they queued have ended. -/
def freeDead (s : State) : State :=
  let dead := fun (c : Nat) (e : Nat × Group) => !s.groupLive e.2 && !(s.core c).queued e.1
  let gone := s.cores.flatMap fun e => (e.2.groups.filter (dead e.1)).map fun g => (g.2.ctx, g.2.seq, g.2.slice)
  let s := { s with cores := s.cores.map fun e => (e.1, { e.2 with groups := e.2.groups.filter fun g => !dead e.1 g }) }
  finishDestroys (gone.foldl (fun s h => if sliceGroups s h.1 h.2.1 h.2.2 then s else releaseMx h.1 h.2.1 h.2.2 s) s)
/-- A group is resident on a region. -/
def regionBusy (s : State) (r : Nat) : Bool := s.cores.any fun e => e.1 / 16 = r && !e.2.groups.isEmpty
/-- Sleep state of a wake budget (R423). -/
def sleepState (us : Nat) : Nat := if us = 0 then 0 else if us < 15 then 1 else if us < 350 then 2 else 3
/-- A FIRM item keeps a region from a sleep state (R63): scratchpads between its slices, and the wake before the next. -/
def keptAwake (s : State) (r st : Nat) : Bool :=
  let later := s.plan.placed.filter fun x => !x.ghost && decide (s.beat ≤ x.beat) && x.cost.regions.getLsbD r
  let seal_ := (s.beat + 1) * s.time.beatNs - s.time.guard * 1000
  later.any fun x => decide (lastSeal s.time (wakeNs st) x.beat < seal_)
    || (st = 3 && (s.item x.ctx x.seq).any fun i => decide (0 < i.slice))
/-- A region goes to a sleep state: hold and off lose the L1s, off the scratchpads too (Table 17-7). -/
def sleepTo (r st : Nat) (s : State) : State :=
  if st = 3 then regionOff r s
  else
    let s := if st = 2 then (List.range 16).foldl (fun s k => l1Invalidate (16 * r + k) s) s else s
    s.setRegion r st
/-- A region at a boundary (R424): an idle one enters its partition's sleep state; one asleep below a new budget's state
leaves it. -/
def turnRegion (p st : Nat) (r : Nat) (s : State) : State :=
  let now := s.regionState r
  if s.regionFailed r || s.pwr.waking.contains r || s.pwr.ordered.contains r then s
  else if st < now then
    if now = 3 || st = 0 then
      { s with pwr := { s.pwr with waking := addSorted r s.pwr.waking, leaving := put s.pwr.leaving r st
                                   wakeEnd := put s.pwr.wakeEnd r (s.time.now + wakeNs now) } }
    else s.setRegion r st
  else if now < st && !regionBusy s r && !s.pwr.used.getLsbD r && !s.halted r
      && !(regionsActive s p s.beat).testBit r && !(regionsActive s p (s.beat + 1)).testBit r && !keptAwake s r st then
    sleepTo r st s
  else s
/-- A wake order is over when a FIRM slice on its region begins, or none is to come. -/
def endOrders (s : State) : State :=
  let uses := fun (r : Nat) (x : Placed) => !x.ghost && x.cost.regions.getLsbD r
  let due := fun (r : Nat) => s.plan.placed.any fun x => uses r x && x.beat = s.beat
  let later := fun (r : Nat) => s.plan.placed.any fun x => uses r x && decide (s.beat < x.beat)
  let keep := s.pwr.ordered.filter fun r => later r && !due r
  { s with pwr := { s.pwr with ordered := keep } }
def turnRegions (s : State) : State :=
  let s := endOrders s
  let s := s.parts.foldl (fun s e => e.2.regionList.foldl (fun s r => turnRegion e.1 (sleepState (e.2.sleepUs.getD 0)) r s) s) s
  { s with pwr := { s.pwr with used := BitVec.ofNat 64 (ofBits ((List.range 64).filter (regionBusy s))) } }
/-- Marks that hold for one beat start afresh, and the count of what items sent in it (R55). -/
def turnMarks (s : State) : State :=
  let mark := fun (x : DbgRegion) => { x with haltedInBeat := decide (x.cause ≠ 0) }
  { s with
    ctxs := s.ctxs.map fun e => (e.1, { e.2 with items := e.2.items.map fun i => { i with sent := [] } })
    dbg := (s.dbg.map fun e => (e.1, mark e.2)).filter fun e => decide (e.2 ≠ {})
    felt := { s.felt with retrainNs := [], heldReq := [], heldBeat := (List.range 40).filter fun g => groupServes s g ≠ 0 } }

/-- The front item of a context is FIRM and due in the beat that begins (R48, R51, R52). -/
def startFirm (c : Nat) (s : State) : State :=
  match frontItem s c with
  | none => s
  | some (x, i) =>
    if !s.noseUp || !i.contracted || !sliceDue s c i then s
    else
      let jobRuns := i.job = 0 || (jobOf s i.job).any fun j => j.state = 2 || (j.state = 1 && decide (j.start ≤ s.beat))
      if i.phase = 1 then
        if jobRuns then
          let s := runWith [] (beginWork c x i) (markBegun c x i s)
          if i.kind = 1 || i.kind = 4 then runWith [] (sliceLaunch c) s else s
        else s
      else runWith [] (sliceLaunch c) s
/-- Jobs at a boundary: those told to stop do (R401), those that run send heartbeats (R400). -/
def turnJob (id : Nat) (s : State) : State :=
  match jobOf s id with
  | none => s
  | some j =>
    match j.stopping with
    | some (missing, beat) => if j.state < 3 && !(j.state = 0 && decide (j.start ≤ s.beat)) then stopJob id missing beat s else s
    | none => if j.state = 2 then sendHeartbeats j s else s
/-- Copies that the I3C target gives (R469). -/
def turnCopies (s : State) : State :=
  { s with i3c := {
      id := BitVec.ofNat 64 (crnId s), pwrInput := BitVec.ofNat 64 (pwrInput s), pwrStatus := BitVec.ofNat 64 (pwrStatus s)
      therm := (List.range 4).map fun n => BitVec.ofNat 64 (crnTherm s n) } }

/-! ## BEAT_BOUNDARY (R48) -/

/-- What the ending beat leaves, and the turn of time, settings, power and capacities. -/
def turnBeat (sat : List (Nat × Nat)) (powerW volts amps : Nat) (s : State) : State :=
  let s := updateSat sat (updateDelays sat (watchGroups s))
  let s := mismSummaries (turnGrid { s with time := turnTime s.time })
  let s := turnGuard s
  let s := { s with parts := s.parts.map fun e => (e.1, e.2.turn) }
  prunePlan (turnTables (turnPower powerW volts amps s))
/-- Corrected-error counters clear on a multiple of 2²⁰ (R237). -/
def clearCe (s : State) : State :=
  if s.beat % 2 ^ 20 = 0 then { s with l2 := s.l2.map fun e => (e.1, e.2.clearCe) } else s
/-- Least and greatest temperature of a stack in its state (R209, Table 17-6). -/
def Stack.tempRange (z : Stack) : Nat × Nat :=
  (if z.hot then 90 else if z.elevated then 80 else 0, if z.hot then 104 else if z.elevated then 94 else 84)
/-- STK_STATUS.temp_c, updated every beat (Table 08-4): a free value in the range of the stack's state (log 91). -/
def turnTemp (k : Nat) (s : State) : State :=
  if s.stackState k = 2 then s
  else
    let (t, s) := drawBelow 256 s
    s.setStack k fun z => { z with temp := Nat.min (Nat.max t z.tempRange.1) z.tempRange.2 }
/-- The boundary: a guard that no command began begins first. -/
def beatBoundary (sat : List (Nat × Nat)) (powerW volts amps : Nat) (s : State) : State :=
  let s := if s.time.inGuard || s.time.stepped then s else guardStart s
  let before := s.parts.map fun e => (e.1, plannedPower s e.1 s.beat)
  let s := clearCe (turnBeat sat powerW volts amps s)
  let s := recheckAwake (recheckThrottled (recheckPlan (recheckFailed s)))
  let s := s.parts.foldl (fun s e => lowLine e.1 e.2 (lookD before e.1 0) s) s
  let s := turnMarks (turnRegions (freeDead s))
  let s := (List.range 16).foldl (fun s k => turnTemp k s) s
  let s := (s.peer.jobs.map (·.id)).foldl (fun s id => turnJob id s) s
  turnCopies ((s.ctxs.map (·.1)).foldl (fun s c => startFirm c s) s)
/-- BEAT_BOUNDARY: mean input power, voltage and current of the ending beat, and the counters that waited in it. -/
def execBeatBoundary (sat : List (Nat × Nat)) (powerW volts amps : Nat) (s : State) : Out :=
  done s (if s.alive then beatBoundary sat powerW volts amps s else s)

/-! ## Loss of lock, wakes -/

/-- HOLDOVER_LIMIT (R394): `locked` has been 0 for 1,000 ms. -/
def holdoverLimit (s : State) : State :=
  match s.time.unlockedAt with
  | some t =>
    if !s.time.locked && decide (t + 1000000000 ≤ s.time.now) then (lockstepJobs s).foldl (fun s j => leaveLockstep j s) s else s
  | none => s
def execHoldoverLimit (s : State) : Out := done s (if s.alive then holdoverLimit s else s)
/-- REGION_WAKE_DONE (R25, R425): a region that leaves off for a shallower state enters that state. -/
def regionAwake (r : Nat) (s : State) : State :=
  let st := lookD s.pwr.leaving r 0
  let s := markLapsed (fun _ _ i =>
    if ((i.costs[i.slice]?).getD {}).regions.getLsbD r then some (4, 2, r) else none) s
  { s.setRegion r st with pwr := { (s.setRegion r st).pwr with
    waking := s.pwr.waking.filter (· ≠ r), leaving := del s.pwr.leaving r, wakeEnd := del s.pwr.wakeEnd r } }
def execRegionWakeDone (r : Nat) (s : State) : Out :=
  done s (if s.alive && s.pwr.waking.contains r then regionAwake r s else s)
/-- REGION_WAKE_FAIL (R427): the region is off for good; FIRM items with a slice on it are breached at the next boundary. -/
def regionFails (r : Nat) (s : State) : State :=
  let s := regionOff r { s with pwr := { s.pwr with
    failed := s.pwr.failed ||| BitVec.ofNat 64 (2 ^ r), waking := s.pwr.waking.filter (· ≠ r)
    ordered := s.pwr.ordered.filter (· ≠ r), leaving := del s.pwr.leaving r, wakeEnd := del s.pwr.wakeEnd r } }
  logEvent 0x0605 3 (evAt 0 r) s
def execRegionWakeFail (r : Nat) (s : State) : Out :=
  done s (if s.alive && s.pwr.waking.contains r then regionFails r s else s)

end Sys2Proof.Machine
end

