-- ==== Sys2Proof/Machine/Debug.lean ====
section
/-! DEFINITION. The debug step (R110): one instruction of a halted group, whatever its row. -/

namespace Sys2Proof.Machine

open Sys2Proof

/-- What the instruction of a row does. -/
def rowBody (c slot w : Nat) (r : Row) (g : Group) (s : State) : LaneOut :=
  match r with
  | .alu => doAlu w g s
  | .branch => doBranch w g s
  | .load => doLoad c slot w g s
  | .store => doStore c slot w g s
  | .amo => doAmo c slot w g s
  | .csr => doCsr c w g s
  | .mskPush => doMskPush w g s
  | .mskElse => doMskElse w g s
  | .mskLoop => doMskLoop w g s
  | .mskBrk => doMskBrk w g s
  | .mskPop => doMskPop w g s
  | .mskBal => .next (g.setAll (wRd w) ((g.ballot (wRs1 w)).setWidth 64)).next s
  | .mskAny => .next (g.setAll (wRd w) (if g.ballot (wRs1 w) ≠ 0 then 1 else 0)).next s
  | .mskAll => .next (g.setAll (wRd w) (if g.ballot (wRs1 w) = g.active then 1 else 0)).next s
  | .barCl => doBarrier false c slot w g s
  | .barDie => doBarrier true c slot w g s
  | .dbgBrk => doDbgBrk c g s
  | .xwGaddr => doXwGaddr w g s
  | .grpEnd => doGrpEnd c slot w g s
  | .flgRel => doFlgRel c slot w g s
  | .flgAcqEq => tryFlag c slot (g.ux (wRs1 w)).toNat (g.ux (wRs2 w)) false (wRd w) (wF7 w) g s
  | .flgAcqGe => tryFlag c slot (g.ux (wRs1 w)).toNat (g.ux (wRs2 w)) true (wRd w) (wF7 w) g s
  | .semRel => doSemRel c slot w g s
  | .semAcq => trySem c slot (g.ux (wRs1 w)).toNat (g.ux (wRs2 w)) (wRd w) (wF7 w) g s
  | .fenceX => doFence c slot w g s
  | .mxTrk => enqueue false true c slot w g s
  | .atSub => doAtSub c slot w g s
  | .vx _ => enqueue true false c slot w g s
  | .vxTrk => enqueue true true c slot w g s
  | .vxUpd => enqueue true false c slot w g s
  | .mxCfg => enqueue false false c slot w g s
  | .mxLdt => enqueue false false c slot w g s
  | .mxMma => enqueue false false c slot w g s
  | .mxDrn => enqueue false false c slot w g s
  | .mxLda => enqueue false false c slot w g s

/-- A step of the selected group of a halted region: its word, or the flag that it waits for read once more. -/
def stepGroup (r : Nat) (w : W32) (s : State) : State :=
  let z := s.dbgOf r
  let c := r * 16 + z.stepCore
  match s.group c z.stepGroup with
  | none => s
  | some g =>
    if z.cause = 0 || z.stepping then s
    else
      let s := s.setDbg r fun z => { z with stepping := true }
      let s := s.setCore c fun k => { k with
        mxq := k.mxq.map fun o => { o with stepped := false }, vxq := k.vxq.map fun o => { o with stepped := false } }
      if g.wait = .none then issue c z.stepGroup (fun _ => true) w (rowBody c z.stepGroup w.toNat) s
      else reread c z.stepGroup s

/-- DBG_RCTL_STEP (R110): a write of BRM_DBG_RCTL with its step bit. -/
def execDbgRctlStep (die r : Nat) (v : W64) (w : W32) (s : State) : Out :=
  done s (barAccess (fun s =>
    if !s.shellUp || !debugOn s die then s
    else
      let s := rctlWrite die r v.toNat s
      runWith [] (stepGroup (4 * die + r) w) s) s)

/-- REGISTER_WRITE (R8, R9): an access of another size or alignment has no effect (R8, R346). The step bit of
BRM_DBG_RCTL executes the word (Table 03-12, log 13). -/
def execRegisterWrite (bar off size : Nat) (v : RegWord) (s : State) : Out :=
  done s (barAccess (fun s =>
    if !((size = 8 && off % 8 = 0) || (size = 4 && off % 4 = 0)) then s.answer .ur
    else
      let h : Half := if size = 8 then .whole else if off % 8 = 0 then .low else .high
      let o := off / 8 * 8
      if bar = 0 then
        let die := (o - 0x1000000) / 0x100000
        let k := o % 0x100000
        let s := bar0Write o h v.v s
        if 0x1000000 ≤ o && o < 0x2000000 && 0x100 ≤ k && k < 0x140 && k % 16 = 0 && (halfValue h v.v).testBit 2
            && s.shellUp && debugOn s die then
          runWith [] (stepGroup (4 * die + (k - 0x100) / 16) v.w) s
        else s
      else if bar = 2 then bar2Write o h v.v s else s) s)

/-- A step that still waits is withdrawn (R110): an arrival is undone, the group's pc still names the instruction, and it
was not issued. An engine instruction in its queue waits no more. -/
def withdrawStep (r : Nat) (s : State) : State :=
  let z := s.dbgOf r
  let c := r * 16 + z.stepCore
  if !z.stepping then s
  else
    match s.group c z.stepGroup with
    | none => s.setDbg r fun z => { z with stepping := false, stepDone := true }
    | some g =>
      let back := fun (g : Group) (s : State) => stepEnds c z.stepGroup true (putGroup c z.stepGroup g s)
      let undone : Group := { g with wait := .none, instret := g.instret - 1 }
      match g.wait with
      | .none => if (s.core c).steppedQueued z.stepGroup then s else back g s
      | .flag .. => back undone s
      | .sem .. => back undone s
      | .barrier die key => back undone (leaveBarrier die key c z.stepGroup s)
      | _ => s
/-- STEP_TIMEOUT (R110). -/
def execStepTimeout (die r : Nat) (s : State) : Out := done s (withdrawStep (4 * die + r) s)

end Sys2Proof.Machine
end

