-- ==== Sys2Proof/Machine/Proc.lean ====
section
/-! DEFINITION. An access of a processor core (R192, R225, R235, R251, R267): second-stage translation, the die's L3,
and requests to homes. -/

namespace Sys2Proof.Machine

open Sys2Proof

/-- What an operation asks of a page (R265). -/
def procAcc : ProcOp → Acc
  | .load => { rd := true }
  | .fetch => { fetch := true }
  | .store => { wr := true }
  | .amo _ => { atomic := true }
  | .lr => { rd := true, atomic := true }
  | .sc => { atomic := true }
/-- The address space of a processor die's partition: its lowest (log 29). -/
def procAsid (s : State) (p : Nat) : Nat := ((s.aspaces.find? fun e => e.2.part = p).map (·.1)).getD 4096
/-- The engine of a core's accesses (Table 11-10). -/
def procEngine (k p : Nat) (op : ProcOp) (s : State) : Engine :=
  { die := l3Of k, code := 5, ctx := 2 ^ 31 + k, asid := procAsid s p, part := p, stall := .proc k (procFaultCode op) }

/-- The condition of the array that serves a hit (Table 09-4): an L1 is never dirty, an L2 or the L3 may be. A clean line that
is lost leaves the array, logged as PRC_CE (DEDUCED, log 92), and a dirty one is poisoned. -/
def procError (k line : Nat) (op : ProcOp) (e : AgentLine) (m : Medium) (s : State) : State :=
  let agent := l3Of k
  let a := procArray k line op s
  let pay := evAt 0 agent + evAt 1 a + evAt 2 k
  let dirty := if a = 3 then (s.pcacheOf k).l2.any (fun x => x.2.line = line && x.2.dirty) else a = 4 && (e.st = .M || e.st = .O)
  let out := fun (t : Tab PLine) => t.filter fun x => x.2.line ≠ line
  match m with
  | .corrected _ => logEvent 0x030A 1 pay s
  | .flipped x => if e.st = .M || e.st = .O then s else setAgentLine agent line { e with sill := e.sill ^^^ x } s
  | .ue =>
    if dirty then setAgentLine agent line { e with poison := true } (logEvent 0x030B 2 (pay + evAt 8 (line * 256)) s)
    else
      let s := logEvent 0x030A 1 pay s
      if a = 4 then dropAgentLine agent line s
      else s.setPcache k fun p => { l1i := if a = 2 then out p.l1i else p.l1i, l1d := if a = 1 then out p.l1d else p.l1d
                                    l2 := if a = 3 then out p.l2 else p.l2 }
  | _ => s
/-- A clean copy is verified where it hits (R296); one that fails is poisoned there (R294). -/
def procVerify (k line : Nat) (s : State) : State :=
  let agent := l3Of k
  match agentLine s agent line with
  | none => s
  | some e =>
    if e.st = .M || e.st = .O then s
    else
      let (g, s) := passLine line (nearEnd agent) e.sill [(0xE000 + agent, 1)] ⟨e.data, e.poison⟩ s
      setAgentLine agent line { e with poison := g.poison, sill := if g.poison then 0 else e.sill } s

/-- An operation on a stack line: at the L3 where it holds the line as the operation needs, else at the home. A line whose own
write-back is still under way is asked for after it (DESIGN CHOICE, log 29). -/
def procStack (k : Nat) (r : ProcReq) (m : Medium) (s : State) : State :=
  let agent := l3Of k
  let line := lineOf r.addr
  let off := r.addr % 256
  let word := leBytes r.size r.v.toNat
  let full := mostOutstanding agent ≤ (outstanding s agent).length
  let ask := fun (r : ProcReq) (kind : ReqKind) (data : List Byte) (s : State) =>
    if full then holdRun s else procAsk k r kind data m s
  match r.op with
  | .amo f5 => ask r (.atomic f5 r.size [(off / r.size, r.v)]) [] s
  | .lr => ask r .lr [] s
  | .sc =>
    let mask := (List.range r.size).foldl (fun (b : BitVec 256) i => b ||| BitVec.ofNat 256 (2 ^ (off + i))) 0
    ask r (.sc mask) (List.replicate off 0 ++ word ++ List.replicate (256 - off - r.size) 0) s
  | _ =>
    let hit := agentLine s agent line
    let s := match hit with
      | some e => procVerify k line (procError k line r.op e m s)
      | none => s
    let m := if hit.isSome then .good else m
    match procServe k r s with
    | some t => t
    | none =>
      if s.procReq.any fun e => l3Of e.1 = agent && lineOf e.2.addr = line then { s with procReq := put s.procReq k r }
      else match agentLine s agent line with
        | some e => if full then holdRun s else procAsk k { r with way := e.way } .upgrade [] m s
        | none =>
          if (pendingWb s agent line).isSome && wbInFlight s line then holdRun s
          else match l3Way agent line s with
          | none => holdRun s
          | some (w, n) =>
            let dirty := (agentWay s agent line w).any fun e => e.2.st = .M || e.2.st = .O
            if full || (dirty && (freeBuf agent s).isNone) then holdRun s
            else procAsk k { r with way := w } (if r.op = .store then .rdUnique else .rdShared) [] m (ageAgentSet agent line n s)

/-- An access outside the stacks is uncached (R225): a scratchpad window takes no AMO, LR or SC (log 29). -/
def procUncached (k : Nat) (r : ProcReq) (p : Where) (s : State) : State :=
  let word := leBytes r.size r.v.toNat
  match p with
  | .dev a _ =>
    match r.op with
    | .load | .fetch =>
      let (g, s) := lineRead (lineOf a) false s
      procLoad k { r with addr := a } g s
    | .store => setProc k .done (lineWrite (lineOf a) (atOffsets (a % 256) word) false false s)
    | op => setProc k (.exception (procFaultCode op)) s
  | .host a =>
    match r.op with
    | .store => setProc k .done (hostReq (.write a word false false) s)
    | op =>
      if s.host.hostLost then procPoison k a op s
      else setProc k (.value (BitVec.ofNat 64 (leNat (cellsGet s.hostMem a r.size)))) s
  | _ => s

/-- The access of a core. A line of its L3 that lies in a retired frame, in a stack off line or behind a lost die serves
nothing (R217, R223). -/
def procAccess (k : Nat) (op : ProcOp) (va size : Nat) (v : W64) (m : Medium) (s : State) : State :=
  match s.partOfProc (k / 24) with
  | none => s
  | some p =>
    let e := procEngine k p op s
    let refuse := fun (st : Nat) (s : State) =>
      setProc k (.exception (procFaultCode op)) (logRefused st 5 e.die e.ctx va s)
    match translate e va (procAcc op) s with
    | (.fault re st, s) => setProc k .stalled (openFault e va (procAcc op) re st s)
    | (.status st, s) => refuse st s
    | (.host a, s) => procUncached k { op, addr := a, size, v } (.host a) (if s.host.canIssue || s.host.hostLost then s else holdRun s)
    | (.dev a, s) =>
      let s := { s with run := { s.run with media := [(lineOf a, m)] } }
      let use : Use := { crown := decide (a < 2 ^ 40) }
      let r : ProcReq := { op, addr := a, size, v, asid := e.asid, page := va / 2 ^ 26 }
      let st := accessStatus (some p) e.die a use s
      if st ≠ ST.ok then refuse st s
      else match placeOf s a with
        | .stack _ => procStack k r m s
        | _ =>
          let (_, s) := accessCheck (some p) e.die 5 e.ctx a use s
          procUncached k r (.dev a false) s

/-- The core waits on a fault of a page: its accesses to it wait; its others go on as RVWMO allows (Table 11-4). -/
def procWaits (s : State) (k va : Nat) : Bool :=
  s.faults.any fun r => r.page = va / 2 ^ 26 && r.stalled.any fun x => match x with | .proc c _ => c = k | _ => false
/-- PROCESSOR_CORE_ACCESS (R192, R267, R373): a core with a request at a home makes no other here (log 29). -/
def execProcessorCoreAccess (k : Nat) (op : ProcOp) (va size : Nat) (v : W64) (h : HostWrites) (md : Medium)
    (s : State) : Out :=
  let s' := hostWrote h s
  done s (if !s.alive || !s.dieHere (l3Of k) || (look s.procReq k).isSome || procWaits s k va then s'
    else runWith [] (procAccess k op va size v md) s')

end Sys2Proof.Machine
end

