-- ==== Sys2Proof/Machine/Ring.lean ====
section
/-! DEFINITION. The Nose's ring reads (R347 to R349) and what becomes of an entry that it takes (R370 to R372). -/

namespace Sys2Proof.Machine

open Sys2Proof

/-- The item_seq after one (R370). -/
def nextItemSeq (seq : Nat) : Nat := if seq + 1 = 2 ^ 32 then 1 else seq + 1
/-- An item as its entry gives it. -/
def newItem (seq age : Nat) (body : List Byte) : Item :=
  let cls := leAt body 1 1
  let kind := leAt body 0 1
  { seq, body, kind, cls := Nat.min cls 2, sub := Nat.min cls 2, target := if cls = 1 then leAt body 8 8 else 0
    phase := if cls = 0 then 0 else 1, age, slices := if kind = 1 || kind = 4 then leAt body 40 2 else 1 }
/-- An invalid entry completes with ST_BAD_ITEM, with its class byte as written (R372, R374). -/
def badItem (c seq : Nat) (body : List Byte) (s : State) : State :=
  endItem c seq ST.badItem (s.setItem c seq fun i => { i with clsByte := some (leAt body 1 1) })
/-- The Nose takes an entry: it is checked, and a SOFT or BULK item's cost records are read (R370, R372). -/
def takeEntry (c : Nat) (body : List Byte) (s : State) : State :=
  match s.ctx c with
  | none => s
  | some x =>
    let i := newItem x.nextSeq s.plan.nextAge body
    let s := s.setCtx c fun x => { x with nextSeq := nextItemSeq x.nextSeq, items := x.items ++ [i] }
    let s := { s with plan := { s.plan with nextAge := s.plan.nextAge + 1 } }
    if !(headerOk body && fieldsOk body && jobOk s x.part i) then badItem c i.seq body s
    else if i.cls ≠ 0 && (i.kind = 1 || i.kind = 4) then
      match slicesOf (noseOf c x) c x i s with
      | (z, s) =>
        if z.bad.isSome then badItem c i.seq body s
        else s.setItem c i.seq fun i => { i with args := z.args, costs := z.costs }
    else s

/-- The bytes of an entry, and whether they were read poisoned; none where the access is refused. `ep` is the mark of a
host completion. -/
def readSlot (c : Nat) (x : Ctx) (ep : Bool) (s : State) : Option (List Byte) × Bool × State :=
  let a := x.sqBase + x.sqHead * 128
  if x.sqHost then
    let s := if s.host.canIssue then s else holdRun s
    (some (cellsGet s.hostMem a 128), ep, s)
  else
    let (st, s) := accessCheck (some x.part) 24 6 c a { tier := .nose } s
    if st ≠ ST.ok then (none, false, s)
    else
      let (g, s) := bytesRead a 128 false (atEngine 24 0 [] s)
      (some g.data, g.poison, s)
/-- An entry is accepted when it is not poisoned and its phase and check match (R348, R349). -/
def entryGood (x : Ctx) (b : List Byte) : Bool := bit (leAt b 112 1) 0 = x.sqPhase && leAt b 120 8 = (sillage (b.take 120)).toNat
/-- Unfinished items of a context. -/
def Ctx.unfinished (x : Ctx) : Nat := (x.items.filter (·.phase < 3)).length

/-- One reading of the entry at the head: taken, or failed with whether it was poisoned. -/
def readHead (c : Nat) (x : Ctx) (ep : Bool) (s : State) : Option Bool × State :=
  match readSlot c x ep s with
  | (some b, false, s) =>
    if entryGood x b then
      let s := s.setCtx c fun x =>
        let wrap := x.sqHead + 1 = 2 ^ x.sqLog2
        { x with sqHead := if wrap then 0 else x.sqHead + 1, sqPhase := if wrap then !x.sqPhase else x.sqPhase, torn := 0 }
      (none, takeEntry c (b.take 112) s)
    else (some false, s)
  | (_, p, s) => (some p, s)
/-- Entries read in ring order up to the tail, to the first that fails (R348); 16,777,216 unfinished items stop it (R370). -/
def pullEntries (c : Nat) (ep : Bool) : Nat → State → State
  | 0, s => s
  | n + 1, s =>
    match s.ctx c with
    | none => s
    | some x =>
      if x.stopped || x.sqHead = x.tail || 2 ^ 24 ≤ x.unfinished then s
      else match readHead c x ep s with
        | (none, s) => pullEntries c false n s
        | (some _, s) => s.setCtx c fun x => { x with torn := x.torn + 1 }
/-- The new head goes to the head word (R348). -/
def writeHead (c before : Nat) (s : State) : State :=
  match s.ctx c with
  | some x => if x.sqHead = before then s else noseWrite x.headHost c x.part x.headAddr (leBytes 8 x.sqHead) s
  | none => s
/-- A read of the ring from its head. -/
def pullRing (c : Nat) (ep : Bool) (s : State) : State :=
  match s.ctx c with
  | some x => writeHead c x.sqHead (pullEntries c ep (2 ^ x.sqLog2) s)
  | none => s
/-- The Nose reads a context's ring. -/
def ringRead (c : Nat) (ep : Bool) (s : State) : State :=
  match s.ctx c with
  | some x =>
    if !s.noseUp || x.stopped || x.torn ≠ 0 || (x.sqHost && s.host.hostLost) then s
    else
      let s := pullRing c ep s
      tryBatch c false s
  | none => s
/-- RING_READ (R348). -/
def execRingRead (ctx : Nat) (h : HostWrites) (ep : Bool) (md : Media) (s : State) : Out :=
  done s (runWith md (ringRead ctx ep) (hostWrote h s))

/-- The context of an entry whose eighth further reading failed stops (R349): 0xFF stands for its class. -/
def tornStop (c : Nat) (x : Ctx) (poison : Bool) (s : State) : State :=
  let s := stopContext c ST.tornEntry s
  postEntry c (entryBody ST.tornEntry 3 0xFF x.nextSeq s.beat (leBytes 2 x.sqHead ++ leBytes 1 (b01 poison)) []) true s
/-- The failing entry is read again: taken with those after it, failed once more, or given up. -/
def tornReread (c : Nat) (ep : Bool) (s : State) : State :=
  match s.ctx c with
  | some x =>
    if !s.noseUp || x.stopped || x.torn = 0 || (x.sqHost && s.host.hostLost) then s
    else match readHead c x ep s with
      | (none, s) =>
        let s := pullEntries c false (2 ^ x.sqLog2) s
        tryBatch c false (writeHead c x.sqHead s)
      | (some p, s) => if 8 ≤ x.torn then tornStop c x p s else s.setCtx c fun x => { x with torn := x.torn + 1 }
  | none => s
/-- TORN_ENTRY_REREAD (R349). -/
def execTornEntryReread (ctx : Nat) (h : HostWrites) (ep : Bool) (md : Media) (s : State) : Out :=
  done s (runWith md (tornReread ctx ep) (hostWrote h s))

end Sys2Proof.Machine
end

