-- ==== Sys2Proof/Machine/Sources.lean ====
section
/-! DEFINITION. Time sources (R391 to R394, R466 to R468): PTP and SYNC_IN samples, lock and accuracy, stepping, and the
loss of a source. An offset is the counter less its source, in ns. -/

namespace Sys2Proof.Machine

open Sys2Proof

/-- The counter may step: no FIRM item is unfinished and no lockstep job armed (R393). -/
def mayStep (s : State) : Bool := !s.firmPending && !s.lockstepLive
/-- A correction of the counter: a step forward where it is more than 1 ms behind, else slewing. -/
def correct (offset : Int) (s : State) : State :=
  if offset < -1000000 && mayStep s then
    { s with time := { s.time with now := s.time.now + offset.natAbs, stepped := true, slew := 0 } }
  else { s with time := { s.time with slew := -offset } }
/-- A further offset in a discipline's record. -/
def Servo.add (v : Servo) (offset : Int) : Servo :=
  { v with offsets := (offset :: v.offsets).take 16, below := if offset.natAbs < 1000 then v.below + 1 else 0 }
/-- The largest offset of the last 16. -/
def Servo.worst (v : Servo) : Nat := v.offsets.foldl (fun m o => Nat.max m o.natAbs) 0
/-- Lock and accuracy after a sample (R392, R468): `bound` is the source's own; `barred` says that lock is kept from it. -/
def relock (v : Servo) (bound : Nat) (barred : Bool) (t : TimeSt) : TimeSt :=
  let lock := decide (16 ≤ v.below) && !barred
  { t with
    locked := lock
    accuracy := Nat.min 0xFFFFF (v.worst + bound + 10)
    holdover := none
    unlockedAt := if lock then none else if t.locked then some t.now else t.unlockedAt }

/-! ## PTP (R391, R392) -/

/-- A PTP port (R391). -/
def ptpPort (port : Nat) : Bool := port = 0 || port = 4 || port = 8 || port = 12
/-- PTP is the source, and the port takes part. -/
def ptpOn (s : State) (port : Nat) : Bool := s.alive && s.time.source = 1 && ptpPort port && portUp s port
/-- An offset measured from the chosen master. -/
def ptpSample (offset : Int) (s : State) : State :=
  if !s.time.ptpMaster then s
  else
    let v := s.time.ptp.add offset
    correct offset { s with time := relock v v.clockAcc false { s.time with ptp := v } }
/-- PTP_EVENT_MESSAGE (R392). -/
def execPtpEventMessage (port : Nat) (offset : Int) (s : State) : Out :=
  done s (if ptpOn s port then ptpSample offset s else s)
/-- PTP_GENERAL_MESSAGE (R391): an Announce that the best master clock algorithm prefers, or the first, chooses the master;
a Follow_Up or Delay_Resp completes a measurement. -/
def execPtpGeneralMessage (port kind : Nat) (better : Bool) (clockAcc : Nat) (offset : Int) (s : State) : Out :=
  done s (if !ptpOn s port then s
    else if kind = 0 then
      if better || !s.time.ptpMaster then
        { s with time := { s.time with ptpMaster := true, ptp := { s.time.ptp with clockAcc := clockAcc } } }
      else s
    else ptpSample offset s)

/-! ## Loss of a source (R394, R468) -/

/-- The source is lost: `locked` becomes 0, and holdover begins. -/
def loseSource (s : State) : State :=
  let t := s.time
  { s with time := { t with
    locked := false, ptpMaster := false
    ptp := { t.ptp with below := 0 }, sync := { t.sync with below := 0 }
    holdover := t.holdover <|> some (t.now, t.accuracy)
    unlockedAt := if t.locked then some t.now else t.unlockedAt } }
/-- ANNOUNCE_TIMEOUT (R394). -/
def execAnnounceTimeout (s : State) : Out :=
  done s (if s.alive && s.time.source = 1 && s.time.ptpMaster then loseSource s else s)
/-- SYNC_LOSS (R468). -/
def execSyncLoss (s : State) : Out :=
  done s (if s.alive && s.time.source = 2 then loseSource s else s)
/-- SYNC_PPS_EDGE (R468): the counter read `nowAt` when the edge came; an unknown bound keeps `locked` at 0 (Table 20-9). -/
def syncEdge (nowAt : Nat) (s : State) : State :=
  let t := s.time
  let given := t.todFresh && decide (t.todAt + 100000000 ≤ t.now)
  let tai := if given then t.tod else t.lastTai + 1
  let offset : Int := (nowAt : Int) - ((tai * 1000000000 + t.delayNs : Nat) : Int)
  let v := t.sync.add offset
  let t := { t with todFresh := t.todFresh && !given, lastTai := tai, sync := v }
  correct offset { s with time := relock v t.accNs (decide (0xFFFFF ≤ t.accNs)) t }
def execSyncPpsEdge (nowAt : Nat) (s : State) : Out :=
  done s (if s.alive && s.time.source = 2 then syncEdge nowAt s else s)

end Sys2Proof.Machine
end

