-- ==== Sys2Proof/Machine/Stacks.lean ====
section
/-! DEFINITION. Events of the stacks and their home L2s: prefetch (R232), scrub (R212), refresh and repair (R209), and
bank-ways turned off (R237). -/

namespace Sys2Proof.Machine

open Sys2Proof

/-- A prefetched line arrives: discarded where a write took its read out of flight, else the newest of the side buffer,
whose oldest line leaves when it is full. -/
def prefetchArrives (d line : Nat) (m : Medium) (s : State) : State :=
  let z := s.l2Of d
  if !z.flight.contains line then s
  else
    let s := s.setL2 d fun z => { z with flight := z.flight.filter (· ≠ line) }
    if !z.enabled || !z.prefetch then s
    else
      let s := controllerRead d line 4 m s
      let mark := s.stored line
      s.setL2 d fun z => { z with side := (if 1024 ≤ z.side.length then z.side.drop 1 else z.side) ++ [(line, mark)] }

/-- PREFETCH_ARRIVAL (R232). -/
def execPrefetchArrival (die line : Nat) (md : Medium) (s : State) : Out :=
  done s (if s.alive then settle (prefetchArrives die line md s) else s)

/-- PATROL_SCRUB (R212): corrected data is written back in place, without a change of the sillage. -/
def execPatrolScrub (line : Nat) (md : Medium) (s : State) : Out :=
  done s (if s.alive then
    match placeOf s (line * 256) with
    | .stack k =>
      if s.stackState k = 0 then
        settle (controllerRead k line 2 md s)
      else s
    | _ => s else s)

/-- ELEVATED_REFRESH_START (R209): the hottest DRAM die has reached 85 °C. -/
def execElevatedRefreshStart (stack temp : Nat) (s : State) : Out :=
  done s (if s.alive && decide (85 ≤ temp) && s.stackState stack ≠ 2 then
    s.setStack stack fun z => { z with elevated := true, temp } else s)
/-- ELEVATED_REFRESH_END (R209): every DRAM die is below 80 °C; a row repair that waited starts. -/
def execElevatedRefreshEnd (stack temp : Nat) (s : State) : Out :=
  done s (if s.alive && decide (temp < 80) && s.stackState stack ≠ 2 then
    s.setStack stack fun z => startRepair { z with elevated := false, temp } else s)

/-- ROW_REPAIR_DONE (R209): the row is copied to its spare; a bank left without a spare is logged, and repaired no
more. The next row that waits starts. -/
def execRowRepairDone (stack : Nat) (spareLeft : Bool) (s : State) : Out :=
  done s (if s.alive then
    match (s.stack stack).repair with
    | none => s
    | some row =>
      let b := bankOfRow row
      let s := s.setStack stack fun z => startRepair { z with
        repair := none, soft := z.soft + 1, ceRows := del z.ceRows row
        noSpare := if spareLeft then z.noSpare else addSorted b z.noSpare }
      if spareLeft then s
      else logEvent 0x0302 3 (evAt 0 stack + evAt 1 (b / 128) + evAt 2 (b / 64 % 2) + evAt 3 (b % 64)) s
    else s)

/-- L2_WAY_OFF (R237): the counter of a bank-way is above 16; its dirty lines are written back, its clean ones
dropped. -/
def execL2WayOff (die bank way : Nat) (s : State) : Out :=
  done s (if s.alive then
    let z := s.l2Of die
    let bw := bank * 16 + way
    if lookD z.ce bw 0 ≤ 16 || z.off.contains bw then s
    else
      let keys := (z.lines.map (·.1)).filter fun k => k / 16 / 384 = bank && k % 16 = way
      let s := keys.foldl (fun s k => l2Drop die k s) s
      let s := s.setL2 die fun z => { z with off := addSorted bw z.off }
      logEvent 0x0308 3 (evAt 0 die + evAt 1 bank + evAt 2 way + evAt 4 (s.l2Of die).off.length) s
    else s)

end Sys2Proof.Machine
end

