-- ==== Sys2Proof/Machine/Dispatch.lean ====
section
/-! DEFINITION. The effect of each command: one arm per row of the table. -/

namespace Sys2Proof.Machine

open Sys2Proof

/-- The command's effect on everything but the queue. -/
def exec (i : Instr) (s : State) : Host.Outcome State Fault Refusal :=
  match i with
  | .resetDevice m seq inWords => Sys2Proof.Machine.execResetDevice m seq inWords s
  | .nop m seq inWords => Sys2Proof.Machine.execNop m seq inWords s
  | .dieInventory m seq inWords => Sys2Proof.Machine.execDieInventory m seq inWords s
  | .memoryInventory m seq inWords linkOk => Sys2Proof.Machine.execMemoryInventory m seq inWords linkOk s
  | .linkStatus m seq inWords => Sys2Proof.Machine.execLinkStatus m seq inWords s
  | .satRead m seq inWords linkOk => Sys2Proof.Machine.execSatRead m seq inWords linkOk s
  | .contextCreate m seq inWords => Sys2Proof.Machine.execContextCreate m seq inWords s
  | .contextDestroy m seq inWords => Sys2Proof.Machine.execContextDestroy m seq inWords s
  | .contextQuery m seq inWords => Sys2Proof.Machine.execContextQuery m seq inWords s
  | .contextStop m seq inWords => Sys2Proof.Machine.execContextStop m seq inWords s
  | .itemCancel m seq inWords => Sys2Proof.Machine.execItemCancel m seq inWords s
  | .partitionCreate m seq inWords => Sys2Proof.Machine.execPartitionCreate m seq inWords s
  | .partitionDestroy m seq inWords => Sys2Proof.Machine.execPartitionDestroy m seq inWords s
  | .partitionSet m seq inWords => Sys2Proof.Machine.execPartitionSet m seq inWords s
  | .aspaceCreate m seq inWords => Sys2Proof.Machine.execAspaceCreate m seq inWords s
  | .aspaceDestroy m seq inWords => Sys2Proof.Machine.execAspaceDestroy m seq inWords s
  | .pagePin m seq inWords => Sys2Proof.Machine.execPagePin m seq inWords s
  | .pageUnpin m seq inWords => Sys2Proof.Machine.execPageUnpin m seq inWords s
  | .shootdown m seq inWords => Sys2Proof.Machine.execShootdown m seq inWords s
  | .shootdownDrainDone m elapsed => Sys2Proof.Machine.execShootdownDrainDone m elapsed s
  | .faultResume m seq inWords => Sys2Proof.Machine.execFaultResume m seq inWords s
  | .faultMigrate m seq inWords => Sys2Proof.Machine.execFaultMigrate m seq inWords s
  | .migrationCopyDone p fid h => Sys2Proof.Machine.execMigrationCopyDone p fid h s
  | .faultAbort m seq inWords => Sys2Proof.Machine.execFaultAbort m seq inWords s
  | .frameRetire m seq inWords => Sys2Proof.Machine.execFrameRetire m seq inWords s
  | .frameUnretire m seq inWords => Sys2Proof.Machine.execFrameUnretire m seq inWords s
  | .stackRetest m seq inWords => Sys2Proof.Machine.execStackRetest m seq inWords s
  | .stackRetestDone stack bad => Sys2Proof.Machine.execStackRetestDone stack bad s
  | .reserveMode m seq inWords => Sys2Proof.Machine.execReserveMode m seq inWords s
  | .accordRead m seq inWords linkOk => Sys2Proof.Machine.execAccordRead m seq inWords linkOk s
  | .beatSet m seq inWords => Sys2Proof.Machine.execBeatSet m seq inWords s
  | .timeSource m seq inWords => Sys2Proof.Machine.execTimeSource m seq inWords s
  | .cacheInvalidateAll m seq inWords => Sys2Proof.Machine.execCacheInvalidateAll m seq inWords s
  | .cacheEnable m seq inWords => Sys2Proof.Machine.execCacheEnable m seq inWords s
  | .cacheDisable m seq inWords => Sys2Proof.Machine.execCacheDisable m seq inWords s
  | .cachePolicy m seq inWords => Sys2Proof.Machine.execCachePolicy m seq inWords s
  | .powerCap m seq inWords => Sys2Proof.Machine.execPowerCap m seq inWords s
  | .smoothing m seq inWords => Sys2Proof.Machine.execSmoothing m seq inWords s
  | .debugHalt m seq inWords => Sys2Proof.Machine.execDebugHalt m seq inWords s
  | .jobArm m seq inWords linkOk h => Sys2Proof.Machine.execJobArm m seq inWords linkOk h s
  | .jobStop m seq inWords => Sys2Proof.Machine.execJobStop m seq inWords s
  | .jobQuery m seq inWords => Sys2Proof.Machine.execJobQuery m seq inWords s
  | .fwStage m seq inWords linkOk flashOk h => Sys2Proof.Machine.execFwStage m seq inWords linkOk flashOk h s
  | .fwUnstage m seq inWords => Sys2Proof.Machine.execFwUnstage m seq inWords s
  | .mbxDataWrite m k half v => Sys2Proof.Machine.execMbxDataWrite m k half v s
  | .timeNowLowRead => Sys2Proof.Machine.execTimeNowLowRead s
  | .timeNowHighRead => Sys2Proof.Machine.execTimeNowHighRead s
  | .timeFaultClear v => Sys2Proof.Machine.execTimeFaultClear v s
  | .doorbellTail ctx v => Sys2Proof.Machine.execDoorbellTail ctx v s
  | .doorbellCqHead ctx v => Sys2Proof.Machine.execDoorbellCqHead ctx v s
  | .fqHeadWrite p v => Sys2Proof.Machine.execFqHeadWrite p v s
  | .fqEnableWrite p v => Sys2Proof.Machine.execFqEnableWrite p v s
  | .evtHeadWrite v => Sys2Proof.Machine.execEvtHeadWrite v s
  | .evtCfgWrite v => Sys2Proof.Machine.execEvtCfgWrite v s
  | .bar4WinWrite v => Sys2Proof.Machine.execBar4WinWrite v s
  | .dbgRctlHalt die r v => Sys2Proof.Machine.execDbgRctlHalt die r v s
  | .dbgRctlResume die r v => Sys2Proof.Machine.execDbgRctlResume die r v s
  | .dbgRctlStep die r v w => Sys2Proof.Machine.execDbgRctlStep die r v w s
  | .stepTimeout die r => Sys2Proof.Machine.execStepTimeout die r s
  | .dbgDataWrite die v => Sys2Proof.Machine.execDbgDataWrite die v s
  | .i3cSyncTodWrite v => Sys2Proof.Machine.execI3cSyncTodWrite v s
  | .i3cSyncAccWrite v => Sys2Proof.Machine.execI3cSyncAccWrite v s
  | .registerWrite bar off size v => Sys2Proof.Machine.execRegisterWrite bar off size v s
  | .bar4Read off len md => Sys2Proof.Machine.execBar4Read off len md s
  | .bar4Write off data md => Sys2Proof.Machine.execBar4Write off data md s
  | .pcieConfigRequest reg wr => Sys2Proof.Machine.execPcieConfigRequest reg wr s
  | .busMasterEnableWrite on => Sys2Proof.Machine.execBusMasterEnableWrite on s
  | .laneAlu c g w => Sys2Proof.Machine.execLaneAlu c g w s
  | .laneBranch c g w => Sys2Proof.Machine.execLaneBranch c g w s
  | .laneLoad c g w h md => Sys2Proof.Machine.execLaneLoad c g w h md s
  | .laneStore c g w h md => Sys2Proof.Machine.execLaneStore c g w h md s
  | .laneAmo c g w h md => Sys2Proof.Machine.execLaneAmo c g w h md s
  | .csrAccess c g w => Sys2Proof.Machine.execCsrAccess c g w s
  | .mskPush c g w => Sys2Proof.Machine.execMskPush c g w s
  | .mskElse c g w => Sys2Proof.Machine.execMskElse c g w s
  | .mskLoop c g w => Sys2Proof.Machine.execMskLoop c g w s
  | .mskBrk c g w => Sys2Proof.Machine.execMskBrk c g w s
  | .mskPop c g w => Sys2Proof.Machine.execMskPop c g w s
  | .mskBal c g w => Sys2Proof.Machine.execMskBal c g w s
  | .mskAny c g w => Sys2Proof.Machine.execMskAny c g w s
  | .mskAll c g w => Sys2Proof.Machine.execMskAll c g w s
  | .barCl c g w => Sys2Proof.Machine.execBarCl c g w s
  | .barDie c g w => Sys2Proof.Machine.execBarDie c g w s
  | .dbgBrk c g w => Sys2Proof.Machine.execDbgBrk c g w s
  | .xwGaddr c g w => Sys2Proof.Machine.execXwGaddr c g w s
  | .grpEnd c g w => Sys2Proof.Machine.execGrpEnd c g w s
  | .flgRel c g w h md => Sys2Proof.Machine.execFlgRel c g w h md s
  | .flgAcqEq c g w h md => Sys2Proof.Machine.execFlgAcqEq c g w h md s
  | .flgAcqGe c g w h md => Sys2Proof.Machine.execFlgAcqGe c g w h md s
  | .semRel c g w h md => Sys2Proof.Machine.execSemRel c g w h md s
  | .semAcq c g w h md => Sys2Proof.Machine.execSemAcq c g w h md s
  | .fenceX c g w => Sys2Proof.Machine.execFenceX c g w s
  | .flagReread c g md => Sys2Proof.Machine.execFlagReread c g md s
  | .groupStall c g => Sys2Proof.Machine.execGroupStall c g s
  | .mxCfg c g w => Sys2Proof.Machine.execMxCfg c g w s
  | .mxLdt c g w => Sys2Proof.Machine.execMxLdt c g w s
  | .mxMma c g w => Sys2Proof.Machine.execMxMma c g w s
  | .mxLda c g w => Sys2Proof.Machine.execMxLda c g w s
  | .mxDrn c g w => Sys2Proof.Machine.execMxDrn c g w s
  | .mxTrk c g w => Sys2Proof.Machine.execMxTrk c g w s
  | .atSub c g w => Sys2Proof.Machine.execAtSub c g w s
  | .atomiserChunk die md => Sys2Proof.Machine.execAtomiserChunk die md s
  | .atomiserDone die md => Sys2Proof.Machine.execAtomiserDone die md s
  | .vxAdd c g w => Sys2Proof.Machine.execVxAdd c g w s
  | .vxSub c g w => Sys2Proof.Machine.execVxSub c g w s
  | .vxMul c g w => Sys2Proof.Machine.execVxMul c g w s
  | .vxFma c g w => Sys2Proof.Machine.execVxFma c g w s
  | .vxDiv c g w => Sys2Proof.Machine.execVxDiv c g w s
  | .vxSqrt c g w => Sys2Proof.Machine.execVxSqrt c g w s
  | .vxRcp c g w => Sys2Proof.Machine.execVxRcp c g w s
  | .vxRsqrt c g w => Sys2Proof.Machine.execVxRsqrt c g w s
  | .vxExp2 c g w => Sys2Proof.Machine.execVxExp2 c g w s
  | .vxLog2 c g w => Sys2Proof.Machine.execVxLog2 c g w s
  | .vxExp c g w => Sys2Proof.Machine.execVxExp c g w s
  | .vxLog c g w => Sys2Proof.Machine.execVxLog c g w s
  | .vxTanh c g w => Sys2Proof.Machine.execVxTanh c g w s
  | .vxSigm c g w => Sys2Proof.Machine.execVxSigm c g w s
  | .vxAbs c g w => Sys2Proof.Machine.execVxAbs c g w s
  | .vxNeg c g w => Sys2Proof.Machine.execVxNeg c g w s
  | .vxMax c g w => Sys2Proof.Machine.execVxMax c g w s
  | .vxMin c g w => Sys2Proof.Machine.execVxMin c g w s
  | .vxEq c g w => Sys2Proof.Machine.execVxEq c g w s
  | .vxNe c g w => Sys2Proof.Machine.execVxNe c g w s
  | .vxLt c g w => Sys2Proof.Machine.execVxLt c g w s
  | .vxLe c g w => Sys2Proof.Machine.execVxLe c g w s
  | .vxGt c g w => Sys2Proof.Machine.execVxGt c g w s
  | .vxGe c g w => Sys2Proof.Machine.execVxGe c g w s
  | .vxSel c g w => Sys2Proof.Machine.execVxSel c g w s
  | .vxCvt c g w => Sys2Proof.Machine.execVxCvt c g w s
  | .vxRsum c g w => Sys2Proof.Machine.execVxRsum c g w s
  | .vxRmax c g w => Sys2Proof.Machine.execVxRmax c g w s
  | .vxRmin c g w => Sys2Proof.Machine.execVxRmin c g w s
  | .vxTr32 c g w => Sys2Proof.Machine.execVxTr32 c g w s
  | .vxTrk c g w => Sys2Proof.Machine.execVxTrk c g w s
  | .vxUpd c g w => Sys2Proof.Machine.execVxUpd c g w s
  | .ringRead ctx h ep md => Sys2Proof.Machine.execRingRead ctx h ep md s
  | .tornEntryReread ctx h ep md => Sys2Proof.Machine.execTornEntryReread ctx h ep md s
  | .admissionDecision ctx seq md => Sys2Proof.Machine.execAdmissionDecision ctx seq md s
  | .itemStart ctx md => Sys2Proof.Machine.execItemStart ctx md s
  | .sliceLaunch ctx md => Sys2Proof.Machine.execSliceLaunch ctx md s
  | .batchWindowExpiry ctx md => Sys2Proof.Machine.execBatchWindowExpiry ctx md s
  | .copyBlock ctx md => Sys2Proof.Machine.execCopyBlock ctx md s
  | .hostCopyPieceStart e => Sys2Proof.Machine.execHostCopyPieceStart e s
  | .hostCopyPieceDone e h md => Sys2Proof.Machine.execHostCopyPieceDone e h md s
  | .waitItemMatch ctx md => Sys2Proof.Machine.execWaitItemMatch ctx md s
  | .beatBoundary sat powerW volts amps => Sys2Proof.Machine.execBeatBoundary sat powerW volts amps s
  | .holdoverLimit => Sys2Proof.Machine.execHoldoverLimit s
  | .guardStart => Sys2Proof.Machine.execGuardStart s
  | .regionWakeDone r => Sys2Proof.Machine.execRegionWakeDone r s
  | .regionWakeFail r => Sys2Proof.Machine.execRegionWakeFail r s
  | .rdShared q line md => Sys2Proof.Machine.execRdShared q line md s
  | .rdUnique q line md => Sys2Proof.Machine.execRdUnique q line md s
  | .upgrade q line md => Sys2Proof.Machine.execUpgrade q line md s
  | .rdCur q line md => Sys2Proof.Machine.execRdCur q line md s
  | .wrFull q line data poison hint md => Sys2Proof.Machine.execWrFull q line data poison hint md s
  | .wrPart q line mask data poison md => Sys2Proof.Machine.execWrPart q line mask data poison md s
  | .atomic q line amo width operands md => Sys2Proof.Machine.execAtomic q line amo width operands md s
  | .lr q line md => Sys2Proof.Machine.execLr q line md s
  | .sc q line mask data md => Sys2Proof.Machine.execSc q line mask data md s
  | .scrRd q line => Sys2Proof.Machine.execScrRd q line s
  | .scrWr q line mask data poison => Sys2Proof.Machine.execScrWr q line mask data poison s
  | .snpQ home tag line kind requester => Sys2Proof.Machine.execSnpQ home tag line kind requester s
  | .snpShared agent line tag => Sys2Proof.Machine.execSnpShared agent line tag s
  | .snpCur agent line tag => Sys2Proof.Machine.execSnpCur agent line tag s
  | .snpInv agent line tag => Sys2Proof.Machine.execSnpInv agent line tag s
  | .rspFcount line sent cleared entry other => Sys2Proof.Machine.execRspFcount line sent cleared entry other s
  | .rspI agent line => Sys2Proof.Machine.execRspI agent line s
  | .rspS agent line => Sys2Proof.Machine.execRspS agent line s
  | .rspWbpend agent line buf phase => Sys2Proof.Machine.execRspWbpend agent line buf phase s
  | .rspGrant agent line grant => Sys2Proof.Machine.execRspGrant agent line grant s
  | .rspDone die tag scOk => Sys2Proof.Machine.execRspDone die tag scOk s
  | .rspErr die tag status => Sys2Proof.Machine.execRspErr die tag status s
  | .dat dst src tag line grant data poison sill => Sys2Proof.Machine.execDat dst src tag line grant data poison sill s
  | .offer agent line data poison => Sys2Proof.Machine.execOffer agent line data poison s
  | .wb agent line buf phase data poison => Sys2Proof.Machine.execWb agent line buf phase data poison s
  | .ack agent line way grant => Sys2Proof.Machine.execAck agent line way grant s
  | .ackTake agent line way => Sys2Proof.Machine.execAckTake agent line way s
  | .ackDecline agent line => Sys2Proof.Machine.execAckDecline agent line s
  | .wbAck agent buf => Sys2Proof.Machine.execWbAck agent buf s
  | .drop line => Sys2Proof.Machine.execDrop line s
  | .wake c line => Sys2Proof.Machine.execWake c line s
  | .prefetchArrival die line md => Sys2Proof.Machine.execPrefetchArrival die line md s
  | .patrolScrub line md => Sys2Proof.Machine.execPatrolScrub line md s
  | .elevatedRefreshStart stack temp => Sys2Proof.Machine.execElevatedRefreshStart stack temp s
  | .elevatedRefreshEnd stack temp => Sys2Proof.Machine.execElevatedRefreshEnd stack temp s
  | .rowRepairDone stack spareLeft => Sys2Proof.Machine.execRowRepairDone stack spareLeft s
  | .l2WayOff die bank way => Sys2Proof.Machine.execL2WayOff die bank way s
  | .flitCrcFail k failed => Sys2Proof.Machine.execFlitCrcFail k failed s
  | .moduleRetrain k => Sys2Proof.Machine.execModuleRetrain k s
  | .laneTestDone k failD failT => Sys2Proof.Machine.execLaneTestDone k failD failT s
  | .widthConfirm k mine theirs inPartialReset => Sys2Proof.Machine.execWidthConfirm k mine theirs inPartialReset s
  | .partialReset grp cause ended => Sys2Proof.Machine.execPartialReset grp cause ended s
  | .dieResetNotice die reason => Sys2Proof.Machine.execDieResetNotice die reason s
  | .heldRequestTimeout die tag => Sys2Proof.Machine.execHeldRequestTimeout die tag s
  | .agentLost agent => Sys2Proof.Machine.execAgentLost agent s
  | .capWord die idx v => Sys2Proof.Machine.execCapWord die idx v s
  | .capSelect die w2 w3 => Sys2Proof.Machine.execCapSelect die w2 w3 s
  | .telemetry die powerW temp => Sys2Proof.Machine.execTelemetry die powerW temp s
  | .powerLimit die limitW emergency => Sys2Proof.Machine.execPowerLimit die limitW emergency s
  | .reserveLinkDown => Sys2Proof.Machine.execReserveLinkDown s
  | .putData p data sill md => Sys2Proof.Machine.execPutData p data sill md s
  | .getReq p back md => Sys2Proof.Machine.execGetReq p back md s
  | .getData p data sill md => Sys2Proof.Machine.execGetData p data sill md s
  | .esrikSignal p v add md => Sys2Proof.Machine.execEsrikSignal p v add md s
  | .esrikAck p md => Sys2Proof.Machine.execEsrikAck p md s
  | .nak p status seq => Sys2Proof.Machine.execNak p status seq s
  | .coll p data sill md => Sys2Proof.Machine.execColl p data sill md s
  | .arm p start epoch period lockstep floor clock digest => Sys2Proof.Machine.execArm p start epoch period lockstep floor clock digest s
  | .armAck p refuse => Sys2Proof.Machine.execArmAck p refuse s
  | .commit p start => Sys2Proof.Machine.execCommit p start s
  | .heartbeat p beat => Sys2Proof.Machine.execHeartbeat p beat s
  | .esrikJobStop p missing beat => Sys2Proof.Machine.execEsrikJobStop p missing beat s
  | .childMissing p member beat => Sys2Proof.Machine.execChildMissing p member beat s
  | .armTimeout job => Sys2Proof.Machine.execArmTimeout job s
  | .commitDecision job => Sys2Proof.Machine.execCommitDecision job s
  | .jobStartBeat job => Sys2Proof.Machine.execJobStartBeat job s
  | .heartbeatCheck job => Sys2Proof.Machine.execHeartbeatCheck job s
  | .retransmitTimeout job peer port => Sys2Proof.Machine.execRetransmitTimeout job peer port s
  | .ackTimer job peer port => Sys2Proof.Machine.execAckTimer job peer port s
  | .peerPathLost job peer port => Sys2Proof.Machine.execPeerPathLost job peer port s
  | .portDown port => Sys2Proof.Machine.execPortDown port s
  | .portUp port => Sys2Proof.Machine.execPortUp port s
  | .ptpEventMessage port offset => Sys2Proof.Machine.execPtpEventMessage port offset s
  | .announceTimeout => Sys2Proof.Machine.execAnnounceTimeout s
  | .syncPpsEdge nowAt => Sys2Proof.Machine.execSyncPpsEdge nowAt s
  | .syncLoss => Sys2Proof.Machine.execSyncLoss s
  | .softStart volts => Sys2Proof.Machine.execSoftStart volts s
  | .governorSample volts amps slew => Sys2Proof.Machine.execGovernorSample volts amps slew s
  | .droopDetect kind source => Sys2Proof.Machine.execDroopDetect kind source s
  | .thermalDetect isStack source temp => Sys2Proof.Machine.execThermalDetect isStack source temp s
  | .tileThermalDetect tile temp => Sys2Proof.Machine.execTileThermalDetect tile temp s
  | .emergencyRelease cond kind source => Sys2Proof.Machine.execEmergencyRelease cond kind source s
  | .tileFail tile => Sys2Proof.Machine.execTileFail tile s
  | .emergencyShutdown cause source => Sys2Proof.Machine.execEmergencyShutdown cause source s
  | .powerUp volts => Sys2Proof.Machine.execPowerUp volts s
  | .perstAssert heldUs => Sys2Proof.Machine.execPerstAssert heldUs s
  | .perstRelease => Sys2Proof.Machine.execPerstRelease s
  | .resetStepDone r => Sys2Proof.Machine.execResetStepDone r s
  | .fwFallbackTimeout => Sys2Proof.Machine.execFwFallbackTimeout s
  | .bootFailTimeout => Sys2Proof.Machine.execBootFailTimeout s
  | .noseWatchdogExpiry => Sys2Proof.Machine.execNoseWatchdogExpiry s
  | .linkRecovery => Sys2Proof.Machine.execLinkRecovery s
  | .linkRecoveryEnd width rate => Sys2Proof.Machine.execLinkRecoveryEnd width rate s
  | .hostLinkDown discarded => Sys2Proof.Machine.execHostLinkDown discarded s
  | .crownUe table bank => Sys2Proof.Machine.execCrownUe table bank s
  | .irqCoalesceTimer => Sys2Proof.Machine.execIrqCoalesceTimer s
  | .eventFlashCopy => Sys2Proof.Machine.execEventFlashCopy s
  | .processorCoreAccess k op va size v h md => Sys2Proof.Machine.execProcessorCoreAccess k op va size v h md s
  | .engineInstructionEnd c vec md => Sys2Proof.Machine.execEngineInstructionEnd c vec md s
  | .creditReturn grp dir vc count => Sys2Proof.Machine.execCreditReturn grp dir vc count s
  | .hostLinkUp width rate => Sys2Proof.Machine.execHostLinkUp width rate s
  | .routerAdvertisement port auto pfx => Sys2Proof.Machine.execRouterAdvertisement port auto pfx s
  | .ptpGeneralMessage port kind better clockAcc offset => Sys2Proof.Machine.execPtpGeneralMessage port kind better clockAcc offset s
  | .inputBelow10V heldMs => Sys2Proof.Machine.execInputBelow10V heldMs s

end Sys2Proof.Machine
end

