-- ==== Sys2Proof/Safety.lean ====
section
/-! DEFINITION. The terms that claims are stated in. -/

namespace Sys2Proof

open Machine

/-- The command answers a next state, of which `P` holds. -/
def Answers (c : Instr) (s : State) (P : State → Prop) : Prop := ∃ t, exec c s = .next t ∧ P t

/-- Mailbox `m` takes commands, and firmware serves them: the link is up and decodes the BARs (R328), the package is
mailbox-ready and not host-lost (R11, R358), and the mailbox is not busy (R339). -/
abbrev Open (s : State) (m : Nat) : Prop :=
  s.host.linkUp = true ∧ s.host.memEn = true ∧ s.host.d3hot = false ∧ s.rst.step = 9 ∧ s.host.hostLost = false ∧ m < 64
    ∧ (s.mailbox m).state ≠ 1

/-- The BARs decode and the package is mailbox-ready (R328, R329). -/
abbrev Decodes (s : State) : Prop :=
  s.host.linkUp = true ∧ s.host.memEn = true ∧ s.host.d3hot = false ∧ s.rst.step = 9

/-- The state in which an accepted command begins: its mailbox is busy with it (R339). -/
def accepted (m op : Nat) (seq : BitVec 16) (n : Nat) (s : State) : State :=
  s.setMailbox m { s.mailbox m with opcode := op, inWords := n, seq := seq, stsSeq := seq, state := 1 }

/-- Payload word `k` of mailbox `m`. -/
abbrev word (s : State) (m k : Nat) : Nat := (s.mailbox m).word k

/-- Mailbox `m` is done, with the command's seq, a status and a reply (R339, Tables 14-9 and 14-11). -/
abbrev Replied (t : State) (m : Nat) (seq : BitVec 16) (status : Nat) (reply : List Nat) : Prop :=
  (t.mailbox m).state = 2 ∧ (t.mailbox m).stsSeq = seq ∧ (t.mailbox m).status = status
    ∧ (t.mailbox m).outWords = reply.length ∧ ∀ k < reply.length, word t m k = reply.getD k 0 % 2 ^ 64

/-- Nothing but the host interface differs, and no condition of the command is left. -/
abbrev OnlyHost (s t : State) : Prop := t = { s with host := t.host, run := {} }

/-- A write that a busy mailbox ignores: collision is set, and nothing else changes (R340). -/
abbrev Collides (s t : State) (m : Nat) : Prop :=
  t.mailbox m = { s.mailbox m with collision := true } ∧ (∀ k, k ≠ m → t.mailbox k = s.mailbox k) ∧ OnlyHost s t

/-- The host interface differs in nothing but messages: pending bits of vectors, messages sent, requests held. -/
abbrev OnlyMessages (h k : HostIf) : Prop := k = { h with msix := k.msix, sent := k.sent, held := k.held }

/-- What an access to device memory may change: memory, the caches and their tables, stacks' error records, messages
between dies and to the host, events, mismatch counts, the regions used in this beat. -/
abbrev MemoryFrame (s t : State) : Prop :=
  t = { s with
    mem := t.mem, l2 := t.l2, stks := t.stks, coh := t.coh, evt := t.evt, host := t.host, mism := t.mism
    felt := { s.felt with credits := t.felt.credits, stalled := t.felt.stalled }
    pwr := { s.pwr with used := t.pwr.used }, run := t.run }

/-! ## Memory -/

/-- What a byte of device memory reads as to every coherent agent (R178, R247): a dirty copy, else the home copy. -/
def memByte (s : State) (a : Nat) : Byte := (coherentLine s (a / 256)).data.getD (a % 256) 0

/-! ## Groups -/

/-- The state in which a command's work on memory begins: what the host wrote, and the conditions of storage it meets. -/
abbrev begins (h : HostWrites) (md : Media) (s : State) : State := { hostWrote h s with run := { media := md } }

/-- Nothing holds the command back, and no die was found lost. -/
abbrev Goes (s : State) : Prop := s.run.held = false ∧ s.run.fatal = []

/-- The group `g` in a slot of core `c` may issue the word `w`, which belongs to `row`, and its fetch meets nothing that stops
it (R93, R102); `u` is the state after the fetch. -/
abbrev Issues (c slot : Nat) (w : W32) (row : Row) (g : Group) (s u : State) : Prop :=
  readyGroup c slot s = some g ∧ rowOf w.toNat = some row ∧ fetchCheck c slot g s = (none, u) ∧ Goes u

/-- The group has issued, and stands as `g`: its issue is counted; no other group, no engine queue and no matrix state
changes; otherwise the package is as `v`, with the queue of `s`, but for the region's use and the end of its step. -/
abbrev Ran (c slot : Nat) (g : Group) (s v t : State) : Prop :=
  t.group c slot = some { g with issued := true, instret := g.instret + 1 } ∧
  (∀ k j, k ≠ c ∨ j ≠ slot → t.group k j = v.group k j) ∧
  (∀ k, t.core k = { v.core k with groups := (t.core k).groups, last := (t.core k).last }) ∧
  ((v.dbgOf (regionOfCore c)).stepping = false → t.dbg = v.dbg) ∧
  t = { v with pending := s.pending, cores := t.cores, pwr := { v.pwr with used := t.pwr.used }, dbg := t.dbg, run := {} }

/-- The next instruction's address (R79). -/
abbrev pcNext (g : Group) : Nat := (g.pc + 4) % 2 ^ 64

/-- A group's integer registers: `v` gives what each active lane wrote in register `r`; x0 stays zero, and every other
register of every lane is as it was (R79, R89). -/
abbrev WroteX (g h : Group) (r : Nat) (v : Nat → Option W64) : Prop :=
  ∀ l < 32, ∀ k < 32, h.xr l k = (if l ∈ lanesOf g.active ∧ k = r ∧ r ≠ 0 then (v l).getD (g.xr l k) else g.xr l k)

/-- The masks of a group nest, beneath the lanes it was launched with (R92). -/
def Nested (launch : W32) : W32 → List MaskEntry → Prop
  | a, [] => a ≠ 0 ∧ a &&& ~~~launch = 0
  | a, e :: rest => a ≠ 0 ∧ a &&& ~~~e.outer = 0 ∧ e.other &&& ~~~e.outer = 0 ∧ Nested launch e.outer rest

/-! ## Messages and transactions -/

/-- The message has been sent: it crosses the fabric, or waits for credit (R308, R311). -/
abbrev Sent (t : State) (m : FeltMsg) : Prop := m ∈ t.coh.net ∨ m ∈ t.felt.stalled

/-- A request reaches the home of stack `k`, which takes it (R246, R308, R318): its group serves, and it has credit on every hop
with no request of its die before it (R311). -/
abbrev Reaches (r : HomeReq) (k : Nat) (s : State) : Prop :=
  s.alive = true ∧ placeOf s (r.line * 256) = .stack k ∧ homeStatus r s = ST.ok ∧ wayTo s r.use r.q.die k ≠ 1 ∧
    (r.msg s).credited s = true ∧ (s.felt.stalled.any fun m => decide (m.src = r.q.die) && decide (vcOf m.op = 0)) = false

/-- The package as a request leaves its die: the victim that it names has left, or the copy that it passes (R233, R254), and it
has taken its credits (R311). -/
abbrev asSent (r : HomeReq) (s : State) : State := takeCredits (r.msg (atSender r s)) (atSender r s)

/-- A caching request may be sent (R241, R252, R254); any other request may always. -/
abbrev MaySend (r : HomeReq) (s : State) : Prop := r.kind.caching = true → mayAsk r s = true

/-- The home of stack `k` has no transaction ready to be performed, and no waiting request that it can accept (R247, R248). -/
abbrev Rests (k : Nat) (s : State) : Prop :=
  (∀ e ∈ s.coh.txns, homeOf e.1 = k → e.2.ready s = false) ∧ nextWaiting k s = none

/-- Nothing differs but what stands between homes, agents and filter, and messages on their way. -/
abbrev CoherenceFrame (s t : State) : Prop :=
  t = { s with coh := t.coh, run := {}
               felt := { s.felt with credits := t.felt.credits, stalled := t.felt.stalled } }

/-! ## Packets and jobs -/

/-- A packet of job `j` reaches its member here on a port that is up (R380, R381). -/
abbrev Comes (p : Pkt) (j : Job) (s : State) : Prop :=
  s.alive = true ∧ portUp s p.port = true ∧ jobOf s p.job = some j ∧ p.dst = j.self ∧ p.src < j.members.length ∧ p.src ≠ j.self

/-- It comes in its turn, while the job is committed or running; nothing sent to its member awaits an acknowledgement, and
no ACK falls due (R382). -/
abbrev Takes (p : Pkt) (j : Job) (s : State) : Prop :=
  Comes p j s ∧ (j.state = 1 ∨ j.state = 2) ∧ (s.path p.job p.src p.port).unacked = [] ∧
    p.seq = (s.path p.job p.src p.port).expect ∧ (s.path p.job p.src p.port).owed < 7

/-- No item at the front of a context names the job: nothing of it goes on by itself. -/
abbrev Quiet (id : Nat) (s : State) : Prop := ∀ c x i, frontItem s c = some (x, i) → i.job ≠ id

/-- A packet of an operation to a member is among those put on the wire. -/
abbrev Wired (t : State) (job op dst : Nat) (words : List W64) : Prop :=
  ∃ k ∈ t.peer.out, k.hdr.job = job ∧ k.op = op ∧ k.hdr.dst = dst ∧ k.words = words

end Sys2Proof
end

