-- ==== Sys2Proof/Certificates/Slice0/Obligations.lean ====
section
/-! DEFINITION. The statements for the provers. -/

open Sys2Proof Sys2Proof.Machine

/-- A step takes the command at the front of the queue and runs it on the state with the queue's rest. -/
def Obligations.step_runs_front : Prop :=
  ∀ (c : Instr) (s : State), step { s with pending := c :: s.pending } = exec c s

/-- R361, Table 15-1: NOP, DIE_INVENTORY, LINK_STATUS and JOB_QUERY reply as the table gives, and change nothing but the
mailbox and the vector that it sends. -/
def Obligations.query_commands_reply : Prop :=
  ∀ (s : State) (m : Nat) (seq : BitVec 16), Open s m →
    Answers (.nop m seq 0) s (fun t => Replied t m seq ST.ok [] ∧ OnlyHost s t) ∧
    Answers (.dieInventory m seq 0) s (fun t =>
      Replied t m seq ST.ok ((List.range 50).map fun k =>
        if k % 2 = 0 then (s.die (k / 2)).identity.toNat else (s.die (k / 2)).state + 256 * (s.die (k / 2)).check)
      ∧ OnlyHost s t) ∧
    Answers (.linkStatus m seq 0) s (fun t =>
      (t.mailbox m).state = 2 ∧ (t.mailbox m).status = ST.ok ∧ (t.mailbox m).outWords = 88 ∧ OnlyHost s t ∧
      ∀ k < 88, fld (word t m k) 0 2 = (s.module k).state % 4 ∧ fld (word t m k) 4 2 = (s.module k).width % 4
        ∧ fld (word t m k) 24 8 = (s.module k).retrains % 256 ∧ fld (word t m k) 32 32 = (s.module k).crc % 2 ^ 32) ∧
    (∀ j : Job, word s m 0 < 2 ^ 32 → s.peer.jobs.find? (·.id = word s m 0) = some j →
      Answers (.jobQuery m seq 1) s (fun t => Replied t m seq ST.ok [j.state, j.start] ∧ OnlyHost s t))

/-- R369, Table 15-4: CONTEXT_QUERY of a context alone gives its state, head, last seq, count of unfinished items and
stop status, and changes nothing but the mailbox. -/
def Obligations.context_query_reports : Prop :=
  ∀ (s : State) (m : Nat) (seq : BitVec 16) (x : Ctx), Open s m → word s m 0 < 2 ^ 20 → s.ctx (word s m 0) = some x →
    word s m 1 = 0 →
    Answers (.contextQuery m seq 2) s (fun t =>
      (t.mailbox m).state = 2 ∧ (t.mailbox m).status = ST.ok ∧ (t.mailbox m).stsSeq = seq ∧ (t.mailbox m).outWords = 9 ∧
      OnlyHost s t ∧
      fld (word t m 0) 0 8 = (if x.stopped then 2 else if x.items.any (fun i => i.phase = 2) then 1 else 0) ∧
      fld (word t m 0) 16 16 = x.sqHead % 2 ^ 16 ∧ fld (word t m 0) 32 16 = x.lastSeq.toNat ∧
      fld (word t m 1) 0 32 = (x.items.filter (·.phase < 3)).length % 2 ^ 32 ∧
      fld (word t m 8) 0 16 = x.stopStatus % 2 ^ 16 ∧ ∀ k, 2 ≤ k → k < 8 → word t m k = 0)

/-- R361, R39, Table 15-1: MEMORY_INVENTORY, SAT_READ and ACCORD_READ write their host buffer before they are done, where
the device may issue requests: the retirement list, the 1,385 saturation records in level order, and the accords of the
partitions named. Nothing else changes. -/
def Obligations.host_buffer_commands_report : Prop :=
  ∀ (s : State) (m : Nat) (seq : BitVec 16), Open s m → s.host.canIssue = true →
    (word s m 0 % 4096 = 0 →
      Answers (.memoryInventory m seq 1 true) s (fun t =>
        Replied t m seq ST.ok ((List.range 17).map fun k => if k < 16 then stkStatus s k else s.flash.retired.length) ∧
        t = { s with host := t.host, hostMem := t.hostMem, run := {} } ∧
        ∀ i < s.flash.retired.length,
          leNat (cellsGet t.hostMem (word s m 0 + 8 * i) 8) = s.flash.retired.getD i 0 % 2 ^ 64)) ∧
    (word s m 0 % 4096 = 0 →
      Answers (.satRead m seq 1 true) s (fun t =>
        Replied t m seq ST.ok [] ∧ t = { s with host := t.host, hostMem := t.hostMem, run := {} } ∧
        ∀ e ∈ [(0, 0, 1024), (1, 1024, 256), (2, 1280, 64), (3, 1344, 24), (4, 1368, 1), (5, 1369, 16)], ∀ i < e.2.2,
          leNat (cellsGet t.hostMem (word s m 0 + 8 * (e.2.1 + i)) 8)
            = (lookD s.sat (e.1 * 1024 + i) (0, 0)).2 % 2 ^ 39 + (lookD s.sat (e.1 * 1024 + i) (0, 0)).1 % 2 ^ 11 * 2 ^ 39
              + i * 2 ^ 50 + e.1 * 2 ^ 60)) ∧
    (∀ data, data = ((bitsOf 16 (word s m 1)).filter fun p => (s.part p).isSome).flatMap (fun p => accordBytes s p (word s m 0)) →
      word s m 1 < 2 ^ 16 → word s m 2 % 4096 = 0 → s.beat ≤ word s m 0 + 16 → word s m 0 ≤ s.beat + 2 →
      s.time.gridStart ≤ word s m 0 → data.length ≤ word s m 3 →
      Answers (.accordRead m seq 4 true) s (fun t =>
        Replied t m seq ST.ok [data.length] ∧ t = { s with host := t.host, hostMem := t.hostMem, run := {} } ∧
        cellsGet t.hostMem (word s m 2) data.length = data))

/-- R361, R407, R416, R44, R221, R343: commands that set one thing of the package set it, and leave every other part of
the state as it was. -/
def Obligations.setting_commands_set : Prop :=
  ∀ (s : State) (m : Nat) (seq : BitVec 16), Open s m →
    (word s m 0 < 3 → s.lockstepLive = false → word s m 0 ≠ s.time.source →
      Answers (.timeSource m seq 1) s (fun t =>
        Replied t m seq ST.ok [] ∧ t.time.source = word s m 0 ∧ t.time.locked = false ∧ t.time.now = s.time.now ∧
        t.time.epoch = s.time.epoch ∧ t.time.period = s.time.period ∧
        t = { s with host := t.host, time := t.time, run := {} })) ∧
    (3200 ≤ word s m 0 → word s m 0 ≤ 4000 → (∀ j ∈ s.peer.jobs, j.lockstep = true → 3 ≤ j.state) →
      Answers (.powerCap m seq 1) s (fun t =>
        (t.mailbox m).state = 2 ∧ (t.mailbox m).status = ST.ok ∧ (t.mailbox m).outWords = 1 ∧
        t = { s with host := t.host, pwr := { s.pwr with cap := word s m 0 }
                     plan := { s.plan with caps := (s.firstOpen, word s m 0) :: s.plan.caps }, run := {} })) ∧
    (∀ f, 16 ≤ f → f ≤ 230 → word s m 0 = 1 + 256 * f →
      Answers (.smoothing m seq 1) s (fun t =>
        (t.mailbox m).state = 2 ∧ (t.mailbox m).status = ST.ok ∧ (t.mailbox m).outWords = 1 ∧
        t = { s with host := t.host, pwr := { s.pwr with smoothing := true, floor256 := f }, run := {} })) ∧
    (word s m 0 = 0 →
      Answers (.smoothing m seq 1) s (fun t =>
        (t.mailbox m).state = 2 ∧ (t.mailbox m).status = ST.ok ∧ (t.mailbox m).outWords = 1 ∧
        t = { s with host := t.host, pwr := { s.pwr with smoothing := false, floor256 := 0 }, run := {} })) ∧
    (50 ≤ word s m 1 → word s m 1 ≤ 2000 → word s m 0 ≤ s.time.nextBoundary → s.firmPending = false →
      s.lockstepLive = false →
      Answers (.beatSet m seq 2) s (fun t =>
        Replied t m seq ST.ok [s.time.nextBoundary] ∧
        t = { s with host := t.host, time := { s.time with newGrid := some (word s m 0, word s m 1) }, run := {} })) ∧
    (∀ p q, p < 16 → word s m 0 = p + 256 → s.rst.capReserve ≠ 0 → s.part p = some q →
      (∀ e ∈ s.parts, e.1 ≠ p → e.2.maintenance = false) →
      Answers (.reserveMode m seq 1) s (fun t =>
        Replied t m seq ST.ok [] ∧ t.part p = some { q with maintenance := true } ∧
        t = { s with host := t.host, parts := t.parts, run := {} } ∧ ∀ k, k ≠ p → t.part k = s.part k)) ∧
    Answers (.resetDevice m seq 0) s (fun t =>
        t.rst.step = 2 ∧ t.rst.cause = 2 ∧ t.host.linkUp = false ∧ t.ctxs = [] ∧ t.parts = [] ∧ t.mem = {} ∧
        t.flash.retired = s.flash.retired ∧ t.flash.events = s.flash.events ∧ t.flash.rows = s.flash.rows ∧
        t.flash.staged = s.flash.staged ∧ t.pending = s.pending ∧ ∀ d, (t.die d).identity = (s.die d).identity)

/-- R239, Table 09-5: the cache commands act on the L2s that the mask names, within their partition, and on no other:
INVALIDATE_ALL empties them, ENABLE needs them invalidated and no FIRM item, DISABLE empties and turns them off, POLICY
sets the prefetcher and the store detector. -/
def Obligations.cache_commands_act : Prop :=
  ∀ (s : State) (m : Nat) (seq : BitVec 16) (q : Partition), Open s m → word s m 0 < 16 → word s m 1 < 2 ^ 16 →
    s.part (word s m 0) = some q → BitVec.ofNat 16 (word s m 1) &&& q.brims = BitVec.ofNat 16 (word s m 1) →
    let named := fun d => d < 16 ∧ (word s m 1).testBit d = true
    ((∀ d, named d → (s.l2Of d).enabled = false) →
      Answers (.cacheInvalidateAll m seq 2) s (fun t =>
        Replied t m seq ST.ok [] ∧ t = { s with host := t.host, l2 := t.l2, run := {} } ∧
        ∀ d, (named d → t.l2Of d = { s.l2Of d with lines := [], side := [], flight := [], invalidated := true }) ∧
          (¬ named d → t.l2Of d = s.l2Of d))) ∧
    ((∀ d, named d → (s.l2Of d).invalidated = true) → firmItems s (word s m 0) = [] →
      Answers (.cacheEnable m seq 2) s (fun t =>
        Replied t m seq ST.ok [] ∧ t = { s with host := t.host, l2 := t.l2, run := {} } ∧
        ∀ d, (named d → t.l2Of d = { s.l2Of d with enabled := true }) ∧ (¬ named d → t.l2Of d = s.l2Of d))) ∧
    (firmItems s (word s m 0) = [] →
      Answers (.cacheDisable m seq 2) s (fun t =>
        Replied t m seq ST.ok [] ∧ t = { s with host := t.host, l2 := t.l2, mem := t.mem, run := {} } ∧ t.mem.bytes = s.mem.bytes ∧
        ∀ d, (named d → (t.l2Of d).enabled = false ∧ (t.l2Of d).lines = [] ∧ (t.l2Of d).invalidated = false) ∧
          (¬ named d → t.l2Of d = s.l2Of d))) ∧
    (∀ w, w < 4 → word s m 2 = w →
      Answers (.cachePolicy m seq 3) s (fun t =>
        Replied t m seq ST.ok [] ∧ t = { s with host := t.host, l2 := t.l2, run := {} } ∧
        ∀ d, (named d → (t.l2Of d).prefetch = w.testBit 0 ∧ (t.l2Of d).seqDetect = w.testBit 1
            ∧ (t.l2Of d).lines = (s.l2Of d).lines ∧ (t.l2Of d).enabled = (s.l2Of d).enabled) ∧
          (¬ named d → t.l2Of d = s.l2Of d)))

/-- R361: DEBUG_HALT halts every region of its mask with cause 3, a region halted already keeping its cause, and its
resume leaves none of them halted; no other region changes. -/
def Obligations.debug_halt_and_resume : Prop :=
  ∀ (s : State) (m : Nat) (seq : BitVec 16) (q : Partition), Open s m → word s m 0 < 16 →
    s.part (word s m 0) = some q → q.debug = true →
    (∀ r < 64, (word s m 1).testBit r = true → q.brims.getLsbD (r / 4) = true) →
    (word s m 2 = 0 →
      Answers (.debugHalt m seq 3) s (fun t =>
        Replied t m seq ST.ok [] ∧ t = { s with host := t.host, dbg := t.dbg, pwr := t.pwr, run := {} } ∧
        ∀ r < 64, ((word s m 1).testBit r = true →
            (t.dbgOf r).cause = (if (s.dbgOf r).cause = 0 then 3 else (s.dbgOf r).cause)) ∧
          ((word s m 1).testBit r = false → t.dbgOf r = s.dbgOf r))) ∧
    (word s m 2 = 1 →
      Answers (.debugHalt m seq 3) s (fun t =>
        Replied t m seq ST.ok [] ∧ t = { s with host := t.host, dbg := t.dbg, run := {} } ∧
        ∀ r < 64, ((word s m 1).testBit r = true → t.halted r = false) ∧
          ((word s m 1).testBit r = false → t.dbgOf r = s.dbgOf r)))

/-- R31, R362, R364, R365: the creating commands make what their payload names, and change nothing else. -/
def Obligations.create_commands_create : Prop :=
  ∀ (s : State) (m : Nat) (seq : BitVec 16), Open s m →
    (∀ x, x = partPayload s m →
      x.inRange = true → x.brims ≠ 0 → x.brims < 2 ^ 16 → x.select = 0 → (x.route ≠ 2 ∧ x.flags.testBit 1 = false) →
      s.part x.p = none →
      (∀ d < 16, x.brims.testBit d = true → s.dieHere d = true ∧ s.partOfBrim d = none) →
      (∀ d < 4, x.procs.testBit d = true → s.dieHere (16 + d) = true ∧ s.partOfProc d = none) →
      (∀ e ∈ (shareSums s).zip (x.shares.map fun v => if v = 0 then 16 * (bitsOf 16 x.brims).length else v),
        e.1 + e.2 ≤ 256) →
      Answers (.partitionCreate m seq 3) s (fun t =>
        Replied t m seq ST.ok [] ∧ t = { s with host := t.host, parts := t.parts, run := {} } ∧
        (∃ q, t.part x.p = some q ∧ q.brims.toNat = x.brims ∧ q.procs.toNat = x.procs ∧ q.scopedModel = x.flags.testBit 0
          ∧ q.debug = false ∧ q.observe = x.flags.testBit 2 ∧ q.migrate = !x.flags.testBit 3 ∧ q.route = x.route
          ∧ q.window = x.window ∧ q.wakeUs = x.wake ∧ q.maintenance = false ∧ q.fatal = false) ∧
        ∀ k, k ≠ x.p → t.part k = s.part k)) ∧
    (∀ asid p q, asid < 4096 → p < 16 → word s m 0 = asid + p * 2 ^ 16 → look s.aspaces asid = none →
      s.part p = some q → q.fatal = false → word s m 1 % 65536 = 0 → inPartMemory s p (word s m 1) = true →
      Answers (.aspaceCreate m seq 2) s (fun t =>
        Replied t m seq ST.ok [] ∧ t = { s with host := t.host, aspaces := t.aspaces, run := {} } ∧
        look t.aspaces asid = some { part := p, root := word s m 1 } ∧
        ∀ k, k ≠ asid → look t.aspaces k = look s.aspaces k)) ∧
    (∀ a q k, ctxPayloadOk s m = true → s.ctx (fld (word s m 0) 0 20) = none →
      look s.aspaces (fld (word s m 0) 32 12) = some a → s.part a.part = some q → q.fatal = false →
      ((word s m 0).testBit 49 = true ∧ (word s m 0).testBit 50 = true ∧ (word s m 0).testBit 51 = true) →
      storeFor s q = some k →
      Answers (.contextCreate m seq 8) s (fun t =>
        Replied t m seq ST.ok [] ∧ t = { s with host := t.host, ctxs := t.ctxs, run := {} } ∧
        (∃ x, t.ctx (fld (word s m 0) 0 20) = some x ∧ x.asid = fld (word s m 0) 32 12 ∧ x.part = a.part
          ∧ x.sqBase = word s m 1 ∧ x.cqBase = word s m 2 ∧ x.headAddr = word s m 4 ∧ x.store = k
          ∧ x.sqHead = 0 ∧ x.tail = 0 ∧ x.lastSeq = 0 ∧ x.nextSeq = 1 ∧ x.sqPhase = true ∧ x.cqPhase = true
          ∧ x.stopped = false ∧ x.items = []) ∧
        ∀ c, c ≠ fld (word s m 0) 0 20 → t.ctx c = s.ctx c))

/-- R364, R363, R367, R368: PARTITION_DESTROY removes the partition and turns its regions off; PARTITION_SET changes the
selected settings, route, window, wake budget and enforcement from the next boundary; ASPACE_DESTROY removes the address
space and every cached leaf of it, and stays busy until its drain ends; CONTEXT_DESTROY of a context with nothing left
removes it; CONTEXT_STOP of one without items stops it; ITEM_CANCEL of an item that has not begun leaves it cancelled. -/
def Obligations.destroy_and_change_commands_act : Prop :=
  ∀ (s : State) (m : Nat) (seq : BitVec 16), Open s m →
    (∀ p q, p < 16 → word s m 0 = p → s.part p = some q → (∀ e ∈ s.ctxs, e.2.part ≠ p) → (∀ e ∈ s.aspaces, e.2.part ≠ p) →
      Answers (.partitionDestroy m seq 1) s (fun t =>
        Replied t m seq ST.ok [] ∧ t.part p = none ∧ (∀ k, k ≠ p → t.part k = s.part k) ∧
        (∀ d < 16, q.brims.getLsbD d = true → ∀ r, r / 4 = d → t.regionState r = 3) ∧
        t = { s with host := t.host, parts := t.parts, pwr := { s.pwr with region := t.pwr.region }, run := {}
                     mem := { s.mem with bytes := t.mem.bytes, poison := t.mem.poison, sill := t.mem.sill }
                     cores := t.cores })) ∧
    (∀ q x, x = partPayload s m → x.inRange = true → s.part x.p = some q → x.procs = 0 → x.brims = 0 →
      x.shares = [0, 0, 0, 0] → x.flags = 0 → x.select = 0x38 → (x.route = 2 → capLists s q.brims = true) →
      Answers (.partitionSet m seq 3) s (fun t =>
        Replied t m seq ST.ok [s.beat + 1] ∧
        t.part x.p = some { q with nextRoute := some x.route, nextWindow := some x.window, nextWake := some x.wake } ∧
        (∀ k, k ≠ x.p → t.part k = s.part k) ∧ t = { s with host := t.host, parts := t.parts, run := {} })) ∧
    (∀ asid a, asid < 4096 → word s m 0 = asid → look s.aspaces asid = some a → a.pins = [] → (∀ e ∈ s.ctxs, e.2.asid ≠ asid) →
      Answers (.aspaceDestroy m seq 1) s (fun t =>
        (t.mailbox m).state = 1 ∧ look t.aspaces asid = none ∧ (∀ k, k ≠ asid → look t.aspaces k = look s.aspaces k) ∧
        (∀ d, ∀ e ∈ t.tcOf d, e.asid ≠ asid) ∧ (∃ x ∈ t.shoots, x.mbx = m ∧ x.destroys = true) ∧
        t = { s with host := t.host, aspaces := t.aspaces, tc := t.tc, ptrs := t.ptrs, shoots := t.shoots, run := {} })) ∧
    (∀ c x, c < 2 ^ 20 → word s m 0 = c → s.ctx c = some x → x.stopped = false →
      Answers (.contextStop m seq 1) s (fun t =>
        Replied t m seq ST.ok [] ∧
        ∃ y, t.ctx c = some y ∧ y.stopped = true ∧ y.stopStatus = ST.contextStopped)) ∧
    (∀ c x, c < 2 ^ 20 → word s m 0 = c → s.ctx c = some x → x.stopped = true → x.items = [] → x.held = [] →
      x.destroy = none → residentGroups s c = false → (∀ e ∈ s.ctxs, e.2.destroy = none) → tabSorted s.ctxs = true →
      Answers (.contextDestroy m seq 1) s (fun t =>
        Replied t m seq ST.ok [] ∧ t.ctx c = none ∧ (∀ k, k ≠ c → t.ctx k = s.ctx k) ∧
        t = { s with host := t.host, ctxs := t.ctxs, run := {} })) ∧
    (∀ c x i j, c < 2 ^ 20 → word s m 0 = c → s.ctx c = some x → x.items = [i, j] → i.phase = 2 → i.seq ≠ j.seq →
      word s m 1 = j.seq → j.seq < 2 ^ 32 → j.phase = 1 → j.running = false → j.cls ≠ 0 →
      (∀ e ∈ s.ctxs, ∀ k ∈ e.2.items, k.merged = []) →
      Answers (.itemCancel m seq 2) s (fun t =>
        Replied t m seq ST.ok [s.beat] ∧
        t.ctx c = some { x with items := [i, { j with phase := 3, running := false, cancelled := true
                                                      status := ST.itemCancelled, endBeat := s.beat }] } ∧
        (∀ k, k ≠ c → t.ctx k = s.ctx k) ∧
        t = { s with host := t.host, ctxs := t.ctxs, barCl := t.barCl, barDie := t.barDie, run := {} }))

/-- R270 to R273: PAGE_PIN marks every page of its run pinned and locks the leaves on the dies of the partition, the port
dies and the Crown; PAGE_UNPIN releases exactly the run; SHOOTDOWN takes every cached leaf of the run away and stays busy;
SHOOTDOWN_DRAIN_DONE completes it with the time elapsed. -/
def Obligations.page_commands_act : Prop :=
  (∀ (s : State) (m : Nat) (seq : BitVec 16), Open s m →
    (∀ asid first n a q l u, pageRun s m = some (asid, first, n) → look s.aspaces asid = some a →
      s.part a.part = some q → q.fatal = false → pinLeaves asid a.part first n (accepted m 0x0301 seq 3 s) = (some l, u) →
      (∀ d ∈ pinDies q, (((u.tcOf d).filter (·.locked)).filter fun x => !l.any x.same).length + l.length ≤ 16384) →
      Answers (.pagePin m seq 3) s (fun t =>
        (t.mailbox m).state = 2 ∧ (t.mailbox m).status = ST.ok ∧
        (∃ x, look t.aspaces asid = some x ∧ x.root = a.root ∧ (∀ i < n, first + i ∈ x.pins) ∧ ∀ v ∈ a.pins, v ∈ x.pins) ∧
        (∀ d ∈ pinDies q, ∀ e ∈ l, ∃ f ∈ t.tcOf d, f.locked = e.locked ∧ f.asid = e.asid ∧ f.big = e.big ∧ f.vpn = e.vpn) ∧
        (∀ k, k ≠ asid → look t.aspaces k = look s.aspaces k))) ∧
    (∀ asid first n a, pageRun s m = some (asid, first, n) → look s.aspaces asid = some a →
      pageContracted s asid first n = false →
      Answers (.pageUnpin m seq 3) s (fun t =>
        Replied t m seq ST.ok [] ∧
        look t.aspaces asid = some { a with pins := a.pins.filter fun v => v < first || first + n ≤ v } ∧
        (∀ k, k ≠ asid → look t.aspaces k = look s.aspaces k) ∧
        t = { s with host := t.host, aspaces := t.aspaces, tc := t.tc, run := {} })) ∧
    (∀ asid first n a, pageRun s m = some (asid, first, n) → look s.aspaces asid = some a →
      pageContracted s asid first n = false → (∀ v ∈ a.pins, v < first ∨ first + n ≤ v) →
      (∀ i < n, s.migrating asid (first + i) = false) →
      Answers (.shootdown m seq 3) s (fun t =>
        (t.mailbox m).state = 1 ∧
        (∀ d, ∀ e ∈ t.tcOf d, e.asid = asid → e.big = false → e.vpn < first ∨ first + n ≤ e.vpn) ∧
        (∀ d, ∀ e ∈ t.tcOf d, e.asid = asid → e.big = true → (e.vpn + 1) * 32 ≤ first ∨ first + n ≤ e.vpn * 32) ∧
        t = { s with host := t.host, tc := t.tc, ptrs := t.ptrs, run := {}
                     shoots := s.shoots ++ [{ mbx := m, asid, first, count := n, destroys := false }] }))) ∧
  (∀ (s : State) (m elapsed : Nat) (x : Shoot) (l : List Shoot), s.noseUp = true → s.shoots = x :: l → x.mbx = m →
    x.started = true → holdsLeaf s x.asid x.first x.count = false →
    Answers (.shootdownDrainDone m elapsed) s (fun t =>
      (t.mailbox m).state = 2 ∧ (t.mailbox m).status = ST.ok ∧ (x.destroys = false → word t m 0 = elapsed % 2 ^ 64) ∧
      t = { s with host := t.host, shoots := l, run := {} })) ∧
  (∀ (s : State) (m elapsed : Nat) (x : Shoot) (l : List Shoot), s.noseUp = true → s.shoots = x :: l → x.mbx = m →
    x.started = true → holdsLeaf s x.asid x.first x.count = true →
    Answers (.shootdownDrainDone m elapsed) s (fun t => t = { s with run := {} }))

/-- R280, R283, R281: FAULT_RESUME and FAULT_ABORT resolve the record that they name; FAULT_MIGRATE leaves it migrating and
its mailbox busy, with no cached leaf of the page; MIGRATION_COPY_DONE, once every piece has moved, writes the leaf into the
level-3 table, completes that mailbox and resolves the record. -/
def Obligations.fault_commands_resolve : Prop :=
  (∀ (s : State) (m : Nat) (seq : BitVec 16) (r : FaultRec), Open s m → word s m 0 = r.part → word s m 1 = r.id →
    r.part < 16 → r.id < 2 ^ 32 → (s.part r.part).isSome = true →
    s.faults.find? (fun x => x.part = r.part && x.id = r.id) = some r → r.migrating = none →
    ((r.reason ≠ frHostAtomic ∨ ∃ q, s.part r.part = some q ∧ q.migrate = true) →
      Answers (.faultResume m seq 2) s (fun t =>
        Replied t m seq ST.ok [] ∧ (∀ x ∈ t.faults, x.part ≠ r.part ∨ x.id ≠ r.id) ∧
        (∀ x ∈ s.faults, x.part ≠ r.part ∨ x.id ≠ r.id → x ∈ t.faults) ∧
        (∀ k code, Stall.proc k code ∈ r.stalled →
          (∀ x ∈ s.faults, x.part ≠ r.part ∨ x.id ≠ r.id → Stall.proc k code ∉ x.stalled) → look t.proc k ≠ some .stalled) ∧
        (∀ d, ∀ e ∈ t.tcOf d, e.locked = true ∨ e.inRun r.asid r.page 1 = false) ∧
        t.ctxs.map (fun e => (e.1, e.2.items.map fun i => { i with lapsed := [] }, { e.2 with items := [] })) =
          s.ctxs.map (fun e => (e.1, e.2.items.map fun i => { i with lapsed := [] }, { e.2 with items := [] })) ∧
        t = { s with host := t.host, faults := t.faults, fq := t.fq, tc := t.tc, ptrs := t.ptrs, cores := t.cores, atq := t.atq
                     proc := t.proc, ctxs := t.ctxs, run := {} })) ∧
    Answers (.faultAbort m seq 2) s (fun t =>
      Replied t m seq ST.ok [] ∧ (∀ x ∈ t.faults, x.part ≠ r.part ∨ x.id ≠ r.id) ∧
      ∀ k code, Stall.proc k code ∈ r.stalled → (∀ c, Stall.proc k c ∈ r.stalled → c = code) →
        look t.proc k = some (.exception code)) ∧
    (∀ host frame leaf u, word s m 2 = host → word s m 3 = frame → word s m 4 = leaf → host % 2 ^ 26 = 0 → frame % 2 ^ 26 = 0 →
      fld leaf 62 2 = 0 → fld leaf 8 49 * 256 = frame → leaf % 8 = 3 → pteBad (BitVec.ofNat 64 leaf) 3 = false →
      (∃ q, s.part r.part = some q ∧ q.migrate = true) → inPartMemory s r.part frame = true →
      s.flash.retired.contains frame = false → pinsRefuse s r.asid r.page 1 = none →
      ((look s.aspaces r.asid).bind fun a => levelThree (noseEngine r.asid r.part) r.va a.root 2 (accepted m 0x0305 seq 5 s)) = some u →
      Answers (.faultMigrate m seq 5) s (fun t =>
        (t.mailbox m).state = 1 ∧
        t.faults.find? (fun x => x.part = r.part && x.id = r.id)
          = some { r with migrating := some { mbx := m, host, frame, leaf := BitVec.ofNat 64 leaf, target := s.beat
                                              age := s.plan.nextAge } } ∧
        (∀ d, ∀ e ∈ t.tcOf d, e.inRun r.asid r.page 1 = false) ∧
        t = { s with host := t.host, tc := t.tc, ptrs := t.ptrs, faults := t.faults, run := {}
                     plan := { s.plan with nextAge := s.plan.nextAge + 1 } }))) ∧
  (∀ (s : State) (r : FaultRec) (g : Migration) (h : HostWrites), s.noseUp = true → s.host.canIssue = true →
    s.faults.find? (fun x => x.part = r.part && x.id = r.id) = some r → r.migrating = some g → g.left = 0 →
    Answers (.migrationCopyDone r.part r.id h) s (fun t =>
      (t.mailbox g.mbx).state = 2 ∧ (t.mailbox g.mbx).status = ST.ok ∧ (∀ x ∈ t.faults, x.part ≠ r.part ∨ x.id ≠ r.id) ∧
      ∀ a tbl, look s.aspaces r.asid = some a →
        levelThree (noseEngine r.asid r.part) r.va a.root 2 (hostWrote h s) = some tbl →
        ∀ i < 8, lookD t.mem.bytes (tbl + fld r.va 26 5 * 8 + i) 0 = (leBytes 8 g.leaf.toNat).getD i 0))

/-- R217, R223: FRAME_RETIRE puts a frame in the list, FRAME_UNRETIRE takes it out; STACK_RETEST takes its stack offline
and stays busy; STACK_RETEST_DONE brings it back online with every byte of the stack zero, and answers with the frames that
failed. -/
def Obligations.frame_and_stack_commands_act : Prop :=
  (∀ (s : State) (m : Nat) (seq : BitVec 16), Open s m →
    (∀ a k, word s m 0 = a → placeOf s a = .stack k → a % 2 ^ 26 = 0 → deviceContracted s (fun x => x / 2 ^ 26 = a / 2 ^ 26) = false →
      s.flash.retired.length < 512 →
      Answers (.frameRetire m seq 1) s (fun t =>
        Replied t m seq ST.ok [] ∧ a ∈ t.flash.retired ∧ (∀ x ∈ s.flash.retired, x ∈ t.flash.retired) ∧
        t = { s with host := t.host, flash := { s.flash with retired := t.flash.retired }, run := {} })) ∧
    (∀ a k, word s m 0 = a → placeOf s a = .stack k → a % 2 ^ 26 = 0 → a ∈ s.flash.retired →
      Answers (.frameUnretire m seq 1) s (fun t =>
        Replied t m seq ST.ok [] ∧
        t = { s with host := t.host, flash := { s.flash with retired := s.flash.retired.filter (· ≠ a) }, run := {} })) ∧
    (∀ k p q, k < 16 → word s m 0 = k → s.partOfBrim k = some p → s.part p = some q → q.maintenance = true →
      s.stackState k = 0 → deviceContracted s (fun x => decide (x < 2 ^ 40) && x / 2 ^ 36 = k) = false →
      Answers (.stackRetest m seq 1) s (fun t =>
        (t.mailbox m).state = 1 ∧ t.stackState k = 1 ∧ (t.stack k).retest = some m ∧
        (∀ j, j ≠ k → t.stack j = s.stack j) ∧ t = { s with host := t.host, stks := t.stks, run := {} }))) ∧
  (∀ (s : State) (m k : Nat) (bad : List Nat), s.noseUp = true → k < 16 → (s.stack k).retest = some m → s.dieHere k = true →
    Answers (.stackRetestDone k bad) s (fun t =>
      (t.mailbox m).state = 2 ∧ (t.mailbox m).status = ST.ok ∧ (t.mailbox m).outWords = 16 ∧ t.stackState k = 0 ∧
      (∀ a, a / 2 ^ 36 = k → lookD t.mem.bytes a 0 = 0) ∧ (∀ a, a / 2 ^ 36 ≠ k → lookD t.mem.bytes a 0 = lookD s.mem.bytes a 0) ∧
      (∀ l, l / 2 ^ 28 = k → t.poisoned l = false ∧ t.sillOf l = 0 ∧ wbInFlight t l = false) ∧
      ∀ f < 992, (word t m (f / 64)).testBit (f % 64) = bad.contains f))

/-- R377: FW_STAGE of an image that verifies and is not too old puts its version in the inactive slot and answers with it;
FW_UNSTAGE clears the slot. The running image and all else stay. -/
def Obligations.firmware_images_stage : Prop :=
  ∀ (s : State) (m : Nat) (seq : BitVec 16), Open s m →
    (∀ h u, u = hostWrote h s → word s m 0 % 4096 = 0 → 65536 ≤ word s m 1 → word s m 1 ≤ 2 ^ 25 →
      Config.imageGood (cellsGet u.hostMem (word s m 0) (word s m 1)) = true →
      Config.imageOld (cellsGet u.hostMem (word s m 0) (word s m 1)) = false →
      Answers (.fwStage m seq 2 true true h) s (fun t =>
        Replied t m seq ST.ok [Config.imageVersion (cellsGet u.hostMem (word s m 0) (word s m 1)) % 2 ^ 32] ∧
        t = { u with
          host := t.host, run := {}
          flash := { s.flash with staged := some (Config.imageVersion (cellsGet u.hostMem (word s m 0) (word s m 1)) % 2 ^ 32)
                                  stagedGood := true } })) ∧
    Answers (.fwUnstage m seq 0) s (fun t =>
      Replied t m seq ST.ok [] ∧ t = { s with host := t.host, flash := { s.flash with staged := none, stagedGood := true }, run := {} })

/-- R340, R358, R359: in a busy mailbox every write that sets go and every write to the payload is ignored, with collision
set, but for RESET_DEVICE, which resets the package; after a host-lost event every command but RESET_DEVICE completes with
ST_HOST_LOST, and doorbells are ignored; a request of the wrong length completes with ST_BAD_PAYLOAD and has no other
effect. -/
def Obligations.commands_refused_first : Prop :=
  ∀ (s : State) (m : Nat) (seq : BitVec 16) (n : Nat), m < 64 →
    (∀ (c : Instr) (len : Nat), (c, len) ∈
     [(Instr.nop m seq n, 0), (.dieInventory m seq n, 0), (.memoryInventory m seq n true, 1), (.linkStatus m seq n, 0),
      (.satRead m seq n true, 1), (.contextCreate m seq n, 8), (.contextDestroy m seq n, 1), (.contextQuery m seq n, 2),
      (.contextStop m seq n, 1), (.itemCancel m seq n, 2), (.partitionCreate m seq n, 3), (.partitionDestroy m seq n, 1),
      (.partitionSet m seq n, 3), (.aspaceCreate m seq n, 2), (.aspaceDestroy m seq n, 1), (.pagePin m seq n, 3),
      (.pageUnpin m seq n, 3), (.shootdown m seq n, 3), (.faultResume m seq n, 2), (.faultMigrate m seq n, 5),
      (.faultAbort m seq n, 2), (.frameRetire m seq n, 1), (.frameUnretire m seq n, 1), (.stackRetest m seq n, 1),
      (.reserveMode m seq n, 1), (.accordRead m seq n true, 4), (.beatSet m seq n, 2), (.timeSource m seq n, 1),
      (.cacheInvalidateAll m seq n, 2), (.cacheEnable m seq n, 2), (.cacheDisable m seq n, 2), (.cachePolicy m seq n, 3),
      (.powerCap m seq n, 1), (.smoothing m seq n, 1), (.debugHalt m seq n, 3), (.jobArm m seq n true [], 8),
      (.jobStop m seq n, 1), (.jobQuery m seq n, 1), (.fwStage m seq n true true [], 2), (.fwUnstage m seq n, 0)] →
    (Open s m → n ≠ len → Answers c s (fun t => Replied t m seq ST.badPayload [] ∧ OnlyHost s t)) ∧
    (Decodes s → s.host.hostLost = true → (s.mailbox m).state ≠ 1 →
      Answers c s (fun t => Replied t m seq ST.hostLost [] ∧ OnlyHost s t)) ∧
    (Decodes s → (s.mailbox m).state = 1 → Answers c s (fun t => Collides s t m))) ∧
    (Decodes s → (s.mailbox m).state = 1 → ∀ (v : W64) (w : W32),
      (∀ k h, k < 124 → Answers (.mbxDataWrite m k h v) s (fun t => Collides s t m)) ∧
      (∀ size o, size = 4 ∨ size = 8 → o % size = 0 → 0x20 ≤ o → o < 0x400 →
        Answers (.registerWrite 0 (0x10000 + m * 0x400 + o) size ⟨v, w⟩) s (fun t => Collides s t m)) ∧
      (v.getLsbD 63 = true → v.toNat % 2 ^ 16 ≠ 1 →
        Answers (.registerWrite 0 (0x10000 + m * 0x400) 8 ⟨v, w⟩) s (fun t => Collides s t m)) ∧
      (v.getLsbD 31 = true → (s.mailbox m).opcode % 2 ^ 16 ≠ 1 →
        Answers (.registerWrite 0 (0x10000 + m * 0x400 + 4) 4 ⟨v, w⟩) s (fun t => Collides s t m)) ∧
      Answers (.resetDevice m seq n) s (fun t => t.rst.step = 2 ∧ t.rst.cause = 2 ∧ t.host.linkUp = false)) ∧
    (Decodes s → s.host.hostLost = true → ∀ (v : W64) (w : W32),
      ((s.mailbox m).state ≠ 1 → v.getLsbD 63 = true → v.toNat % 2 ^ 16 ≠ 1 →
        Answers (.registerWrite 0 (0x10000 + m * 0x400) 8 ⟨v, w⟩) s (fun t =>
          Replied t m (v.extractLsb' 32 16) ST.hostLost [] ∧ OnlyHost s t)) ∧
      ((s.mailbox m).state ≠ 1 → v.getLsbD 31 = true → (s.mailbox m).opcode % 2 ^ 16 ≠ 1 →
        Answers (.registerWrite 0 (0x10000 + m * 0x400 + 4) 4 ⟨v, w⟩) s (fun t =>
          Replied t m (v.extractLsb' 0 16) ST.hostLost [] ∧ OnlyHost s t)) ∧
      Answers (.resetDevice m seq n) s (fun t => t.rst.step = 2 ∧ t.rst.cause = 2 ∧ t.host.linkUp = false) ∧
      ∀ ctx, Answers (.doorbellTail ctx v) s (fun t => t = { s with run := {} }) ∧
        Answers (.doorbellCqHead ctx v) s (fun t => t = { s with run := {} }))

/-- R340, R43, R42, R334, R441, R443, R277, R467, R468: a write or read of a register of BAR0, or of the I3C target, has the
effect of its fields' access codes, and no other. -/
def Obligations.register_accesses_act : Prop :=
  ∀ (s : State) (v : W64), Decodes s →
    (∀ m k, m < 64 → k < 124 → (s.mailbox m).state ≠ 1 →
      Answers (.mbxDataWrite m k .whole v) s (fun t =>
        word t m k = v.toNat ∧ (∀ j, j ≠ k → word t m j = word s m j) ∧ (∀ n, n ≠ m → t.mailbox n = s.mailbox n) ∧ OnlyHost s t) ∧
      Answers (.mbxDataWrite m k .low v) s (fun t => word t m k = word s m k / 2 ^ 32 * 2 ^ 32 + v.toNat % 2 ^ 32 ∧ OnlyHost s t)) ∧
    Answers .timeNowLowRead s (fun t =>
      t.host.reply = .value (BitVec.ofNat 64 (s.time.now % 2 ^ 32)) ∧
      t = { s with host := { s.host with reply := t.host.reply }, run := {}
                   time := { s.time with latch := some (BitVec.ofNat 32 (s.time.now / 2 ^ 32)) } }) ∧
    Answers .timeNowHighRead s (fun t =>
      t.host.reply = .value (BitVec.ofNat 64 (match s.time.latch with | some x => x.toNat | none => s.time.now / 2 ^ 32)) ∧
      t = { s with host := { s.host with reply := t.host.reply }, run := {}, time := { s.time with latch := none } }) ∧
    Answers (.timeFaultClear v) s (fun t =>
      t = { s with time := { s.time with timeFault := s.time.timeFault && !v.getLsbD 3 }, run := {} }) ∧
    Answers (.bar4WinWrite v) s (fun t => t = { s with host := { s.host with win := v.toNat / 2 ^ 28 % 2 ^ 13 }, run := {} }) ∧
    Answers (.evtHeadWrite v) s (fun t =>
      t = { s with run := {}, evt := if 1007 < v.toNat % 1024 then s.evt else
        { s.evt with head := v.toNat % 1024, unread := s.evt.unread - (v.toNat % 1024 + 1008 - s.evt.head) % 1008 } }) ∧
    Answers (.evtCfgWrite v) s (fun t =>
      t.evt.vector = v.toNat / 2 ^ 16 % 2 ^ 11 ∧ t.evt.irqClass = v.toNat / 2 ^ 8 % 8 ∧ t.evt.irqEn = v.getLsbD 0 ∧
      t.evt.slots = s.evt.slots ∧ t.evt.unread = s.evt.unread ∧ t = { s with evt := t.evt, host := t.host, run := {} }) ∧
    (∀ p, p < 16 → (s.fqOf p).pending = [] →
      Answers (.fqHeadWrite p v) s (fun t =>
        (t.fqOf p).head = v.toNat % 4096 ∧
        (t.fqOf p).unread = (s.fqOf p).unread - (v.toNat % 4096 + 4096 - (s.fqOf p).head) % 4096 ∧
        (∀ k, k ≠ p → t.fqOf k = s.fqOf k) ∧ t = { s with fq := t.fq, run := {} })) ∧
    (∀ p, p < 16 → (s.fqOf p).pending = [] →
      Answers (.fqEnableWrite p v) s (fun t =>
        (t.fqOf p).enable = v.getLsbD 0 ∧ (t.fqOf p).vector = v.toNat / 2 ^ 16 % 2 ^ 11 ∧
        (v.getLsbD 0 = true → (s.fqOf p).enable = false →
          (t.fqOf p).head = 0 ∧ (t.fqOf p).tail = 0 ∧ (t.fqOf p).phase = true ∧ (t.fqOf p).unread = 0) ∧
        (∀ k, k ≠ p → t.fqOf k = s.fqOf k) ∧ t = { s with fq := t.fq, run := {} })) ∧
    Answers (.i3cSyncTodWrite v) s (fun t =>
      t = { s with time := { s.time with tod := v.toNat % 2 ^ 48, todFresh := true, todAt := s.time.now }, run := {} }) ∧
    Answers (.i3cSyncAccWrite v) s (fun t =>
      t = { s with time := { s.time with delayNs := v.toNat / 2 ^ 32 % 2 ^ 20, accNs := v.toNat % 2 ^ 20 }, run := {} })

/-- R8, R9, R330, R337: REGISTER_WRITE of a bad size or alignment completes with Unsupported Request and changes nothing
else; at an offset with no register it changes nothing; at CRN_MBX_CFG, CRN_PWR_STATUS and an MSI-X entry it sets what the
fields' codes give, and a masked vector that was pending is sent when it is unmasked. -/
def Obligations.register_write_follows_codes : Prop :=
  ∀ (s : State) (v : W64) (w : W32), Decodes s →
    (∀ bar off size, ¬ (size = 8 ∧ off % 8 = 0) → ¬ (size = 4 ∧ off % 4 = 0) →
      Answers (.registerWrite bar off size ⟨v, w⟩) s (fun t => t = { s with host := { s.host with reply := .ur }, run := {} })) ∧
    (∀ off, off % 8 = 0 → (off < 0x10 ∨ (0x18 ≤ off ∧ off < 0x10000) ∨ (0x30028 ≤ off ∧ off < 0x40010)
        ∨ (0x51000 ≤ off ∧ off < 0x80000) ∨ (0x88000 ≤ off ∧ off < 0x1000000) ∨ 0x2000000 ≤ off) →
      Answers (.registerWrite 0 off 8 ⟨v, w⟩) s (fun t => t = { s with run := {} })) ∧
    (∀ m, m < 64 →
      Answers (.registerWrite 0 (0x10010 + m * 0x400) 8 ⟨v, w⟩) s (fun t =>
        t.mailbox m = { s.mailbox m with vector := v.toNat / 2 ^ 16 % 2 ^ 11, irqEn := v.getLsbD 0 } ∧
        (∀ n, n ≠ m → t.mailbox n = s.mailbox n) ∧ OnlyHost s t)) ∧
    Answers (.registerWrite 0 0x40010 8 ⟨v, w⟩) s (fun t =>
      t = { s with run := {}, pwr := { s.pwr with
        prevShutdown := s.pwr.prevShutdown && !v.getLsbD 7, thermalSeen := s.pwr.thermalSeen && !v.getLsbD 6
        droopSeen := s.pwr.droopSeen && !v.getLsbD 5, lowlineSeen := s.pwr.lowlineSeen && !v.getLsbD 4 } }) ∧
    (∀ k e, k < 2048 → look s.host.msix k = some e → s.host.msix = [(k, e)] → e.pending = true → v.getLsbD 32 = false →
      s.host.msixEn = true → s.host.msixMask = false → s.host.canIssue = true → s.host.hostLost = false →
      Answers (.registerWrite 0 (0x80000 + 16 * k + 8) 8 ⟨v, w⟩) s (fun t => t.host.sent = k :: s.host.sent ∧ OnlyHost s t))

/-- R346, R347, R367: the seq of the last doorbell accepted is 0 at a context's creation; a doorbell whose seq lies 1 to 32,768
ahead of it gives the ring of a context that is not stopped its new tail; a stale one changes nothing; one that names no context,
or a tail beyond the ring, is logged as DOORBELL_STRAY and leaves the context as it was; cq_head frees entries. -/
def Obligations.doorbells_ring : Prop :=
  ∀ (s : State) (c : Nat) (v : W64), Decodes s → s.host.hostLost = false →
    (∀ x, s.ctx c = some x → x.stopped = false → v.toNat % 2 ^ 16 < 2 ^ x.sqLog2 →
      ∀ d, d = (v.toNat / 2 ^ 16 % 2 ^ 16 + 2 ^ 16 - x.lastSeq.toNat) % 2 ^ 16 →
      Answers (.doorbellTail c v) s (fun t =>
        (1 ≤ d → d ≤ 32768 →
          t.ctx c = some { x with tail := v.toNat % 2 ^ 16, lastSeq := BitVec.ofNat 16 (v.toNat / 2 ^ 16) } ∧
          (∀ k, k ≠ c → t.ctx k = s.ctx k) ∧ t = { s with ctxs := t.ctxs, run := {} }) ∧
        (d = 0 ∨ 32768 < d → t = { s with run := {} }))) ∧
    (s.ctx c = none ∨ (∃ x, s.ctx c = some x ∧ 2 ^ x.sqLog2 ≤ v.toNat % 2 ^ 16) →
      Answers (.doorbellTail c v) s (fun t => t = { s with evt := t.evt, host := t.host, run := {} } ∧
        (s.evt.unread < 960 → t.evt.unread = s.evt.unread + 1 ∧
          ∃ r, look t.evt.slots s.evt.tail = some r ∧ r.code = 0x0402 ∧ r.seq = s.evt.nextSeq))) ∧
    (∀ m seq t x, s.ctx c = none → exec (.contextCreate m seq 8) s = .next t → t.ctx c = some x → x.lastSeq = 0) ∧
    (∀ x, s.ctx c = some x → v.toNat % 2 ^ 16 < 2 ^ x.cqLog2 → x.held = [] → (∀ e ∈ s.ctxs, e.2.destroy = none) →
      (v.toNat % 2 ^ 16 + 2 ^ x.cqLog2 - x.cqHead) % 2 ^ x.cqLog2 ≤ (x.cqTail + 2 ^ x.cqLog2 - x.cqHead) % 2 ^ x.cqLog2 →
      Answers (.doorbellCqHead c v) s (fun t =>
        t.ctx c = some { x with cqHead := v.toNat % 2 ^ 16 } ∧ (∀ k, k ≠ c → t.ctx k = s.ctx k) ∧
        t = { s with ctxs := t.ctxs, run := {} }))

/-- R334, R335: a BAR4 read within one line of an online stack answers with its bytes; a BAR4 write within one line stores
its bytes there, and every other byte of memory keeps its value; a request that is not served is answered with Unsupported
Request, or discarded with HOST_ACCESS logged. -/
def Obligations.bar4_requests_are_served : Prop :=
  ∀ (s : State) (off a : Nat), Decodes s → a = bar4Addr s off →
    (∀ k n, placeOf s a = .stack k → a % 256 + n ≤ 256 → 0 < n → bar4Refuses s (a / 256 * 256) = false → crownPath s 24 k = 0 →
      homeReady (a / 256) .read s = true → dirtyAt s (a / 256) = none → s.poisoned (a / 256) = false →
      s.sillOf (a / 256) = 0 →
      Answers (.bar4Read off n []) s (fun t =>
        t.host.reply = .bytes (cellsGet s.mem.bytes a n) false ∧ t.mem.bytes = s.mem.bytes ∧ t.hostMem = s.hostMem
          ∧ MemoryFrame s t)) ∧
    (∀ k data, placeOf s a = .stack k → a % 256 + data.length ≤ 256 → data ≠ [] → bar4Refuses s (a / 256 * 256) = false →
      crownPath s 24 k = 0 → homeReady (a / 256) (if data.length = 256 then .write else .part) s = true →
      dirtyAt s (a / 256) = none →
      Answers (.bar4Write off data []) s (fun t =>
        (∀ x, lookD t.mem.bytes x 0 = if a ≤ x ∧ x - a < data.length then data.getD (x - a) 0 else lookD s.mem.bytes x 0) ∧
        (∀ e ∈ t.coh.resv, e.2 ≠ a / 256) ∧ MemoryFrame s t)) ∧
    (∀ n, 0 < n → a % 256 + n ≤ 256 → bar4Refuses s (a / 256 * 256) = true →
      Answers (.bar4Read off n []) s (fun t => t = { s with host := { s.host with reply := .ur }, run := {} })) ∧
    (∀ data, data ≠ [] → a % 256 + data.length ≤ 256 → bar4Refuses s (a / 256 * 256) = true → s.evt.unread < 960 →
      Answers (.bar4Write off data []) s (fun t =>
        (∃ r, look t.evt.slots s.evt.tail = some r ∧ r.code = 0x0401) ∧
        t = { s with evt := t.evt, host := t.host, run := {} }))

/-- R328, R329, R356, R358: configuration requests, Bus Master Enable, and the link's Recovery and its end: what was held is
issued in order once the device may issue again, and nothing is lost. -/
def Obligations.host_link_commands_act : Prop :=
  (∀ (s : State) (w r : Nat), s.rst.step = 9 →
    Answers (.hostLinkUp w r) s (fun t =>
      t = { s with host := { s.host with linkUp := true, recovery := false, width := w, rate := r }, run := {} })) ∧
  ∀ (s : State), s.host.linkUp = true →
    let put := fun (m : List Host.Cell) (x : HostReq) => match x with | .write a d _ _ => cellsPut m a d | .msix _ => m
    (∀ r, s.host.rrs = true →
      Answers (.pcieConfigRequest r none) s (fun t => t = { s with host := { s.host with reply := .rrs }, run := {} })) ∧
    (s.host.rrs = false →
      Answers (.pcieConfigRequest .ids none) s (fun t =>
        t = { s with host := { s.host with reply := .value 0x25481F7B#64 }, run := {} })) ∧
    (∀ v : W32, s.host.rrs = false → s.host.held = [] →
      Answers (.pcieConfigRequest .command (some v)) s (fun t =>
        t = { s with host := { s.host with memEn := v.getLsbD 1, busEn := v.getLsbD 2, reply := .ok }, run := {} })) ∧
    (s.host.rrs = false → s.host.hostLost = false → s.host.recovery = false →
      Answers (.busMasterEnableWrite true) s (fun t =>
        t.host.held = [] ∧ t.host.busEn = true ∧ t.hostMem = s.host.held.foldl put s.hostMem ∧
        t = { s with host := t.host, hostMem := t.hostMem, run := {} })) ∧
    (s.host.rrs = false →
      Answers (.busMasterEnableWrite false) s (fun t =>
        t = { s with host := { s.host with busEn := false, reply := .ok }, run := {} })) ∧
    Answers .linkRecovery s (fun t => t = { s with host := { s.host with recovery := true }, run := {} }) ∧
    (∀ w r, s.host.recovery = true → s.host.busEn = true → s.host.hostLost = false →
      Answers (.linkRecoveryEnd w r) s (fun t =>
        t.host.recovery = false ∧ t.host.width = w ∧ t.host.rate = r ∧ t.host.held = [] ∧
        t.hostMem = s.host.held.foldl put s.hostMem ∧ t = { s with host := t.host, hostMem := t.hostMem, run := {} })) ∧
    (∀ w r, s.host.recovery = true → s.host.busEn = false →
      Answers (.linkRecoveryEnd w r) s (fun t =>
        t = { s with host := { s.host with recovery := false, width := w, rate := r }, run := {} })) ∧
    (∀ n, s.rst.step = 9 → s.ctxs = [] → s.faults = [] → s.evt.unread < 1008 →
      Answers (.hostLinkDown n) s (fun t =>
        t.host.hostLost = true ∧ t.host.linkUp = false ∧ t.host.held = [] ∧ t.idState = 3 ∧
        (∃ e, look t.evt.slots s.evt.tail = some e ∧ e.code = 0x0403 ∧ e.cls = 5) ∧
        t = { s with host := t.host, evt := t.evt, run := {} }))

/-- R80, R81, R86: an arithmetic word writes its result and its flags in each active lane; a branch on which the lanes agree
is taken or not by the group, and a link is written in every active lane; a CSR instruction reads and writes each active
lane's register, and xatomscope for the group. Nothing else changes. -/
def Obligations.lane_words_compute : Prop :=
  ∀ (c slot : Nat) (w : W32) (g : Group) (s u : State) (n : Nat), n = w.toNat →
    (Issues c slot w .alu g (begins [] [] s) u → (∀ l ∈ lanesOf g.active, (aluLane g l n).illegal = false) →
      Answers (.laneAlu c slot w) s (fun t => ∃ h, Ran c slot h s u t ∧
        h = { g with pc := pcNext g, x := h.x, f := h.f, fcsr := h.fcsr } ∧ WroteX g h (wRd n) (fun l => (aluLane g l n).x) ∧
        (∀ l < 32, ∀ k < 32, h.fr l k = (if l ∈ lanesOf g.active ∧ k = wRd n then ((aluLane g l n).f).getD (g.fr l k) else g.fr l k)) ∧
        ∀ l < 32, h.fcsrOf l
          = (if l ∈ lanesOf g.active then g.fcsrOf l ||| BitVec.ofNat 8 ((aluLane g l n).flags % 32) else g.fcsrOf l))) ∧
    (Issues c slot w .branch g (begins [] [] s) u →
      (∀ a, g.active ≠ 0 → (∀ l ∈ lanesOf g.active, branchLane g l n = (true, a)) → a % 4 = 0 →
        Answers (.laneBranch c slot w) s (fun t => ∃ h, Ran c slot h s u t ∧ h = { g with pc := a, x := h.x } ∧
          WroteX g h (wRd n) (fun _ => if wOpcode n = 0x6F ∨ wOpcode n = 0x67 then some (BitVec.ofNat 64 (g.pc + 4)) else none))) ∧
      ((∀ l ∈ lanesOf g.active, (branchLane g l n).1 = false) →
        Answers (.laneBranch c slot w) s (fun t => Ran c slot { g with pc := pcNext g } s u t))) ∧
    (∀ l, csrRead c g l 0xC00 u
      = some (BitVec.ofNat 64 ((u.time.now - g.launched) * (u.clock + Config.arrayAbove (c / 64)) / 1000))) ∧
    (∀ old : Nat → W64, Issues c slot w .csr g (begins [] [] s) u →
      (∀ l ∈ lanesOf g.active, csrRead c g l (wImm12 n) u = some (old l)) →
      (wImm12 n / 0x400 = 3 → ∀ l ∈ lanesOf g.active, csrNew g l n (old l) = none) →
      (wImm12 n = 0x8C0 → ∀ l ∈ lanesOf g.active, ∀ k ∈ lanesOf g.active, csrNew g l n (old l) = csrNew g k n (old k)) →
      Answers (.csrAccess c slot w) s (fun t => ∃ h, Ran c slot h s u t ∧
        h = { g with pc := pcNext g, x := h.x, fcsr := h.fcsr, scope := h.scope } ∧ WroteX g h (wRd n) (fun l => some (old l)) ∧
        (∀ l < 32, h.fcsrOf l = (if l ∈ lanesOf g.active then
          match csrNew g l n (old l) with | some v => (csrPut g l (wImm12 n) v).fcsrOf l | none => g.fcsrOf l else g.fcsrOf l)) ∧
        (∀ l ∈ lanesOf g.active, ∀ v, wImm12 n = 0x8C0 → csrNew g l n (old l) = some v → h.scope = v.setWidth 2) ∧
        (wImm12 n ≠ 0x8C0 ∨ (∀ l ∈ lanesOf g.active, csrNew g l n (old l) = none) → h.scope = g.scope)))

/-- R80: results of the RV64IM words in one lane: sums and differences wrap, 32-bit results are sign-extended, a quotient by
zero is all ones and the remainder the dividend, the high half of a product is that of the exact product; R79: x0 reads
zero. -/
def Obligations.integer_results_are_exact : Prop :=
  ∀ (a b : W64),
    aluBase 0 false a b = a + b ∧ aluBase 0 true a b = a - b ∧
    (aluWord 0 false a b).toInt = (BitVec.setWidth 32 (a + b)).toInt ∧
    (aluWord 0 true a b).toInt = (BitVec.setWidth 32 (a - b)).toInt ∧
    (aluBase 5 true a b).toInt = a.toInt / (2 ^ (b.toNat % 64) : Nat) ∧
    (aluBase 5 false a b).toNat = a.toNat / 2 ^ (b.toNat % 64) ∧
    (aluMul 1 a b ++ aluMul 0 a b).toInt = a.toInt * b.toInt ∧
    (aluMul 3 a b ++ aluMul 0 a b).toNat = a.toNat * b.toNat ∧
    (aluMul 2 a b ++ aluMul 0 a b).toInt = a.toInt * b.toNat ∧
    (b ≠ 0 → aluMul 4 a b * b + aluMul 6 a b = a ∧ aluMul 5 a b * b + aluMul 7 a b = a ∧ (aluMul 7 a b).toNat < b.toNat) ∧
    (b = 0 → aluMul 4 a b = BitVec.allOnes 64 ∧ aluMul 5 a b = BitVec.allOnes 64 ∧ aluMul 6 a b = a ∧ aluMul 7 a b = a) ∧
    (b = BitVec.allOnes 64 → aluMul 4 (BitVec.intMin 64) b = BitVec.intMin 64 ∧ aluMul 6 (BitVec.intMin 64) b = 0)

/-- R90: MSK.PUSH, MSK.ELSE, MSK.LOOP, MSK.BRK and MSK.POP have the effect of the procedures of the rule, on the group's
stack, active mask and pc; nothing else of the group changes, and nothing else of the package. -/
def Obligations.mask_stack_follows_procedures : Prop :=
  ∀ (c slot : Nat) (w : W32) (g : Group) (s u : State) (k : W32), k = g.ballot (wRs1 w.toNat) →
    (Issues c slot w .mskPush g (begins [] [] s) u → g.stack.length < 32 →
      Answers (.mskPush c slot w) s (fun t => Ran c slot
        (if k ≠ 0 then { g with
            stack := { loop := false, addr := mskTarget g.pc w.toNat, outer := g.active, other := g.active &&& ~~~k } :: g.stack
            active := g.active &&& k, pc := pcNext g }
          else { g with
            stack := { loop := false, addr := mskTarget g.pc w.toNat, outer := g.active, other := 0 } :: g.stack
            pc := mskTarget g.pc w.toNat }) s u t)) ∧
    (∀ e rest, g.stack = e :: rest → e.loop = false → Issues c slot w .mskElse g (begins [] [] s) u →
      Answers (.mskElse c slot w) s (fun t => Ran c slot
        (if e.other ≠ 0 then { g with active := e.other, stack := { e with other := 0 } :: rest, pc := pcNext g }
          else { g with pc := mskTarget g.pc w.toNat }) s u t)) ∧
    (Issues c slot w .mskLoop g (begins [] [] s) u → g.stack.length < 32 →
      Answers (.mskLoop c slot w) s (fun t => Ran c slot
        { g with stack := { loop := true, addr := mskTarget g.pc w.toNat, outer := g.active, other := 0 } :: g.stack
                 pc := pcNext g } s u t)) ∧
    (∀ e rest, g.stack = e :: rest → e.loop = true → Issues c slot w .mskBrk g (begins [] [] s) u →
      Answers (.mskBrk c slot w) s (fun t => Ran c slot
        (if g.active &&& ~~~k = 0
          then { g with stack := { e with other := e.other ||| (g.active &&& k) } :: rest, active := e.other ||| (g.active &&& k), pc := e.addr }
          else { g with stack := { e with other := e.other ||| (g.active &&& k) } :: rest, active := g.active &&& ~~~k
                        pc := pcNext g }) s u t)) ∧
    (∀ e rest, g.stack = e :: rest → Issues c slot w .mskPop g (begins [] [] s) u →
      Answers (.mskPop c slot w) s (fun t => Ran c slot { g with active := e.outer, stack := rest, pc := pcNext g } s u t))

/-- R92: the masks of a group stay nested beneath the lanes it was launched with, and its active mask is never empty, whatever
a mask-stack, ballot or branch command answers. -/
def Obligations.masks_stay_nested : Prop :=
  ∀ (cmd : Instr) (c slot : Nat) (w : W32) (s t : State) (launch : W32) (g h : Group),
    cmd ∈ [Instr.mskPush c slot w, .mskElse c slot w, .mskLoop c slot w, .mskBrk c slot w, .mskPop c slot w,
      .mskBal c slot w, .mskAny c slot w, .mskAll c slot w, .xwGaddr c slot w, .laneBranch c slot w] →
    exec cmd s = .next t → s.group c slot = some g → t.group c slot = some h →
    Nested launch g.active g.stack → Nested launch h.active h.stack

/-- R89: MSK.BAL, MSK.ANY, MSK.ALL and XW.GADDR write their value in rd of every active lane, and change nothing else. -/
def Obligations.ballots_write_every_lane : Prop :=
  ∀ (c slot : Nat) (w : W32) (g : Group) (s u : State) (k : W32), k = g.ballot (wRs1 w.toNat) →
    let Gives := fun (t : State) (v : W64) =>
      ∃ h, Ran c slot h s u t ∧ h = { g with pc := pcNext g, x := h.x } ∧ WroteX g h (wRd w.toNat) (fun _ => some v)
    (∀ l < 32, k.getLsbD l = (decide (l ∈ lanesOf g.active) && decide (g.xr l (wRs1 w.toNat) ≠ 0))) ∧
    (Issues c slot w .mskBal g (begins [] [] s) u → Answers (.mskBal c slot w) s fun t => Gives t (k.setWidth 64)) ∧
    (Issues c slot w .mskAny g (begins [] [] s) u → Answers (.mskAny c slot w) s fun t => Gives t (if k = 0 then 0 else 1)) ∧
    (Issues c slot w .mskAll g (begins [] [] s) u →
      Answers (.mskAll c slot w) s fun t => Gives t (if k = g.active then 1 else 0)) ∧
    (∀ x, u.ctx g.ctx = some x → Issues c slot w .xwGaddr g (begins [] [] s) u →
      Answers (.xwGaddr c slot w) s fun t => Gives t (BitVec.ofNat 64
        (x.winbase + (g.ux (wRs2 w.toNat)).toNat * 0x100000 + (g.ux (wRs1 w.toNat)).toNat % 0x100000)))

/-- R97, R98, R99: a group that arrives first at an idle barrier waits there, and fixes its count and context; the last
arrival lets every waiting group go on, and the barrier is idle again; a wrong count or context stops the context
of the group with ST_GROUP_EXCEPTION. -/
def Obligations.barriers_gather_groups : Prop :=
  ∀ (c slot : Nat) (w : W32) (g : Group) (s u : State) (die : Bool) (n key : Nat),
    (if die then Issues c slot w .barDie g (begins [] [] s) u else Issues c slot w .barCl g (begins [] [] s) u) →
    n = (g.ux (wRs1 w.toNat)).toNat → key = (if die then c / 64 else c / 4) * 8 + wImm12 w.toNat % 8 → mustFence c slot u = false →
    let cmd := if die then Instr.barDie c slot w else .barCl c slot w
    let at_ := fun (v : State) => look (if die then v.barDie else v.barCl) key
    (at_ u = none → 2 ≤ n → n ≤ (if die then 1024 else 64) →
      n ≤ launchedOn g ((List.range (if die then 64 else 4)).map ((if die then c / 64 * 64 else c / 4 * 4) + ·)) u →
      Answers cmd s (fun t => at_ t = some { count := n, ctx := g.ctx, waiting := [(c, slot)] } ∧
        (∀ k, k ≠ key → look t.barCl k = look u.barCl k ∧ look t.barDie k = look u.barDie k) ∧
        Ran c slot { g with wait := .barrier die key } s { u with barCl := t.barCl, barDie := t.barDie } t)) ∧
    (∀ b, at_ u = some b → b.count = n → b.ctx = g.ctx → b.waiting.length + 1 < n →
      Answers cmd s (fun t => at_ t = some { b with waiting := b.waiting ++ [(c, slot)] } ∧
        Ran c slot { g with wait := .barrier die key } s { u with barCl := t.barCl, barDie := t.barDie } t)) ∧
    (∀ b, at_ u = some b → b.count = n → b.ctx = g.ctx → b.waiting.length + 1 = n → b.waiting.Nodup → (c, slot) ∉ b.waiting →
      Answers cmd s (fun t => at_ t = none ∧
        (∃ h, t.group c slot = some h ∧ h.wait = .none ∧ h.pc = pcNext g ∧ h.active = g.active ∧ h.stack = g.stack) ∧
        (∀ e ∈ b.waiting, ∀ x, u.group e.1 e.2 = some x → t.group e.1 e.2 = some { x with wait := .none, pc := pcNext x }) ∧
        (∀ e, e ∉ b.waiting → e ≠ (c, slot) → t.group e.1 e.2 = u.group e.1 e.2) ∧ t.mem = u.mem)) ∧
    (∀ b x, at_ u = some b → b.ctx ≠ g.ctx → u.ctx g.ctx = some x → x.stopped = false →
      (∀ e ∈ u.ctxs, ∀ i ∈ e.2.items, i.merged = []) → b.waiting ≠ [] →
      (∀ e ∈ b.waiting, ∃ y, u.group e.1 e.2 = some y ∧ y.ctx ≠ g.ctx ∧ u.groupLive y = true) →
      Answers cmd s (fun t => at_ t = some b ∧ (t.ctx g.ctx).any (fun y => y.stopped && y.stopStatus = ST.groupException) = true))

/-- R102, R103: a group that meets an exception stops its context with ST_GROUP_EXCEPTION; the word has no effect in any lane:
the group's registers, masks and pc, and memory, are as they were. The causes here are an illegal word, a divergent branch, a
misaligned access, a mask stack that is full, empty or of the wrong kind, and GRP.END with entries left. -/
def Obligations.exceptions_stop_the_context : Prop :=
  ∀ (c slot : Nat) (w : W32) (g : Group) (s u : State) (x : Ctx), u.ctx g.ctx = some x → x.stopped = false →
    (∀ i, u.item g.ctx g.seq = some i → i.merged = []) →
    let Stopped := fun (t : State) =>
      (t.ctx g.ctx).any (fun y => y.stopped && y.stopStatus = ST.groupException) = true ∧
      (∃ h, t.group c slot = some h ∧ h = { g with wait := h.wait }) ∧
      ((∀ e ∈ u.ctxs, e.2.cqHost = true) → t.mem = u.mem)
    (readyGroup c slot (begins [] [] s) = some g → rowOf w.toNat = none → fetchCheck c slot g (begins [] [] s) = (none, u) →
      Goes u → ∀ cmd ∈ [Instr.laneAlu c slot w, .laneBranch c slot w, .laneLoad c slot w [] [], .laneStore c slot w [] [],
        .laneAmo c slot w [] [], .csrAccess c slot w, .mskPush c slot w, .barCl c slot w, .grpEnd c slot w, .flgRel c slot w [] [],
        .mxCfg c slot w, .vxAdd c slot w], Answers cmd s Stopped) ∧
    (Issues c slot w .branch g (begins [] [] s) u →
      (∃ l ∈ lanesOf g.active, ∃ k ∈ lanesOf g.active, (branchLane g l w.toNat).1 ≠ (branchLane g k w.toNat).1) →
      Answers (.laneBranch c slot w) s Stopped) ∧
    ((∃ l ∈ lanesOf g.active, (g.xr l (wRs1 w.toNat) + BitVec.ofInt 64 (immI w.toNat)).toNat % memSize w.toNat ≠ 0) →
      Issues c slot w .load g (begins [] [] s) u → Answers (.laneLoad c slot w [] []) s Stopped) ∧
    (Issues c slot w .mskPush g (begins [] [] s) u → g.stack.length = 32 → Answers (.mskPush c slot w) s Stopped) ∧
    (Issues c slot w .mskLoop g (begins [] [] s) u → g.stack.length = 32 → Answers (.mskLoop c slot w) s Stopped) ∧
    (Issues c slot w .mskElse g (begins [] [] s) u → (∀ e ∈ g.stack.head?, e.loop = true) → Answers (.mskElse c slot w) s Stopped) ∧
    (Issues c slot w .mskBrk g (begins [] [] s) u → (∀ e ∈ g.stack.head?, e.loop = false) → Answers (.mskBrk c slot w) s Stopped) ∧
    (Issues c slot w .mskPop g (begins [] [] s) u → g.stack = [] → Answers (.mskPop c slot w) s Stopped) ∧
    (Issues c slot w .grpEnd g (begins [] [] s) u → g.stack ≠ [] → Answers (.grpEnd c slot w) s Stopped)

/-- R82, R83, R193: a load writes rd of each active lane with the bytes that its address names, extended or boxed by the
word; no byte of memory changes (an RLC holds no line in M or O, R241), and nothing of the group but rd and pc. -/
def Obligations.loads_write_rd : Prop :=
  ∀ (c slot : Nat) (w : W32) (h : HostWrites) (md : Media) (g : Group) (s u v y : State) (n : Nat)
    (ps : List (Nat × Where)) (ls : List (Nat × Got)), n = w.toNat → Issues c slot w .load g (begins h md s) u →
    laneTargets c slot g { rd := true } (memSize n) (laneAddrs g (wRs1 n) (immI n)) u = (ps, none, v) →
    loadLines c (linesTouched ps) v = (ls, y) → Goes y →
    (∀ p ∈ ps, (placeBytes ls (memSize n) y p.2).poison = false) →
    Answers (.laneLoad c slot w h md) s (fun t => ∃ k, Ran c slot k s y t ∧
      k = { g with pc := pcNext g, x := k.x, f := k.f } ∧
      (∀ p ∈ ps, ∀ b, b = leNat (placeBytes ls (memSize n) y p.2).data →
        (wOpcode n = 0x03 → wRd n ≠ 0 → k.xr p.1 (wRd n)
          = if wF3 n < 4 then BitVec.ofInt 64 (signed (8 * memSize n) b) else BitVec.ofNat 64 b) ∧
        (wOpcode n = 0x07 → k.fr p.1 (wRd n) = if memSize n = 4 then box b else BitVec.ofNat 64 b)) ∧
      (∀ l < 32, ∀ r < 32, (l ∉ lanesOf g.active ∨ r ≠ wRd n ∨ wOpcode n = 0x07) → k.xr l r = g.xr l r) ∧
      (∀ l < 32, ∀ r < 32, (l ∉ lanesOf g.active ∨ r ≠ wRd n ∨ wOpcode n ≠ 0x07) → k.fr l r = g.fr l r) ∧
      ps.map (·.1) = lanesOf g.active ∧
      ∀ a < 2 ^ 42, (∀ e, agentLine s (dieOfCore c) (a / 256) = some e → e.st = .E ∨ e.st = .S) → memByte t a = memByte s a)

/-- R83, R84: a load from the core's own scratchpad through the aperture gives the bytes stored there; a store puts them
there, and every other byte of memory keeps its value. -/
def Obligations.scratchpad_words_round_trip : Prop :=
  ∀ (c slot : Nat) (w : W32) (g : Group) (s u : State) (n : Nat) (o : Nat → Nat), n = w.toNat → c < 1024 →
    (∀ l ∈ lanesOf g.active, o l < 2 ^ 20 ∧ o l % memSize n = 0 ∧
      (Issues c slot w .load g (begins [] [] s) u → u.poisoned (lineOf (windowBase c + o l)) = false ∧
        u.sillOf (lineOf (windowBase c + o l)) = 0)) →
    (Issues c slot w .load g (begins [] [] s) u → wOpcode n = 0x03 → wRd n ≠ 0 →
      (∀ l ∈ lanesOf g.active, (g.xr l (wRs1 n) + BitVec.ofInt 64 (immI n)).toNat = apertureBase + o l) →
      Answers (.laneLoad c slot w [] []) s (fun t => ∃ k, t.group c slot = some k ∧ k.pc = pcNext g ∧ t.mem = u.mem ∧
        ∀ l ∈ lanesOf g.active, ∀ b, b = leNat (cellsGet u.mem.bytes (windowBase c + o l) (memSize n)) →
          k.xr l (wRd n) = if wF3 n < 4 then BitVec.ofInt 64 (signed (8 * memSize n) b) else BitVec.ofNat 64 b)) ∧
    (Issues c slot w .store g (begins [] [] s) u → wOpcode n = 0x23 →
      (∀ l ∈ lanesOf g.active, (g.xr l (wRs1 n) + BitVec.ofInt 64 (immS n)).toNat = apertureBase + o l) →
      (∀ l ∈ lanesOf g.active, ∀ k ∈ lanesOf g.active, l ≠ k → o l ≠ o k) →
      Answers (.laneStore c slot w [] []) s (fun t => (∃ k, t.group c slot = some k ∧ k.pc = pcNext g ∧ k.x = g.x) ∧
        (∀ l ∈ lanesOf g.active,
          cellsGet t.mem.bytes (windowBase c + o l) (memSize n) = leBytes (memSize n) (g.xr l (wRs2 n)).toNat) ∧
        ∀ a, (∀ l ∈ lanesOf g.active, a < windowBase c + o l ∨ windowBase c + o l + memSize n ≤ a) →
          lookD t.mem.bytes a 0 = lookD u.mem.bytes a 0))

/-- R82, R85, R186, R189: a store and an AMO complete where their lanes reach memory; a store leaves every byte outside those
that its lanes name as it was, and every register; an AMO gives each lane the value before its operation, sign-extended, and
changes bytes of its own lines alone. -/
def Obligations.stores_and_atomics_complete : Prop :=
  ∀ (c slot : Nat) (w : W32) (h : HostWrites) (md : Media) (g : Group) (s u v : State) (n : Nat) (ps : List (Nat × Where)),
    n = w.toNat →
    (∀ bytes, Issues c slot w .store g (begins h md s) u →
      laneTargets c slot g { wr := true } (memSize n) (laneAddrs g (wRs1 n) (immS n)) u = (ps, none, v) →
      bytes = (ps.flatMap fun p => match p.2 with | .dev a _ => (List.range (memSize n)).map (a + ·) | _ => []) →
      (∀ p ∈ ps, ∀ a, p.2 ≠ .host a) → (∀ b k, Goes (storeLines c b (linesTouched ps) { v with free := k })) →
      Answers (.laneStore c slot w h md) s (fun t =>
        t.group c slot = some { g with pc := pcNext g, issued := true, instret := g.instret + 1 } ∧
        (∀ k j, k ≠ c ∨ j ≠ slot → t.group k j = s.group k j) ∧ t.ctxs = s.ctxs ∧ t.time = s.time ∧ t.hostMem = u.hostMem ∧
        (∀ a < 2 ^ 42, a ∉ bytes → memByte t a = memByte s a) ∧
        ∀ p ∈ ps, ∀ a, p.2 = .dev a false → (∀ i < memSize n, bytes.count (a + i) = 1) → ∀ i < memSize n,
          memByte t (a + i) = (leBytes (memSize n)
            (if wOpcode n = 0x27 then g.fr p.1 (wRs2 n) else g.xr p.1 (wRs2 n)).toNat).getD i 0)) ∧
    (∀ vals firsts olds y, Issues c slot w .amo g (begins h md s) u →
      (fld n 25 1 = 1 → mustFence c slot u = false) →
      laneTargets c slot g { atomic := true } (memSize n) (laneAddrs g (wRs1 n) 0) u = (ps, none, v) →
      vals = (ps.filterMap fun p => match p.2 with | .dev a _ => some (p.1, a, g.xr p.1 (wRs2 n)) | _ => none) →
      firsts = vals.foldr (fun x acc => x.2.1 :: acc.filter (· ≠ x.2.1)) [] →
      amoGroup (wF7 n / 4) (memSize n) vals firsts (l1Leave c (linesTouched ps) v) = (olds, y) → Goes y → (∀ o ∈ olds, o.2.2 = false) →
      Answers (.laneAmo c slot w h md) s (fun t =>
        (∃ k, t.group c slot = some k ∧ k = { g with pc := pcNext g, issued := true, instret := g.instret + 1, x := k.x } ∧
          (∀ o ∈ olds, wRd n ≠ 0 → k.xr o.1 (wRd n) = BitVec.ofInt 64 (signed (8 * memSize n) o.2.1)) ∧
          ∀ l < 32, ∀ r < 32, (l ∉ lanesOf g.active ∨ r ≠ wRd n) → k.xr l r = g.xr l r) ∧
        (∀ k j, k ≠ c ∨ j ≠ slot → t.group k j = s.group k j) ∧ t.ctxs = s.ctxs ∧ t.time = s.time ∧ t.hostMem = y.hostMem ∧
        ∀ a < 2 ^ 42, a / 256 ∉ vals.map (fun x => x.2.1 / 256) → memByte t a = memByte s a))

/-- R188, R189: an atomic at a home applies its operands in order, each to the word that the one before left, and gives back
the value before each. -/
def Obligations.atomics_apply_in_order : Prop :=
  ∀ (f5 width : Nat) (ops : List (Nat × W64)) (o : Nat) (x : W64) (d : List Byte), width = 4 ∨ width = 8 → d.length = 256 →
    (∀ e ∈ ops, e.1 * width + width ≤ 256) → o * width + width ≤ 256 →
    let one := amoRun f5 width [(o, x)] d
    let all := amoRun f5 width ((o, x) :: ops) d
    one.1 = [leAt d (o * width) width] ∧ all.1 = one.1 ++ (amoRun f5 width ops one.2).1 ∧ all.2 = (amoRun f5 width ops one.2).2 ∧
    all.2.length = 256 ∧ all.1.length = ops.length + 1 ∧
    leAt one.2 (o * width) width = amoNew f5 (8 * width) (leAt d (o * width) width) (x.toNat % 2 ^ (8 * width)) % 2 ^ (8 * width) ∧
    (∀ k, k < o * width ∨ o * width + width ≤ k → one.2.getD k 0 = d.getD k 0) ∧
    amoNew 0 64 (2 ^ 64 - 1) 1 = 0 ∧ amoNew 0x1F 64 5 7 = 5 ∧ amoNew 0x1F 64 7 5 = 2


/-- R95, R96, R180, R187, R257: FLG.REL and SEM.REL store and add at the line's home once the group's engine instructions are
done; FLG.ACQ and SEM.ACQ whose condition holds write the value read in every active lane and acquire; one whose
condition fails leaves the group waiting, with a watch on a stack line; FENCE.X waits for the engines, and acquires. -/
def Obligations.releases_and_acquires_act : Prop :=
  ∀ (c slot : Nat) (w : W32) (h : HostWrites) (md : Media) (g : Group) (s u v : State) (n a va : Nat) (al : Bool) (p q : W64),
    n = w.toNat → c < 1024 → va = (g.ux (wRs1 n)).toNat → p = g.ux (wRs1 n) → q = g.ux (wRs2 n) →
    (∀ y, Issues c slot w .flgRel g (begins h md s) u → mustFence c slot u = false →
      flagTarget c slot g { wr := true, flag := true } va u = (.dev a al, none, v) →
      y = lineWrite (lineOf a) (atOffsets (a % 256) (leBytes 8 q.toNat)) false false v → Goes y →
      Answers (.flgRel c slot w h md) s (fun t =>
        t.group c slot = some { g with pc := pcNext g, issued := true, instret := g.instret + 1 } ∧
        cellsGet t.mem.bytes a 8 = leBytes 8 q.toNat ∧
        (∀ x < 2 ^ 42, x < a ∨ a + 8 ≤ x → memByte t x = memByte s x) ∧ t.ctxs = s.ctxs)) ∧
    (∀ y olds, Issues c slot w .semRel g (begins h md s) u → mustFence c slot u = false →
      flagTarget c slot g { atomic := true } va u = (.dev a al, none, v) →
      homeAtomic (lineOf a) 0x1E 8 [(a % 256 / 8, q)] (l1Leave c [lineOf a] v) = (olds, false, y) → Goes y →
      Answers (.semRel c slot w h md) s (fun t =>
        Ran c slot { g with pc := pcNext g } s y t ∧
        leNat (cellsGet t.mem.bytes a 8) = (olds.headD 0 + q.toNat) % 2 ^ 64 ∧
        ∀ x < 2 ^ 42, x / 256 ≠ a / 256 → memByte t x = memByte s x)) ∧
    (∀ y x ge cmd, (ge = false ∧ cmd = Instr.flgAcqEq c slot w h md ∧ Issues c slot w .flgAcqEq g (begins h md s) u) ∨
        (ge = true ∧ cmd = Instr.flgAcqGe c slot w h md ∧ Issues c slot w .flgAcqGe g (begins h md s) u) →
      flagTarget c slot g { rd := true, flag := true } va u = (.dev a al, none, v) →
      lineRead (lineOf a) false (l1Leave c [lineOf a] v) = (x, y) → Goes y → x.poison = false →
      ∀ m, m = BitVec.ofNat 64 (leAt x.data (a % 256) 8) →
      ((if ge then q.toNat ≤ m.toNat else m = q) →
        Answers cmd s (fun t => (∃ k, t.group c slot = some { k with issued := true, instret := g.instret + 1 } ∧
            k = { g with pc := pcNext g, x := k.x } ∧ WroteX g k (wRd n) (fun _ => some m)) ∧
          (scopeIn g (wF7 n) y ≠ 0 → (t.core c).l1 = []) ∧ t.mem = y.mem ∧ t.ctxs = s.ctxs)) ∧
      (¬ (if ge then q.toNat ≤ m.toNat else m = q) →
        Answers cmd s (fun t =>
          t.group c slot = some { g with wait := .flag va q ge (wRd n) (wF7 n), issued := true, instret := g.instret + 1 } ∧
          (∀ k, placeOf y a = .stack k → (y.coh.watches.filter fun e => e.1 / 2 ^ 28 = a / 256 / 2 ^ 28).length < 1024 →
            (a / 256, c) ∈ t.coh.watches) ∧ t.mem = y.mem))) ∧
    (∀ y olds, Issues c slot w .semAcq g (begins h md s) u →
      flagTarget c slot g { atomic := true } va u = (.dev a al, none, v) →
      homeAtomic (lineOf a) 0x1F 8 [(a % 256 / 8, q)] (l1Leave c [lineOf a] v) = (olds, false, y) → Goes y →
      (q.toNat ≤ olds.headD 0 →
        Answers (.semAcq c slot w h md) s (fun t =>
          (∃ k, t.group c slot = some { k with issued := true, instret := g.instret + 1 } ∧
            k = { g with pc := pcNext g, x := k.x } ∧ WroteX g k (wRd n) (fun _ => some (BitVec.ofNat 64 (olds.headD 0)))) ∧
          leNat (cellsGet t.mem.bytes a 8) = olds.headD 0 - q.toNat)) ∧
      (olds.headD 0 < q.toNat →
        Answers (.semAcq c slot w h md) s (fun t =>
          t.group c slot = some { g with wait := .sem va q (wRd n) (wF7 n), issued := true, instret := g.instret + 1 } ∧
          leNat (cellsGet t.mem.bytes a 8) = olds.headD 0))) ∧
    (Issues c slot w .fenceX g (begins [] [] s) u →
      (mustFence c slot u = false →
        Answers (.fenceX c slot w) s (fun t => t.group c slot = some { g with pc := pcNext g, issued := true, instret := g.instret + 1 } ∧
          (scopeIn g (if wOpcode n = 0x0F then 3 else wF7 n) u ≠ 0 → (t.core c).l1 = []) ∧ t.mem = u.mem ∧ t.ctxs = u.ctxs)) ∧
      (mustFence c slot u = true →
        Answers (.fenceX c slot w) s (fun t => t.group c slot = some { g with wait := .fence } ∧ t.mem = u.mem ∧ t.ctxs = u.ctxs)))

/-- R96, R257: a group that waits on a flag goes on when its core reads the flag again and the condition holds, and otherwise
still waits; WAKE takes its message and has every waiting group of the core read again. -/
def Obligations.waits_end_by_rereading : Prop :=
  ∀ (c slot : Nat) (g : Group) (s u y : State) (md : Media) (a va : Nat) (q m : W64) (ge : Bool) (rd scope : Nat) (al : Bool) (x : Got),
    s.alive = true → s.group c slot = some g → g.wait = .flag va q ge rd scope → s.groupLive g = true →
    s.regionState (regionOfCore c) = 0 → runnable s c slot = true →
    m = BitVec.ofNat 64 (leAt x.data (a % 256) 8) →
    (flagTarget c slot g { rd := true, flag := true } va (begins [] md s) = (.dev a al, none, u) →
      lineRead (lineOf a) false (l1Leave c [lineOf a] u) = (x, y) → Goes y → x.poison = false →
      ((if ge then q.toNat ≤ m.toNat else m = q) →
        Answers (.flagReread c slot md) s (fun t =>
          ∃ k, t.group c slot = some k ∧ k = { g with wait := .none, pc := pcNext g, x := k.x } ∧ WroteX g k rd (fun _ => some m))) ∧
      (¬ (if ge then q.toNat ≤ m.toNat else m = q) → Answers (.flagReread c slot md) s (fun t => t.group c slot = some g))) ∧
    (∀ line, (∃ e ∈ s.coh.net, e.op = 0x35 ∧ e.tag = c ∧ e.line = line) →
      (∀ j k, j ≠ slot → s.group c j = some k → (∀ v n b r p, k.wait ≠ .flag v n b r p) ∧ ∀ v n r p, k.wait ≠ .sem v n r p) →
      flagTarget c slot g { rd := true, flag := true } va
        (begins [] [] { s with coh := { s.coh with net := dropFirst (fun e => e.op = 0x35 && e.tag = c && e.line = line) s.coh.net } })
          = (.dev a al, none, u) →
      lineRead (lineOf a) false (l1Leave c [lineOf a] u) = (x, y) → Goes y → x.poison = false → (if ge then q.toNat ≤ m.toNat else m = q) → slot < 16 →
      Answers (.wake c line) s (fun t =>
        t.coh.net = dropFirst (fun e => e.op = 0x35 && e.tag = c && e.line = line) s.coh.net ∧
        ∃ k, t.group c slot = some k ∧ k.wait = .none ∧ k.pc = pcNext g ∧ k.active = g.active))

/-- R101, R100, R103, R104: GRP.END frees the group's slot; while other groups of the slice run, nothing else changes; the last
group of a slice makes the item's next slice due, or ends the item. A group whose watchdog count has reached its context's limit
stops the context with ST_GROUP_STALL; a count below the limit, or a limit of 0, stops nothing. -/
def Obligations.groups_end_or_stall : Prop :=
  (∀ (c slot : Nat) (w : W32) (g : Group) (s u v : State), Issues c slot w .grpEnd g (begins [] [] s) u → g.stack = [] →
      mustFence c slot u = false → v = u.setCore c (fun k => { k with groups := del k.groups slot }) →
      (sliceGroups v g.ctx g.seq g.slice = true →
        Answers (.grpEnd c slot w) s (fun t => t.group c slot = none ∧
          (∀ k j, k ≠ c ∨ j ≠ slot → t.group k j = s.group k j) ∧ t.ctxs = s.ctxs ∧ t.mem = u.mem)) ∧
      (∀ i, sliceGroups v g.ctx g.seq g.slice = false → u.item g.ctx g.seq = some i → i.phase = 2 → i.merged = [] →
        (∀ e ∈ s.ctxs, e.2.destroy = none ∧ (e.2.items.map (·.seq)).Nodup) →
        Answers (.grpEnd c slot w) s (fun t => t.group c slot = none ∧
          (i.slice + 1 < i.slices → t.item g.ctx g.seq = some { i with slice := i.slice + 1, running := false }) ∧
          (i.slices ≤ i.slice + 1 → ∀ j, t.item g.ctx g.seq = some j → j.phase = 3 ∧ j.status = i.status) ∧
          (∀ k, (t.core k).mx.holder ≠ some (g.ctx, g.seq, g.slice))))) ∧
  (∀ (c slot : Nat) (s : State) (g : Group) (x : Ctx), s.alive = true → s.group c slot = some g → s.groupLive g = true →
      s.ctx g.ctx = some x → x.stopped = false → (∀ i ∈ x.items, i.merged = []) →
      (x.watchdog ≠ 0 → x.watchdog ≤ g.wdCount →
        Answers (.groupStall c slot) s (fun t =>
          (t.ctx g.ctx).any (fun y => y.stopped && y.stopStatus = ST.groupStall) = true ∧ t.time = s.time ∧
          ∃ h, t.group c slot = some h ∧ h = { g with wait := h.wait })) ∧
      (x.watchdog = 0 ∨ g.wdCount < x.watchdog → Answers (.groupStall c slot) s (fun t => t = { s with run := {} })))

/-- R107 to R110: halt, resume, step and the data register act on the region and group that they select, in debug mode; a
step runs one instruction of the selected group alone; one that still waits after 1 ms is withdrawn; DBG.BRK halts the
region. -/
def Obligations.debug_registers_act : Prop :=
  ∀ (s : State) (die r : Nat) (v : W64) (z : DbgRegion), Decodes s → debugOn s die = true → z = s.dbgOf (4 * die + r) →
    let sel := { z with stepCore := v.toNat / 2 ^ 12 % 16, stepGroup := v.toNat / 2 ^ 8 % 16 }
    (v.getLsbD 1 = false →
      Answers (.dbgRctlHalt die r v) s (fun t =>
        t.dbgOf (4 * die + r)
          = (if z.cause = 0 then { sel with cause := 1, haltedInBeat := true } else sel) ∧
        (∀ k, k ≠ 4 * die + r → t.dbgOf k = s.dbgOf k) ∧ t = { s with dbg := t.dbg, pwr := t.pwr, run := {} })) ∧
    Answers (.dbgRctlResume die r v) s (fun t =>
      (t.dbgOf (4 * die + r)).cause = 0 ∧ (∀ k, k ≠ 4 * die + r → t.dbgOf k = s.dbgOf k) ∧
      t = { s with dbg := t.dbg, pwr := t.pwr, run := {} }) ∧
    (∀ c slot (w : W32) g a u, c = 16 * (4 * die + r) + v.toNat / 2 ^ 12 % 16 → slot = v.toNat / 2 ^ 8 % 16 → r < 4 →
      v.getLsbD 0 = false → v.getLsbD 1 = false → z.cause ≠ 0 → z.stepping = false → s.group c slot = some g → g.wait = .none →
      a = ({ s with run := {}, dbg := putD s.dbg (4 * die + r) { sel with stepping := true } {} } : State).setCore c (fun k => { k with
        mxq := k.mxq.map fun o => { o with stepped := false }, vxq := k.vxq.map fun o => { o with stepped := false } }) →
      Issues c slot w .alu g a u → (∀ l ∈ lanesOf g.active, (aluLane g l w.toNat).illegal = false) →
      Answers (.dbgRctlStep die r v w) s (fun t =>
        (∃ h, t.group c slot = some h ∧ h = { g with pc := pcNext g, x := h.x, f := h.f, fcsr := h.fcsr, issued := true
                                                     instret := g.instret + 1 }) ∧
        (∀ k j, k ≠ c ∨ j ≠ slot → t.group k j = s.group k j) ∧
        t.dbgOf (4 * die + r) = { u.dbgOf (4 * die + r) with stepping := false, stepDone := true, stepWait := false })) ∧
    (∀ c g va q ge rd scope, c = 16 * (4 * die + r) + z.stepCore → r < 4 → z.stepCore < 16 → z.stepping = true →
      s.group c z.stepGroup = some g → g.wait = .flag va q ge rd scope →
      Answers (.stepTimeout die r) s (fun t => t.group c z.stepGroup = some { g with wait := .none, instret := g.instret - 1 } ∧
        t.dbgOf (4 * die + r) = { z with stepping := false, stepDone := true, stepWait := true } ∧
        t = { s with cores := t.cores, dbg := t.dbg, run := {} })) ∧
    (∀ k g c, k = lookD s.dbgSel die {} → c = die * 64 + k.core → s.group c k.group = some g → s.halted (regionOfCore c) = true →
      k.lane < 32 → k.index < 32 →
      Answers (.dbgDataWrite die v) s (fun t =>
        (∃ h, t.group c k.group = some h ∧
          (k.space = 0 → h = { g with x := h.x } ∧ h.xr k.lane k.index = (if k.index = 0 then 0 else v) ∧
            ∀ l < 32, ∀ i < 32, l ≠ k.lane ∨ i ≠ k.index → h.xr l i = g.xr l i) ∧
          (k.space = 1 → h = { g with f := h.f } ∧ h.fr k.lane k.index = v) ∧
          (k.space = 2 → k.index = 0 → h = { g with pc := v.toNat, wait := h.wait } ∧
            (∀ b, g.wait = .engine b → h.wait = g.wait) ∧ ((∀ b, g.wait ≠ .engine b) → h.wait = .none)) ∧
          (k.space = 2 → k.index = 1 → h = { g with active := v.setWidth 32, stack := h.stack } ∧
            h.stack.length = Nat.min 32 (v.toNat / 2 ^ 32 % 2 ^ 8) ∧
            ∀ i < h.stack.length, i < g.stack.length → h.stack.reverse[i]? = g.stack.reverse[i]?) ∧
          (k.space = 2 → 2 ≤ k.index → h = g) ∧ (k.space = 3 → h = g)) ∧
        (∀ i j, i ≠ c ∨ j ≠ k.group → t.group i j = s.group i j) ∧
        t = { s with cores := t.cores, barCl := t.barCl, barDie := t.barDie, free := t.free, run := {} })) ∧
    (∀ c slot (w : W32) g u, Issues c slot w .dbgBrk g (begins [] [] s) u → (u.dbgOf (regionOfCore c)).stepping = false →
      u.halted (regionOfCore c) = false →
      Answers (.dbgBrk c slot w) s (fun t => t.group c slot = some { g with pc := pcNext g, issued := true, instret := g.instret + 1 } ∧
        (((u.partOfBrim (dieOfCore c)).bind u.part).any (·.debug) = true → (t.dbgOf (regionOfCore c)).cause = 2) ∧
        (((u.partOfBrim (dieOfCore c)).bind u.part).any (·.debug) = false → t.dbg = u.dbg)))


/-- R93, R118, R120, R131, R158: a matrix or vector instruction or an AT.SUB of a ready group enters its queue with its operands
as the lowest active lane holds them; MX.TRK, VX.TRK and AT.SUB leave the group waiting for the result; while the queue is full,
or that of the die's Atomiser for an AT.SUB, nothing happens. -/
def Obligations.engine_instructions_queue : Prop :=
  ∀ (c slot : Nat) (w : W32) (g : Group) (s u : State) (cmd : Instr) (row : Row) (vec waits : Bool) (q : List EngOp) (o : EngOp),
    (cmd, row, vec, waits) ∈
      [(Instr.mxCfg c slot w, Row.mxCfg, false, false), (.mxLdt c slot w, .mxLdt, false, false), (.mxMma c slot w, .mxMma, false, false),
       (.mxLda c slot w, .mxLda, false, false), (.mxDrn c slot w, .mxDrn, false, false), (.mxTrk c slot w, .mxTrk, false, true),
       (.atSub c slot w, .atSub, false, true),
       (.vxTrk c slot w, .vxTrk, true, true), (.vxUpd c slot w, .vxUpd, true, false),
       (.vxAdd c slot w, .vx 0x00, true, false), (.vxSub c slot w, .vx 0x01, true, false), (.vxMul c slot w, .vx 0x02, true, false),
       (.vxFma c slot w, .vx 0x03, true, false), (.vxDiv c slot w, .vx 0x04, true, false), (.vxSqrt c slot w, .vx 0x05, true, false),
       (.vxRcp c slot w, .vx 0x06, true, false), (.vxRsqrt c slot w, .vx 0x07, true, false), (.vxExp2 c slot w, .vx 0x08, true, false),
       (.vxLog2 c slot w, .vx 0x09, true, false), (.vxExp c slot w, .vx 0x0A, true, false), (.vxLog c slot w, .vx 0x0B, true, false),
       (.vxTanh c slot w, .vx 0x0C, true, false), (.vxSigm c slot w, .vx 0x0D, true, false), (.vxAbs c slot w, .vx 0x0E, true, false),
       (.vxNeg c slot w, .vx 0x0F, true, false), (.vxMax c slot w, .vx 0x10, true, false), (.vxMin c slot w, .vx 0x11, true, false),
       (.vxEq c slot w, .vx 0x12, true, false), (.vxNe c slot w, .vx 0x13, true, false), (.vxLt c slot w, .vx 0x14, true, false),
       (.vxLe c slot w, .vx 0x15, true, false), (.vxGt c slot w, .vx 0x16, true, false), (.vxGe c slot w, .vx 0x17, true, false),
       (.vxSel c slot w, .vx 0x18, true, false), (.vxCvt c slot w, .vx 0x19, true, false), (.vxRsum c slot w, .vx 0x20, true, false),
       (.vxRmax c slot w, .vx 0x21, true, false), (.vxRmin c slot w, .vx 0x22, true, false), (.vxTr32 c slot w, .vx 0x28, true, false)] →
    Issues c slot w row g (begins [] [] s) u → q = (if vec then (u.core c).vxq else (u.core c).mxq) →
    o = { slot, w, pc := g.pc, a := g.ux (wRs1 w.toNat), b := g.ux (wRs2 w.toNat), ctx := g.ctx, seq := g.seq, slice := g.slice
          lanes := g.active, depth := g.stack.length, stepped := steppingSlot c slot u } →
    (q.length < (if vec then 8 else 4) → (row = .atSub → (lookD u.atq (dieOfCore c) []).length < 64) →
      Answers cmd s (fun t => Ran c slot { g with pc := pcNext g, wait := if waits then .engine vec else .none } s
        (u.setCore c fun k => if vec then { k with vxq := q ++ [o] } else { k with mxq := q ++ [o] }) t)) ∧
    ((if vec then 8 else 4) ≤ q.length ∨ (row = .atSub ∧ 64 ≤ (lookD u.atq (dieOfCore c) []).length) → Answers cmd s (fun t => t = { u with pending := s.pending, run := {} }))

/-- R93, R116, R165, R120, R124, R174: the end of an engine instruction takes it out of its queue and does what its procedure
says; MX.TRK and VX.TRK write the tracker in every active lane of their group, which goes on, and leave it +0; a check that
fails stops the context with ST_GROUP_EXCEPTION; an empty queue changes nothing, but where the update kernel works on the core,
which then goes on by one block (log 53). -/
def Obligations.engine_instructions_end : Prop :=
  ∀ (c : Nat) (s : State) (md : Media) (o : EngOp), s.alive = true →
    let queue := fun (vec : Bool) (t : State) => if vec then (t.core c).vxq else (t.core c).mxq
    let next := fun (vec : Bool) => if vec then vxNext s c else mxNext s c
    let from_ := fun (vec : Bool) => useRegion (regionOfCore c)
      (if vec then (begins [] md s).setCore c fun k => { k with vxq := dropFirst (· = o) k.vxq }
        else mxTake c o ((begins [] md s).setCore c fun k => { k with mxq := dropFirst (· = o) k.mxq }))
    (∀ vec, next vec = none → (vec = true → kernelGroup c (begins [] md s) = none) →
      Answers (.engineInstructionEnd c vec md) s (fun t => t = { s with run := {} })) ∧
    (∀ slot g i u z h v cores n, next true = none → kernelGroup c (begins [] md s) = some (slot, g, i, u) →
      cores = ((i.costs[i.slice]?).map Cost.coreList).getD [] → n = cores.idxOf c → u.nextBlock cores.length n = some z →
      kernelBlock c slot g u z (begins [] md s) = .next h v → Goes v →
      Answers (.engineInstructionEnd c true md) s (fun t =>
        t.group c slot = some { h with issued := true, instret := h.instret + 1 } ∧
        (t.item g.ctx g.seq).any (fun j => j.upd = some { u with finished := put u.finished n (lookD u.finished n 0 + 1) })
          = (v.item g.ctx g.seq).isSome ∧
        t.mem = v.mem ∧ t.hostMem = v.hostMem ∧ ∀ k j, k ≠ c ∨ j ≠ slot → t.group k j = v.group k j)) ∧
    (∀ vec v, next vec = some o → (vec = false → o.isAt = false) →
      (if vec then vxRun c o (from_ vec) else mxRun c o (from_ vec)) = .ok v → Goes v →
      Answers (.engineInstructionEnd c vec md) s (fun t => queue vec t = dropFirst (· = o) (queue vec s) ∧
        (∀ g, v.group c o.slot = some g →
          t.group c o.slot = some (if g.wait = .fence ∧ (v.core c).queued o.slot = false then { g with wait := .none } else g)) ∧
        (∀ k j, k ≠ c ∨ j ≠ o.slot → t.group k j = v.group k j) ∧
        t = { v with pending := s.pending, cores := t.cores, dbg := t.dbg, run := {} })) ∧
    (∀ vec g, next vec = some o → (if vec then wF3 o.w.toNat = 1 else wF3 o.w.toNat = 5) → s.group c o.slot = some g →
      g.wait = .engine vec →
      Answers (.engineInstructionEnd c vec md) s (fun t => queue vec t = dropFirst (· = o) (queue vec s) ∧
        (∃ h, t.group c o.slot = some h ∧
          h = { g with wait := .none, x := h.x, vtracker := if vec then 0 else g.vtracker } ∧
          WroteX g h (wRd o.w.toNat) (fun _ => some ((if vec then g.vtracker else
            if (s.core c).mx.holder = some o.who then (s.core c).mx.tracker else
              (((s.core c).spilled.find? fun m => m.holder = some o.who).map (·.tracker)).getD 0).setWidth 64))) ∧
        (vec = false → (t.core c).mx.tracker = 0) ∧ t.mem = s.mem ∧ t.ctxs = s.ctxs)) ∧
    (∀ vec code at_ x, next vec = some o → (vec = false → o.isAt = false) →
      (if vec then vxRun c o (from_ vec) else mxRun c o (from_ vec)) = .fault code at_ →
      s.ctx o.ctx = some x → x.stopped = false → (∀ i, s.item o.ctx o.seq = some i → i.merged = []) →
      Answers (.engineInstructionEnd c vec md) s (fun t => queue vec t = dropFirst (· = o) (queue vec s) ∧
        (t.ctx o.ctx).any (fun y => y.stopped && y.stopStatus = ST.groupException) = true))

/-- R111, R114, R120, R129, R137: MX.CFG sets formats and spill offset and invalidates the tile; MX.LDT takes the tile's rows
from the scratchpad; one row of MX.MMA changes its own accumulator row alone, by the tree of the rule, and the value depends
on that row, the tile and the old row only; one row of MX.DRN writes the scaled values in the output's format, and the
tracker holds the largest magnitude. -/
def Obligations.matrix_instructions_compute : Prop :=
  (∀ (c : Nat) (o : EngOp) (s : State), o.a.toNat < 256 → pairOk (o.a.toNat % 16) (o.a.toNat / 16) = true →
    o.b.toNat % 256 = 0 → o.b.toNat % 2 ^ 20 + 139520 ≤ 2 ^ 20 →
    ∃ t, mxCfg c o s = .ok t ∧ t = { s with cores := t.cores } ∧ (∀ k, k ≠ c → t.core k = s.core k) ∧
      (t.core c).mx.word = o.a ∧ (t.core c).mx.spill = o.b.toNat % 2 ^ 20 ∧ (t.core c).mx.tileValid = false ∧
      (t.core c).mx.configured = true ∧ (t.core c).mx.tracker = (s.core c).mx.tracker ∧
      (accCode o.a.toNat = accCode (s.core c).mx.word.toNat → (t.core c).mx.acc = (s.core c).mx.acc) ∧
      (accCode o.a.toNat ≠ accCode (s.core c).mx.word.toNat → (t.core c).mx.acc = [])) ∧
  (∀ (c : Nat) (o : EngOp) (s : State) (off stride f : Nat), (s.core c).mx.configured = true → c < 1024 →
    off = o.a.toNat % 2 ^ 20 → stride = o.b.toNat → f = (s.core c).mx.word.toNat % 16 → rowsBad off stride 32 (rowBytes f) = none →
    s.run.media = [] → s.mem.poison = [] → s.mem.sill = [] →
    ∃ t, mxLdt c o s = .ok t ∧ (t.core c).mx.tileValid = true ∧ (t.core c).mx.tileTaint = false ∧ t.mem = s.mem ∧
      ∀ k < 32, ∀ n < 32, (lookD (t.core c).mx.tile (k * 32 + n) 0).toNat
        = (elemsOf f 32 (cellsGet s.mem.bytes (windowBase c + off + k * stride) (rowBytes f))).getD n 0) ∧
  (∀ (add : Bool) (row : Nat) (x : List Nat × Bool) (m : MxData) (f : Fmt), f = fmtOf (accCode m.word.toNat) →
    let m' := mmaRow add row x m
    (∀ n < 32, (accGet m' row).getD n 0
      = columnUpdate f (if add then some ((accGet m row).getD n 0) else none) (x.1.map (readElem (fld m.word.toNat 4 4))) (tileColumn m n)
          % 2 ^ 64) ∧
    (∀ r, r ≠ row → accGet m' r = accGet m r ∧ (r ∈ m'.taint ↔ r ∈ m.taint)) ∧
    (row ∈ m'.taint ↔ m.tileTaint = true ∨ x.2 = true ∨ (add = true ∧ row ∈ m.taint)) ∧
    m' = { m with acc := m'.acc, taint := m'.taint }) ∧
  (∀ (d : Drain) (i : Nat) (m : MxData) (f : Fmt), f = fmtOf (accCode m.word.toNat) →
    let r := drainRow d i m
    let v := fun n => f.read (rndMul f (f.read ((accGet m (accRow d.base i)).getD n 0)) d.scale)
    r.1.length = 32 ∧ r.2.1 = m.taint.contains (accRow d.base i) ∧
    (∀ n < 32, r.1.getD n 0 = (if d.mask && decide (d.qpos + i < d.kpos + n) then negInf d.out else convertTo d.out d.nonsat (v n))) ∧
    (d.zero = true → accGet r.2.2 (accRow d.base i) = List.replicate 32 0) ∧
    (∀ k, k ≠ accRow d.base i → accGet r.2.2 k = accGet m k) ∧ (d.zero = false → r.2.2.acc = m.acc) ∧
    (d.track = false → r.2.2.tracker = m.tracker) ∧ r.2.2.tile = m.tile ∧ r.2.2.word = m.word) ∧
  ∀ (f : Fmt) (l : List Nat) (m : Nat), l.length = 2 * m → (treeLevel f l).length = m ∧
    ∀ j < m, (treeLevel f l).getD j 0 = rndAdd f (l.getD (2 * j) 0) (l.getD (2 * j + 1) 0)

/-- R160 to R163: an element-wise instruction of one block of binary32 elements writes the operation's result of each
element's sources, and no other byte of memory. -/
def Obligations.vector_elements_compute : Prop :=
  ∀ (c op n da aa ba ca : Nat) (o : EngOp) (s : State), op ≤ 0x19 → c < 1024 → 1 ≤ n → n ≤ 64 →
    o.a.toNat = ba * 2 ^ 40 + aa * 2 ^ 20 + da → o.b.toNat = n + 8 * 2 ^ 28 + 8 * 2 ^ 16
      + (if 2 ≤ vxSources op then 8 * 2 ^ 20 else 0) + (if vxSources op = 3 then 8 * 2 ^ 24 + ca * 2 ^ 44 else 0) →
    (vxSources op < 2 → ba = 0) →
    (∀ x ∈ [da, aa, ba, ca], x % 8 = 0 ∧ x + 4 * n ≤ 2 ^ 20) → s.run.media = [] → s.mem.poison = [] → s.mem.sill = [] →
    let at_ := fun (off i : Nat) => leNat (cellsGet s.mem.bytes (windowBase c + off + 4 * i) 4)
    let in_ := fun (off i : Nat) => bits32 (readElem 8 (at_ off i))
    ∃ t, vxOp c op o s = .ok t ∧
      (∀ i < n, cellsGet t.mem.bytes (windowBase c + da + 4 * i) 4 = leBytes 4 (convertTo 8 (nonsatOf s o.ctx)
        (fmtF32.read (vxF op (in_ aa i) (if 2 ≤ vxSources op then in_ ba i else bits32 (.fin false 0 0))
          (if vxSources op = 3 then in_ ca i else bits32 (.fin false 0 0)))))) ∧
      (∀ a, a < windowBase c + da ∨ windowBase c + da + 4 * n ≤ a → lookD t.mem.bytes a 0 = lookD s.mem.bytes a 0) ∧
      t.mem.poison = [] ∧ t.ctxs = s.ctxs ∧ (∀ k j, t.group k j = s.group k j) ∧
      vxF 0x0E 0x80000000 0 0 = 0 ∧ vxF 0x18 1 2 3 = 1 ∧ vxF 0x18 1 2 0x80000000 = 2

/-- R118, R131 to R134, R186: AT.SUB of a valid descriptor at the head of the matrix queue queues it in the Atomiser and writes its
ticket in every active lane of its group, which goes on; a chunk of the descriptor served advances it by one N-chunk; when every
chunk is done, the ticket is stored to the flag and the entry is free; a fault stalls it, and nothing passes it. -/
def Obligations.atomiser_serves_descriptors : Prop :=
  ∀ (s u : State) (die : Nat), s.alive = true →
    (∀ c md o g r x z v words, die = dieOfCore c → mxNext s c = some o → o.isAt = true → s.group c o.slot = some g →
      g.wait = .engine false → s.groupLive g = true → s.stalledOn (.group c o.slot) = false → (lookD s.atq die []).length < 64 →
      o.a.toNat % 64 = 0 →
      reachRange (atSubEngine c o (begins [] md s)) { rd := true } o.a.toNat 64 {} (begins [] md s) = (r, x) → r.faults = [] →
      r.bad = none → (reachRead true r.at_ x).2 = z →
      words = (List.range 8).map (fun i => BitVec.ofNat 64 (leAt (reachRead true r.at_ x).1.data (8 * i) 8)) → atBad words = none →
      atWeights (atSubEngine c o (begins [] md s)) die (atField words 0 8)
        (pagesOf (atField words 0 8) (atField words 40 4 * atField words 44 4 * tileBytes (atField words 61 1 % 16))) z
          = ([], none, true, v) → Goes v →
      Answers (.engineInstructionEnd c false md) s (fun t =>
        lookD t.ticket die 0 = lookD s.ticket die 0 + 1 ∧
        (∃ d, lookD t.atq die [] = lookD s.atq die [] ++ [d] ∧ d.ticket = lookD s.ticket die 0 + 1 ∧ d.words = words ∧
          d.ctx = o.ctx ∧ d.seq = o.seq ∧ d.pc = o.pc ∧ d.nc = 0 ∧ d.stalled = false ∧ d.part = []) ∧
        (∀ k, k ≠ die → lookD t.atq k [] = lookD s.atq k [] ∧ lookD t.ticket k 0 = lookD s.ticket k 0) ∧
        (t.core c).mxq = dropFirst (· = o) (s.core c).mxq ∧
        ∃ h, t.group c o.slot = some h ∧ h = { g with wait := .none, x := h.x } ∧
          WroteX g h (wRd o.w.toNat) (fun _ => some (BitVec.ofNat 64 (lookD s.ticket die 0 + 1))))) ∧
    (∀ d md, lookD s.atq die [] = [d] → d.stalled = false → d.nc < d.nChunks →
      u = atChunk die d (begins [] md s) → Goes u →
      (∀ e ∈ lookD u.atq die [], e.stalled = false) → lookD u.atq die [] ≠ [] →
      Answers (.atomiserChunk die md) s (fun t => (∃ m p, lookD t.atq die [] = [{ d with nc := d.nc + 1, amax := m, part := p }]) ∧
        t.cores = s.cores ∧ t.ctxs = s.ctxs ∧ t.ticket = s.ticket ∧ ∀ k, k ≠ die → lookD t.atq k [] = lookD s.atq k [])) ∧
    (∀ md, (∃ d ∈ lookD s.atq die [], d.stalled = true) →
      Answers (.atomiserChunk die md) s (fun t => t = { s with run := {} }) ∧
      Answers (.atomiserDone die md) s (fun t => t = { s with run := {} })) ∧
    (∀ d a r, lookD s.atq die [] = [d] → d.stalled = false → d.nChunks ≤ d.nc → d.f 32 8 = 0 →
      reachPiece (descEngine die d (begins [] [] s)) { wr := true, flag := true } (d.f 24 8, 8) {} (begins [] [] s) = (r, u) →
      r.faults = [] → r.bad = none → r.at_ = [(.dev a false, 8)] → a % 8 = 0 →
      Goes (lineWrite (lineOf a) (atOffsets (a % 256) (leBytes 8 d.ticket)) false true u) →
      Answers (.atomiserDone die []) s (fun t => lookD t.atq die [] = [] ∧ cellsGet t.mem.bytes a 8 = leBytes 8 d.ticket ∧
        (∀ x < 2 ^ 42, x < a ∨ a + 8 ≤ x → memByte t x = memByte s x) ∧ t.cores = s.cores ∧ t.ctxs = s.ctxs))


/-- R247, R248, R249, R254, R308, R311: a request that its home refuses is answered with RSP_ERR and its status; one to a line under
a transaction waits at the home, behind those that wait; one that the presence count, or a processor core, LR or SC calls a
query for opens its line's transaction, and SNP_Q goes to the filter. The victim that a caching request names has left. -/
def Obligations.requests_are_accepted_or_wait : Prop :=
  ∀ (s : State) (q : Requester) (line k : Nat) (md : Medium) (cmd : Instr) (kind : ReqKind) (data : List Byte) (poison : Bool)
    (mask : BitVec 256) (hint : Option Nat) (f5 width : Nat) (ops : List (Nat × W64)) (r : HomeReq),
    (cmd, kind, r.data, r.poison) ∈ [(Instr.rdShared q line md, ReqKind.rdShared, ([] : List Byte), false),
      (.rdUnique q line md, .rdUnique, [], false), (.upgrade q line md, .upgrade, [], false), (.rdCur q line md, .rdCur, [], false),
      (.wrFull q line data poison hint md, .wrFull hint, data, poison), (.wrPart q line mask data poison md, .wrPart mask, data, poison),
      (.atomic q line f5 width ops md, .atomic f5 width ops, [], false), (.lr q line md, .lr, [], false),
      (.sc q line mask data md, .sc mask, data, false)] →
    r = { q, kind, line, data := r.data, poison := r.poison, medium := md, beat := s.beat } → (∀ p x, md ≠ .struck p x) → q.cls < 3 →
    s.alive = true → MaySend r s → placeOf s (line * 256) = .stack k →
    (Reaches r k s → Rests k s → (look s.coh.txns line).isSome = true →
      Answers cmd s (fun t => t = { asSent r s with
        coh := { (asSent r s).coh with waiting := s.coh.waiting ++ [r] }, run := {} })) ∧
    (∀ st, homeStatus r s = st → st ≠ ST.ok → (r.msg s).credited s = true →
      (s.felt.stalled.any fun m => decide (m.src = q.die) && decide (vcOf m.op = 0)) = false →
      Answers cmd s (fun t =>
        Sent t { op := 0x1E, src := k, dst := q.die, tag := q.tag, line, body := st, crown := kind.caching } ∧ t.mem = s.mem ∧
        t.coh.txns = s.coh.txns ∧ t.coh.waiting = s.coh.waiting)) ∧
    (Reaches r k s → Rests k s → look s.coh.txns line = none → homeOpen s k < 1024 →
      (presenceOf s line ≠ 0 ∨ q.proc.isSome = true ∨ kind = .lr ∨ ∃ m, kind = .sc m) →
      Answers cmd s (fun t => look t.coh.txns line = some { req := r, query := true } ∧
        (∀ l, l ≠ line → look t.coh.txns l = look s.coh.txns l) ∧
        Sent t { op := 0x10, src := k, dst := 24, tag := q.tag, line, body := kind.snoop, cls := q.cls } ∧ CoherenceFrame s t))

/-- R246, R247, R252, R256, R258: a request to a line that no agent holds is performed at once: a read gives the line as its
home holds it, a caching one keeps the line blocked until its ACK; a write leaves its bytes, clears every reservation on
the line and is answered with RSP_DONE; a write hint makes an offer; an atomic gives back the old values. -/
def Obligations.unshared_requests_are_performed : Prop :=
  ∀ (s : State) (q : Requester) (line k : Nat), placeOf s (line * 256) = .stack k → Rests k s → look s.coh.txns line = none →
    homeOpen s k < 1024 → presenceOf s line = 0 → q.proc = none → q.watch = none → q.cls < 3 →
    s.mark line = {} → s.stored line = {} → (∀ r, l2Waits line r s = false) →
    let goes := fun (kind : ReqKind) (data : List Byte) (poison : Bool) =>
      Reaches { q, kind, line, data, poison, beat := s.beat } k s ∧ MaySend { q, kind, line, data, poison } s
    let dat := fun (crown : Bool) (grant : Nat) (d : List Byte) =>
      ({ op := 0x20, src := k, dst := q.die, tag := q.tag, line, body := grant, data := d, poison := false, crown } : FeltMsg)
    let rspDone : FeltMsg := { op := 0x1D, src := k, dst := q.die, tag := q.tag, line, body := 0 }
    let elsewhere := fun (t : State) => ∀ a, a / 256 ≠ line → lookD t.mem.bytes a 0 = lookD s.mem.bytes a 0
    let granted := fun (kind : ReqKind) (grant : Nat) (t : State) => t.mem.bytes = s.mem.bytes ∧
      (∃ x, look t.coh.txns line = some x ∧ x.ackAwaited = true ∧ x.grant = grant ∧ x.req.kind = kind ∧ x.req.q = q) ∧
      Sent t (dat true grant (lineBytes s line))
    (goes .rdShared [] false → Answers (.rdShared q line .good) s (granted .rdShared 2)) ∧
    (goes .rdUnique [] false → Answers (.rdUnique q line .good) s (granted .rdUnique 2)) ∧
    (goes .upgrade [] false → Answers (.upgrade q line .good) s (granted .upgrade 3)) ∧
    (goes .rdCur [] false → Answers (.rdCur q line .good) s (fun t => t.mem.bytes = s.mem.bytes ∧ look t.coh.txns line = none ∧
      Sent t (dat false 0 (lineBytes s line)))) ∧
    (∀ data poison, data.length = 256 →
      (goes (.wrFull none) data poison →
        Answers (.wrFull q line data poison none .good) s (fun t => lineBytes t line = data ∧ t.poisoned line = poison ∧ elsewhere t ∧
          (∀ e ∈ t.coh.resv, e.2 ≠ line) ∧ look t.coh.txns line = none ∧ Sent t rspDone)) ∧
      (∀ a, a < 20 → a ≠ k → goes (.wrFull (some a)) data poison →
        Answers (.wrFull q line data poison (some a) .good) s (fun t => lineBytes t line = data ∧
          (look t.coh.txns line).any (·.ackAwaited) = true ∧ Sent t rspDone ∧
          Sent t { op := 0x21, src := k, dst := a, tag := q.tag, line, data, poison }))) ∧
    (∀ mask data, data.length = 256 → goes (.wrPart mask) data false →
      Answers (.wrPart q line mask data false .good) s (fun t =>
        (∀ i < 256, lookD t.mem.bytes (line * 256 + i) 0 = if mask.getLsbD i then data.getD i 0 else lookD s.mem.bytes (line * 256 + i) 0) ∧
        elsewhere t ∧ (∀ e ∈ t.coh.resv, e.2 ≠ line) ∧ Sent t rspDone)) ∧
    (∀ f5 width ops, width = 4 ∨ width = 8 → (∀ e ∈ ops, e.1 * width + width ≤ 256) → goes (.atomic f5 width ops) [] false →
      Answers (.atomic q line f5 width ops .good) s (fun t =>
        lineBytes t line = (amoRun f5 width ops (lineBytes s line)).2 ∧ elsewhere t ∧
        Sent t (dat false 0 ((amoRun f5 width ops (lineBytes s line)).1.flatMap (leBytes 8)))))

/-- R194, R195, R203, R35: a scratchpad window serves reads and masked writes from its bank; a partition's foreign window is refused
with ST_WINDOW_FOREIGN, and an address that does not exist with ST_ADDRESS_HOLE. -/
def Obligations.windows_are_served : Prop :=
  ∀ (s : State) (q : Requester) (line : Nat) (p : Option Nat), s.alive = true →
    reqCredit s false q.die (homeDie s (line * 256)) = true →
    p = (if q.die < 20 then s.partOfDie q.die else s.partOfBrim (homeDie s (line * 256))) →
    let refused := fun (st : Nat) (t : State) => t.mem = s.mem ∧
      Sent t { op := 0x1E, src := homeDie s (line * 256), dst := q.die, tag := q.tag, line, body := st }
    (∀ c, placeOf s (line * 256) = .window c → accessStatus p q.die (line * 256) {} s = ST.ok → diePath s q.die (dieOfCore c) ≠ 1 →
      s.regionState (regionOfCore c) = 0 → s.stored line = {} →
      Answers (.scrRd q ⟨line, .good⟩) s (fun t => t.mem = s.mem ∧
        Sent t { op := 0x20, src := dieOfCore c, dst := q.die, tag := q.tag, line, data := lineBytes s line, poison := false }) ∧
      (∀ mask data, data.length = 256 →
        Answers (.scrWr q ⟨line, .good⟩ mask data false) s (fun t =>
          (∀ i < 256, lookD t.mem.bytes (line * 256 + i) 0 = if mask.getLsbD i then data.getD i 0 else lookD s.mem.bytes (line * 256 + i) 0) ∧
          (∀ a, a / 256 ≠ line → lookD t.mem.bytes a 0 = lookD s.mem.bytes a 0) ∧
          Sent t { op := 0x1D, src := dieOfCore c, dst := q.die, tag := q.tag, line }))) ∧
    (∀ c mask data poison md, placeOf s (line * 256) = .window c → p.isNone = true ∨ s.partOfBrim (dieOfCore c) ≠ p →
      Answers (.scrRd q ⟨line, md⟩) s (refused ST.windowForeign) ∧
      Answers (.scrWr q ⟨line, md⟩ mask data poison) s (refused ST.windowForeign)) ∧
    (∀ mask data poison md, placeOf s (line * 256) = .hole ∨ (∃ k, placeOf s (line * 256) = .carve k) →
      Answers (.scrRd q ⟨line, md⟩) s (refused ST.addressHole) ∧ Answers (.scrWr q ⟨line, md⟩ mask data poison) s (refused ST.addressHole))

/-- R250, R253, R255, Table 10-4: an agent answers a snoop from its state, and takes the new state of the table; a line that it
does not hold and whose write-back is pending is answered with RSP_WBPEND; a query sends one snoop to each agent that the filter
lists but the requester, and RSP_FCOUNT with their count. -/
def Obligations.agents_answer_snoops : Prop :=
  (∀ (s : State) (agent line tag kind : Nat) (cmd : Instr), s.alive = true →
    (kind, cmd) ∈ [(0, Instr.snpShared agent line tag), (1, .snpCur agent line tag), (2, .snpInv agent line tag)] →
    (∃ m ∈ s.coh.net, m.op = 0x11 + kind ∧ m.line = line ∧ m.dst = agent) → line < 2 ^ 34 →
    let answer := fun (op body : Nat) (d : List Byte) (p : Bool) =>
      ({ op, src := agent, dst := line / 2 ^ 28, tag, line, body, data := d, poison := p, crown := true } : FeltMsg)
    let others := fun (t : State) => ∀ a < 20, ∀ l < 2 ^ 34, a ≠ agent ∨ l ≠ line → agentLine t a l = agentLine s a l
    (∀ buf b, agentLine s agent line = none → pendingWb s agent line = some (buf, b) →
      Answers cmd s (fun t => agentLine t agent line = none ∧ others t ∧
        Sent t (answer 0x1B (inFld buf 28 6 + inFld (b01 b.phase) 27 1) [] false) ∧ CoherenceFrame s t)) ∧
    (∀ e, agentLine s agent line = some e →
      Answers cmd s (fun t => others t ∧ CoherenceFrame s t ∧
        agentLine t agent line = (if kind = 2 then none
          else some { e with st := if kind = 1 then e.st else match e.st with | .M => .O | .E => .S | x => x }) ∧
        Sent t (if e.st = .M ∨ e.st = .O then answer 0x20 0 e.data e.poison
          else if kind = 2 then answer 0x19 0 [] false else answer 0x1A 0 [] false))) ∧
    (pendingWb s agent line = none → agentLine s agent line = none →
      Answers cmd s (fun t => others t ∧ Sent t (answer 0x19 0 [] false) ∧ CoherenceFrame s t))) ∧
  ∀ (s : State) (line tag a key : Nat) (x : Txn), s.alive = true → line < 2 ^ 34 → look s.coh.txns line = some x → x.query = true →
    x.req.line = line → x.req.kind = .rdUnique → x.req.q.agent = some a → x.req.q.tag = tag →
    filterHits s line = [(key, { line, st := .U })] → key / 2 ^ 20 ≠ a → key / 2 ^ 20 < 20 → key / 2 ^ 20 ∉ s.coh.lost →
    (∃ m ∈ s.coh.net, m.op = 0x10 ∧ m.line = line ∧ m.dst = 24 ∧ m.src = line / 2 ^ 28 ∧ m.tag = tag ∧ m.body = 2) →
    Answers (.snpQ (line / 2 ^ 28) tag line 2 (some a)) s (fun t => look t.coh.filter key = none ∧
      Sent t { op := 0x13, src := 24, dst := key / 2 ^ 20, tag, line, cls := x.req.q.cls } ∧
      Sent t { op := 0x18, src := 24, dst := line / 2 ^ 28, tag, line, body := 2 ^ 29 + 2 ^ 24 + 2 ^ 21 } ∧ CoherenceFrame s t)

/-- R247, R249, R255, R258: RSP_FCOUNT tells a transaction how many answers to await and lowers the presence count; each
answer counts once, dirty data is kept, and RSP_WBPEND waits for the write-back unless its phase has been applied; when
the last has come the request is performed: LR records the reservation, SC writes only where the reservation holds. -/
def Obligations.answers_complete_transactions : Prop :=
  ∀ (s : State) (line : Nat) (x : Txn), s.alive = true → look s.coh.txns line = some x → x.ackAwaited = false → x.req.line = line →
    let home := line / 2 ^ 28
    Rests home s →
    (∀ sent cleared entry other,
      (∃ m ∈ s.coh.net, m.op = 0x18 ∧ m.line = line ∧ m.dst = home ∧ m.body = fcountBody sent cleared entry other) →
      x.answered.length < sent →
      Answers (.rspFcount line sent cleared entry other) s (fun t =>
        look t.coh.txns line = some { x with query := false, replies := sent, entry, other } ∧
        presenceOf t line = presenceOf s line - cleared ∧ t.mem = s.mem)) ∧
    (∀ agent, agent ∉ x.answered → x.query = true ∨ x.answered.length + 1 < x.replies →
      ((∃ m ∈ s.coh.net, m.op = 0x19 ∧ m.line = line ∧ m.src = agent) →
        Answers (.rspI agent line) s (fun t => look t.coh.txns line = some { x with answered := x.answered ++ [agent] } ∧ t.mem = s.mem)) ∧
      ((∃ m ∈ s.coh.net, m.op = 0x1A ∧ m.line = line ∧ m.src = agent) →
        Answers (.rspS agent line) s (fun t => look t.coh.txns line = some { x with answered := x.answered ++ [agent] } ∧ t.mem = s.mem)) ∧
      (∀ m tag data poison, m.sill = 0 → agent ≠ home →
        s.coh.net.find? (fun m => isMsg 0x20 line home m && m.src = agent && m.tag = tag && m.body = 0 && m.data = data
          && m.poison = poison) = some m →
        Answers (.dat home agent tag ⟨line, .good⟩ 0 data poison (sillage data)) s (fun t =>
          look t.coh.txns line = some { x with answered := x.answered ++ [agent], dirty := some (data, poison) } ∧ t.mem = s.mem)) ∧
      (∀ buf phase, (∃ m ∈ s.coh.net, m.op = 0x1B ∧ m.line = line ∧ m.src = agent ∧ m.body = inFld buf 28 6 + inFld (b01 phase) 27 1) →
        Answers (.rspWbpend agent line buf phase) s (fun t => look t.coh.txns line = some { x with
          answered := x.answered ++ [agent]
          wbs := if lookD s.coh.applied (phaseKey agent buf home) false = phase then x.wbs else x.wbs ++ [(agent, buf, phase)] } ∧
          t.mem = s.mem))) ∧
    (∀ agent c, agent ∉ x.answered → x.query = false → x.replies = x.answered.length + 1 → x.wbs = [] → x.dirty = none →
      x.req.q.proc = some c → x.req.medium = .good → (∀ r ∈ s.coh.waiting, homeOf r.line ≠ home) → s.mark line = {} →
      s.stored line = {} → l2Waits line x.req.kind.l2 s = false → (∀ e ∈ s.coh.txns, homeOf e.1 = home → e.1 = line) →
      (∃ m ∈ s.coh.net, m.op = 0x19 ∧ m.line = line ∧ m.src = agent) →
      (x.req.kind = .lr → Answers (.rspI agent line) s (fun t => look t.coh.resv (resvKey c home) = some line ∧ look t.coh.txns line = none ∧
        Sent t { op := 0x20, src := home, dst := x.req.q.die, tag := x.req.q.tag, line, data := lineBytes s line } ∧
        t.mem.bytes = s.mem.bytes)) ∧
      (∀ mask, x.req.kind = .sc mask → x.req.data.length = 256 →
        (look s.coh.resv (resvKey c home) = some line →
          Answers (.rspI agent line) s (fun t => look t.coh.resv (resvKey c home) = none ∧ look t.coh.txns line = none ∧
            Sent t { op := 0x1D, src := home, dst := x.req.q.die, tag := x.req.q.tag, line, body := 1 } ∧
            ∀ i < 256, lookD t.mem.bytes (line * 256 + i) 0
              = if mask.getLsbD i then x.req.data.getD i 0 else lookD s.mem.bytes (line * 256 + i) 0)) ∧
        (look s.coh.resv (resvKey c home) ≠ some line →
          Answers (.rspI agent line) s (fun t => look t.coh.resv (resvKey c home) = none ∧ look t.coh.txns line = none ∧
            Sent t { op := 0x1D, src := home, dst := x.req.q.die, tag := x.req.q.tag, line, body := 0 } ∧ t.mem = s.mem))))

/-- R248, R249, R252 to R256, R308: a write-back reaches the home copy while a query of its line is open or none is, and is
acknowledged; the ACK of a grant sets the filter's entry and unblocks the line; ACK_TAKE and ACK_DECLINE end an offer; WB_ACK
frees the buffer; DROP lowers the count; RSP_GRANT makes an L3's copy M; RSP_DONE and RSP_ERR reach their requester; a grant by
DAT brings the line to rest at its agent; an offer is taken where the set has room, and declined where it has none. -/
def Obligations.write_backs_and_acks_end : Prop :=
  ∀ (s : State) (agent line : Nat), s.alive = true → line < 2 ^ 34 →
    let home := line / 2 ^ 28
    (∀ m buf phase data poison, Rests home s → data.length = 256 → s.stackState home = 0 → m.sill = 0 →
      s.coh.net.find? (fun m => fromMsg 0x28 line agent m && m.tag = buf * 256 + 128 * b01 phase && m.data = data && m.poison = poison)
        = some m → (∀ x, look s.coh.txns line = some x → x.query = true) →
      Answers (.wb agent ⟨line, .good⟩ buf phase data poison) s (fun t => lineBytes t line = data ∧ t.poisoned line = poison ∧
        (∀ a, a / 256 ≠ line → lookD t.mem.bytes a 0 = lookD s.mem.bytes a 0) ∧
        lookD t.coh.applied (phaseKey agent buf home) false = phase ∧ (∀ e ∈ t.coh.resv, e.2 ≠ line) ∧
        look t.coh.txns line = (look s.coh.txns line).map (fun x => { x with wbs := x.wbs.filter (· ≠ (agent, buf, phase)) }) ∧
        Sent t { op := 0x33, src := home, dst := agent, tag := buf * 256 + 128 * b01 phase, line, crown := true })) ∧
    (∀ x way grant, look s.coh.txns line = some x → x.ackAwaited = true → x.req.kind.caching = true → x.req.q.agent = some agent →
      x.grant = grant → Rests home (delTxn line s) → ackPasses agent line way s = true →
      look s.coh.filter (filterKey s agent line way) = none →
      (∃ m ∈ s.coh.net, m.op = 0x30 ∧ m.line = line ∧ m.src = agent ∧ m.body = way) →
      Answers (.ack agent line way grant) s (fun t => look t.coh.txns line = none ∧ presenceOf t line = presenceOf s line + 1 ∧
        look t.coh.filter (filterKey s agent line way) = some { line, st := if grant = 1 then .S else .U } ∧ CoherenceFrame s t)) ∧
    (∀ x, look s.coh.txns line = some x → x.ackAwaited = true → x.req.kind = .wrFull (some agent) → Rests home (delTxn line s) →
      (∀ way, look s.coh.filter (filterKey s agent line way) = none → ackPasses agent line way s = true →
        (∃ m ∈ s.coh.net, m.op = 0x31 ∧ m.line = line ∧ m.src = agent ∧ m.body = way) →
        Answers (.ackTake agent line way) s (fun t => look t.coh.txns line = none ∧ presenceOf t line = presenceOf s line + 1 ∧
          look t.coh.filter (filterKey s agent line way) = some { line, st := .U } ∧ CoherenceFrame s t)) ∧
      (dropsAhead s home = false → (∃ m ∈ s.coh.net, m.op = 0x32 ∧ m.line = line ∧ m.src = agent) →
        Answers (.ackDecline agent line) s (fun t => look t.coh.txns line = none ∧ t.coh.filter = s.coh.filter ∧ CoherenceFrame s t))) ∧
    (∀ buf b, look s.coh.wb (agent * 64 + buf) = some b → (∃ m ∈ s.coh.net, m.op = 0x33 ∧ m.dst = agent ∧ m.tag / 256 = buf) →
      Answers (.wbAck agent buf) s (fun t => look t.coh.wb (agent * 64 + buf) = none ∧ CoherenceFrame s t ∧
        ∀ l tag, b.ack = some (l, tag) → Sent t { op := 0x30, src := agent, dst := l / 2 ^ 28, tag, line := l, body := b.way })) ∧
    (∀ m, s.coh.net.find? (fun m => m.op = 0x34 && m.dst = home) = some m → m.line = line →
      Answers (.drop line) s (fun t => presenceOf t line = presenceOf s line - 1 ∧ CoherenceFrame s t)) ∧
    (∀ e x, agentLine s agent line = some e → 16 ≤ agent → (∀ p ∈ s.procReq, lineOf p.2.addr ≠ line) →
      (∀ b ∈ s.coh.wb, b.1 / 64 ≠ agent) → look s.coh.txns line = some x →
      (∃ m ∈ s.coh.net, m.op = 0x1C ∧ m.line = line ∧ m.dst = agent ∧ m.body = 3) →
      Answers (.rspGrant agent line 3) s (fun t => agentLine t agent line
          = some { st := .M, way := e.way, data := fit e.data, poison := e.poison } ∧
        Sent t { op := 0x30, src := agent, dst := home, tag := x.req.q.tag, line, body := e.way } ∧ CoherenceFrame s t)) ∧
    (∀ m x tag data poison grant, look s.coh.txns line = some x → agent ≠ home → agent < 20 → grant ≠ 0 → data.length = 256 → m.sill = 0 →
      (∀ p ∈ s.procReq, lineOf p.2.addr ≠ line) → (∀ b ∈ s.coh.wb, b.1 / 64 ≠ agent) →
      s.coh.net.find? (fun m => isMsg 0x20 line agent m && m.src = home && m.tag = tag && m.body = grant && m.data = data
        && m.poison = poison) = some m →
      Answers (.dat agent home tag ⟨line, .good⟩ grant data poison (sillage data)) s (fun t => agentLine t agent line
          = some { st := if grant = 1 then .S else if grant = 2 ∨ agent < 16 then .E else .M, way := x.req.q.way, data, poison } ∧
        Sent t { op := 0x30, src := agent, dst := home, tag, line, body := x.req.q.way } ∧ CoherenceFrame s t)) ∧
    (∀ die tag, look s.procReq tag = none →
      (∀ ok, (∃ m ∈ s.coh.net, m.op = 0x1D ∧ m.dst = die ∧ m.tag = tag ∧ m.body = b01 ok) →
        Answers (.rspDone die tag ok) s (fun t =>
          t.coh.got = s.coh.got ++ [{ op := 0x1D, src := 24, dst := die, tag, line := 0, body := b01 ok }] ∧ CoherenceFrame s t)) ∧
      (∀ st, (∃ m ∈ s.coh.net, m.op = 0x1E ∧ m.dst = die ∧ m.tag = tag ∧ m.body = st) →
        Answers (.rspErr die tag st) s (fun t =>
          t.coh.got = s.coh.got ++ [{ op := 0x1E, src := 24, dst := die, tag, line := 0, body := st }] ∧ CoherenceFrame s t))) ∧
    (∀ m data poison v, data.length = 256 → m.sill = 0 → agent ∉ s.coh.lost →
      s.coh.net.find? (fun m => isMsg 0x21 line agent m && m.data = data && m.poison = poison) = some m →
      v = takeFelt (fun m => isMsg 0x21 line agent m && m.data = data && m.poison = poison) s →
      (∀ w u, agentRoom agent line v = (some w, u) →
        Answers (.offer agent ⟨line, .good⟩ data poison) s (fun t => agentLine t agent line = some { st := .E, way := w, data, poison } ∧
          Sent t { op := 0x31, src := agent, dst := home, tag := 0, line, body := w } ∧ CoherenceFrame s t)) ∧
      (∀ u, agentRoom agent line v = (none, u) →
        Answers (.offer agent ⟨line, .good⟩ data poison) s (fun t => t.coh.lines = s.coh.lines ∧
          Sent t { op := 0x32, src := agent, dst := home, tag := 0, line, body := 0 } ∧ CoherenceFrame s t)))

/-- R259: the loss of an agent whose link does not carry a snoop takes its lines and filter entries away, answers the snoop with
RSP_I, and poisons every line that a lost L3 might have changed; a lost RLC poisons nothing. -/
def Obligations.lost_agents_are_answered_for : Prop :=
  ∀ (s : State) (agent : Nat) (m : FeltMsg), s.alive = true → agent ∉ s.coh.lost → groupServes s agent ≠ 0 →
    m ∈ s.coh.net ∨ m ∈ s.felt.stalled → 0x11 ≤ m.op → m.op ≤ 0x13 → m.dst = agent →
    Answers (.agentLost agent) s (fun t => agent ∈ t.coh.lost ∧ (∀ e ∈ t.coh.filter, e.1 / 2 ^ 20 ≠ agent) ∧
      (∀ e ∈ t.coh.lines, e.1 / 2 ^ 34 ≠ agent) ∧
      Sent t { op := 0x19, src := agent, dst := m.line / 2 ^ 28, tag := m.tag, line := m.line } ∧
      (agent < 16 → t.mem = s.mem ∧ t.l2 = s.l2) ∧
      (16 ≤ agent → ∀ e ∈ s.coh.filter, e.1 / 2 ^ 20 = agent → e.2.st ≠ .S → t.poisoned e.2.line = true) ∧
      (agent < 16 ∨ s.partOfDie agent = none → t.mem.bytes = s.mem.bytes))


/-- R209, R212, R213, R214, R232, R237: a prefetched line joins the side buffer unless a write took it out of flight; a scrub corrects
in place and counts, and starts a repair of a row that needed correction a beat earlier; an uncorrectable sector poisons its line
in the stack, not a copy in the L2, and is logged once; refresh and repair begin and end, and a repair that waited starts then; a
disabled bank-way gives up all its lines. No byte of memory changes. -/
def Obligations.stack_events_act : Prop :=
  ∀ (s : State) (k line : Nat), s.alive = true → s.run = {} →
    let alone := fun (t : State) => (∀ j, j ≠ k → t.stack j = s.stack j) ∧ t = { s with stks := t.stks, run := {} }
    (∀ z, s.l2Of k = z → line ∈ z.flight → z.enabled = true → z.prefetch = true → s.stored line = {} →
      Answers (.prefetchArrival k line .good) s (fun t =>
        t.l2Of k = { z with
          flight := z.flight.filter (· ≠ line)
          side := (if 1024 ≤ z.side.length then z.side.drop 1 else z.side) ++ [(line, {})] } ∧
        (∀ d, d ≠ k → t.l2Of d = s.l2Of d) ∧ t = { s with l2 := t.l2, run := {} })) ∧
    (∀ md, line ∉ (s.l2Of k).flight → Answers (.prefetchArrival k line md) s (fun t => t = s)) ∧
    (placeOf s (line * 256) = .stack k → s.stackState k = 0 →
      (∀ row z first again, s.stored line = {} → z = s.stack k → first = lookD z.ceRows row s.time.now →
        again = (decide (first + s.time.beatNs ≤ s.time.now) && z.repair ≠ some row && !z.noSpare.contains (bankOfRow row)) →
        Answers (.patrolScrub line (.corrected row)) s (fun t => alone t ∧
          t.stack k = startRepair { z with
            ceTotal := Nat.min (z.ceTotal + 1) (2 ^ 32 - 1), ceRows := put z.ceRows row first
            due := if again && !z.due.contains row then z.due ++ [row] else z.due } ∧
          (again = true → z.due = [] → z.repair = none → z.elevated = false →
            (t.stack k).repair = some row ∧ (t.stack k).due = []))) ∧
      ((s.stored line).poison = false → s.evt.unread < 1008 → Answers (.patrolScrub line .ue) s (fun t =>
          (t.stored line).poison = true ∧ (∀ l, l ≠ line → t.stored l = s.stored l) ∧ t.l2 = s.l2 ∧ t.mem.bytes = s.mem.bytes ∧
          (t.stack k).ueTotal = Nat.min ((s.stack k).ueTotal + 1) 65535 ∧
          (∃ r, look t.evt.slots s.evt.tail = some r ∧ r.code = 0x0301 ∧ r.cls = 2 ∧
            r.payload = evPayload (evAt 0 k + evAt 1 2 + evAt 2 (b01 (s.superseded k line)) + evAt 8 (line * 256))) ∧
          MemoryFrame s t)) ∧
      ((s.stored line).poison = true → Answers (.patrolScrub line .ue) s (fun t => t = s))) ∧
    (∀ temp, s.stackState k ≠ 2 →
      (85 ≤ temp → Answers (.elevatedRefreshStart k temp) s (fun t =>
        t.stack k = { s.stack k with elevated := true, temp := temp } ∧ alone t)) ∧
      (temp < 80 → Answers (.elevatedRefreshEnd k temp) s (fun t => alone t ∧
        t.stack k = startRepair { s.stack k with elevated := false, temp := temp } ∧
        (∀ row, (s.stack k).due = [row] → (s.stack k).repair = none → bankOfRow row ∉ (s.stack k).noSpare →
          (t.stack k).repair = some row ∧ (t.stack k).due = [])))) ∧
    (∀ row, (s.stack k).repair = some row →
      Answers (.rowRepairDone k true) s (fun t => alone t ∧
        t.stack k = startRepair
          { s.stack k with repair := none, soft := (s.stack k).soft + 1, ceRows := del (s.stack k).ceRows row }) ∧
      (s.evt.unread < 1008 → Answers (.rowRepairDone k false) s (fun t =>
        (t.stack k).repair ≠ some row ∧ bankOfRow row ∈ (t.stack k).noSpare ∧ (t.stack k).soft = (s.stack k).soft + 1 ∧
        (∃ r, look t.evt.slots s.evt.tail = some r ∧ r.code = 0x0302 ∧ r.cls = 3) ∧ t.mem = s.mem))) ∧
    (∀ bank way, 16 < lookD (s.l2Of k).ce (bank * 16 + way) 0 → bank * 16 + way ∉ (s.l2Of k).off → s.evt.unread < 1008 →
      Answers (.l2WayOff k bank way) s (fun t =>
        bank * 16 + way ∈ (t.l2Of k).off ∧
        (∀ key, look (t.l2Of k).lines key = if key / 16 / 384 = bank ∧ key % 16 = way then none else look (s.l2Of k).lines key) ∧
        (∀ d, d ≠ k → t.l2Of d = s.l2Of d) ∧ t.mem.bytes = s.mem.bytes ∧
        (∃ r, look t.evt.slots s.evt.tail = some r ∧ r.code = 0x0308 ∧ r.cls = 3) ∧
        t = { s with l2 := t.l2, mem := t.mem, evt := t.evt, host := t.host, run := {} }))

/-- R192, R225, R251, R252, R267, R299, R373: a load, fetch or store of a processor core that its L3 can serve completes there, a
store making the line M; one that misses asks the home for the line, a store to a line held in S or O for the upgrade, and an
AMO, LR or SC for itself; an access to host memory is performed there uncached; a refused access ends with the core's
access fault; a translation fault stalls the core. -/
def Obligations.processor_accesses_act : Prop :=
  ∀ (s b u : State) (k p va a size : Nat) (v : W64) (op : ProcOp), b = begins [] [] s → s.alive = true → s.dieHere (l3Of k) = true →
    look s.procReq k = none → procWaits s k va = false → s.partOfProc (k / 24) = some p → Goes u →
    let agent := l3Of k
    let line := a / 256
    let cmd := Instr.processorCoreAccess k op va size v [] .good
    let asks := fun (code way : Nat) (t : State) =>
      look t.procReq k = some { op, addr := a, size, v, way, asid := (procEngine k p op b).asid, page := va / 2 ^ 26 } ∧
      (look t.coh.txns line).any (fun x => x.req.kind.code = code && x.req.q.proc = some k && x.query) = true ∧
      t.mem = u.mem ∧ t.proc = u.proc
    let reaches := fun (j : Nat) => ∀ r : HomeReq, r.q.die = agent → r.line = line → Reaches r j u
    (∀ j, translate (procEngine k p op b) va (procAcc op) b = (.dev a, u) → placeOf u a = .stack j →
      accessStatus (some p) agent a { crown := decide (a < 2 ^ 40) } u = ST.ok →
      (∀ e, agentLine u agent line = some e → e.poison = false →
        (op = .load ∨ op = .fetch → e.st = .M ∨ e.st = .O ∨ e.sill = 0 →
          Answers cmd s (fun t => look t.proc k = some (.value (BitVec.ofNat 64 (leAt e.data (a % 256) size))) ∧
            (∀ c, c ≠ k → look t.proc c = look u.proc c) ∧ t.mem = u.mem ∧ t.procReq = u.procReq ∧ t.hostMem = u.hostMem)) ∧
        (op = .store → e.st = .M ∨ e.st = .E →
          Answers cmd s (fun t => look t.proc k = some .done ∧
            (agentLine t agent line).map (fun x => (x.st, x.data)) =
              some (.M, e.data.take (a % 256) ++ leBytes size v.toNat ++ e.data.drop (a % 256 + size)) ∧
            t.mem = u.mem ∧ t.procReq = u.procReq ∧ t.hostMem = u.hostMem))) ∧
      (reaches j → Rests j u → look u.coh.txns line = none → homeOpen u j < 1024 → (outstanding u agent).length < 256 →
        (∀ code, (op, code) ∈ [(ProcOp.lr, 0x08), (.sc, 0x09)] ∨ (∃ f5, op = .amo f5 ∧ code = 0x07) → Answers cmd s (asks code 0)) ∧
        ((∀ e ∈ u.procReq, l3Of e.1 ≠ agent ∨ lineOf e.2.addr ≠ line) →
          (∀ e, agentLine u agent line = some e → op = .store → e.st = .S ∨ e.st = .O → Answers cmd s (asks 0x03 e.way)) ∧
          (∀ code w n, agentLine u agent line = none → pendingWb u agent line = none →
            (op, code) ∈ [(ProcOp.load, 0x01), (.fetch, 0x01), (.store, 0x02)] → l3Way agent line u = some (w, n) →
            (∀ e, agentWay u agent line w = some e → (e.2.st ≠ .M ∧ e.2.st ≠ .O) ∨ (freeBuf agent u).isSome = true) →
            Answers cmd s (asks code w))))) ∧
    (∀ st, translate (procEngine k p op b) va (procAcc op) b = (.dev a, u) →
      accessStatus (some p) agent a { crown := decide (a < 2 ^ 40) } u = st → st ≠ ST.ok →
      Answers cmd s (fun t => look t.proc k = some (.exception (procFaultCode op)) ∧ t.mem = u.mem ∧ t.coh = u.coh)) ∧
    (translate (procEngine k p op b) va (procAcc op) b = (.host a, u) → u.host.canIssue = true → u.host.hostLost = false →
      (op = .store → Answers cmd s (fun t =>
        t.hostMem = cellsPut u.hostMem a (leBytes size v.toNat) ∧ look t.proc k = some .done ∧ t.mem = u.mem)) ∧
      (op = .load ∨ op = .fetch → Answers cmd s (fun t =>
        look t.proc k = some (.value (BitVec.ofNat 64 (leNat (cellsGet u.hostMem a size)))) ∧ t.mem = u.mem ∧ t.hostMem = u.hostMem))) ∧
    (∀ re st, translate (procEngine k p op b) va (procAcc op) b = (.fault re st, u) →
      Answers cmd s (fun t => look t.proc k = some .stalled ∧ t.mem = u.mem))


/-- R311, R313, R314, R317, R318, R320, R321, R222, R408, R421: retries are counted, and a module with too many is retrained; its test
takes spares, or abandons a half and reports the width; widths that agree take effect; a partial reset retrains every module of
the group; requests held too long end with ST_DIE_LOST; credits let waiting messages go; sideband messages set what they say; the
reserve tier is absent once its link is down. -/
def Obligations.links_and_die_sites_act : Prop :=
  ∀ (s : State), s.run = {} →
    let onlyModule := fun (k : Nat) (t : State) => (∀ j, j ≠ k → t.module j = s.module j) ∧ t.mem = s.mem ∧ t.coh = s.coh ∧
      t.dies = s.dies ∧ t.ctxs = s.ctxs
    let logged := fun (code cls : Nat) (t : State) => ∃ r, look t.evt.slots s.evt.tail = some r ∧ r.code = code ∧ r.cls = cls
    (∀ k, s.alive = true → (s.module k).state = 0 →
      (∀ failed, Answers (.flitCrcFail k failed) s (fun t =>
        t.module k = { s.module k with
          crc := Nat.min ((s.module k).crc + 1) (2 ^ 32 - 1)
          retries := s.time.now :: (s.module k).retries.filter fun x => decide (s.time.now < x + 1000000)
          failures := if failed then (s.module k).failures + 1 else 0 } ∧
        onlyModule k t ∧ t = { s with felt := { s.felt with modules := t.felt.modules }, run := {} })) ∧
      (16 < ((s.module k).retries.filter fun x => decide (s.time.now < x + 1000000)).length ∨ 4 ≤ (s.module k).failures →
        Answers (.moduleRetrain k) s (fun t =>
          t.module k = { s.module k with
            state := 1, retrains := Nat.min ((s.module k).retrains + 1) 255, retries := [], failures := 0, since := s.time.now } ∧
          onlyModule k t))) ∧
    (∀ k x, s.alive = true → s.module k = x → x.state = 1 → x.width = 3 → x.lostLo = false → x.lostHi = false →
      (∀ failD failT a b, a = ones 32 failD.toNat + ones 4 failT.toNat →
        b = ones 32 (failD.toNat / 2 ^ 32) + ones 4 (failT.toNat / 16) →
        (x.sparesLo + a ≤ 2 → x.sparesHi + b ≤ 2 → Answers (.laneTestDone k failD failT) s (fun t =>
          t.module k = { x with sparesLo := x.sparesLo + a, sparesHi := x.sparesHi + b, badD := failD, badT := failT } ∧
          onlyModule k t ∧ t.evt = s.evt)) ∧
        (2 < x.sparesLo + a → x.sparesHi + b ≤ 2 → s.evt.unread < 1008 → Answers (.laneTestDone k failD failT) s (fun t =>
          (t.module k).width = 2 ∧ (t.module k).state = 1 ∧ onlyModule k t ∧ logged 0x0201 3 t)) ∧
        (2 < x.sparesLo + a → 2 < x.sparesHi + b → s.evt.unread < 1008 → Answers (.laneTestDone k failD failT) s (fun t =>
          (t.module k).width = 0 ∧ (t.module k).state = 2 ∧ onlyModule k t ∧ logged 0x0202 3 t))) ∧
      (∀ re, s.felt.held = [] → s.coh.lost = [] → Answers (.widthConfirm k 3 3 re) s (fun t =>
        t.module k = { x with state := 0, mismatches := 0 } ∧ (∀ j, j ≠ k → t.module j = s.module j) ∧ t.mem = s.mem ∧
        t.dies = s.dies ∧ t.ctxs = s.ctxs ∧ t.coh = { s.coh with snooped := s.coh.snooped.filter (· ≠ groupOf k) })) ∧
      (∀ re, x.mismatches < 2 → Answers (.widthConfirm k 2 3 re) s (fun t =>
        t.module k = { x with mismatches := x.mismatches + 1, retrains := Nat.min (x.retrains + 1) 255, lostLo := true } ∧
        onlyModule k t)) ∧
      (2 ≤ x.mismatches → s.evt.unread < 1008 → Answers (.widthConfirm k 2 3 false) s (fun t =>
        (t.module k).state = 2 ∧ (t.module k).width = 0 ∧ onlyModule k t ∧ logged 0x0202 3 t)) ∧
      (2 ≤ x.mismatches → k < 88 → s.partOfDie (moduleDie k).1 = none → s.evt.unread < 1008 →
        Answers (.widthConfirm k 2 3 true) s (fun t =>
          (∀ j ∈ groupModules (groupOf k), (t.module j).state = 3) ∧ (t.die (moduleDie k).1).state = 1 ∧
          (∀ d, d ≠ (moduleDie k).1 → t.die d = s.die d) ∧ logged 0x0104 3 t ∧ t.mem = s.mem))) ∧
    (∀ g cause, s.alive = true → s.evt.unread < 1008 →
      (Answers (.partialReset g cause 0) s (fun t =>
        (∀ k ∈ groupModules g, (s.module k).state = 0 → (t.module k).state = 1) ∧
        (∀ k, k ∉ groupModules g → t.module k = s.module k) ∧ t.coh = s.coh ∧ t.mem = s.mem ∧ logged 0x0203 2 t)) ∧
      (∀ m, s.coh.net.filter (crosses s g) = [m] → m.op = 0x20 → look s.coh.txns m.line = none → look s.procReq m.tag = none →
        Answers (.partialReset g cause 1) s (fun t =>
          t.coh.net = dropFirst (· = m) s.coh.net ∧
          t.coh.got = s.coh.got ++ [{ op := 0x1E, src := 24, dst := m.dst, tag := m.tag, line := m.line, body := ST.dieLost,
                                      poison := true }] ∧ t.mem = s.mem ∧ logged 0x0203 2 t)) ∧
      (∀ reason, 16 ≤ g → g < 24 → s.dieHere g = true → s.coh.net.filter (crosses s g) = [] →
        Answers (.dieResetNotice g reason) s (fun t =>
          (t.die g).resetReason = some reason ∧ (∀ d, d ≠ g → t.die d = s.die d) ∧
          (∀ k ∈ groupModules g, (s.module k).state = 0 → (t.module k).state = 1) ∧ t.coh = s.coh ∧ t.mem = s.mem ∧
          logged 0x0203 2 t))) ∧
    (∀ r rest, s.alive = true → s.felt.held = r :: rest → look s.procReq r.q.tag = none →
      Answers (.heldRequestTimeout r.q.die r.q.tag) s (fun t =>
        t.felt.held = rest ∧
        t.coh.got = s.coh.got ++ [{ op := 0x1E, src := 24, dst := r.q.die, tag := r.q.tag, line := r.line, body := ST.dieLost,
                                    poison := true }] ∧
        t = { s with felt := { s.felt with held := rest }, coh := t.coh, run := {} })) ∧
    (∀ d, d < 24 → s.rst.step = 2 ∨ s.rst.step = 3 → ∀ i v,
      Answers (.capWord d i v) s (fun t =>
        t.die d = { s.die d with caps := put (s.die d).caps i v, identity := if i = 0 then v else (s.die d).identity } ∧
        (∀ e, e ≠ d → t.die e = s.die e) ∧ t = { s with dies := t.dies, run := {} })) ∧
    (∀ d w2 w3, d < 24 → 3 ≤ s.rst.step → s.rst.step ≤ 8 → s.dieHere d = true →
      Answers (.capSelect d w2 w3) s (fun t =>
        t.die d = { s.die d with sel2 := w2, sel3 := w3 } ∧ (∀ e, e ≠ d → t.die e = s.die e) ∧
        t = { s with dies := t.dies, run := {} })) ∧
    (∀ d, s.alive = true → s.dieHere d = true →
      (∀ p w, endedOn s d = [] → Answers (.telemetry d p w) s (fun t =>
        t.die d = { s.die d with powerW := p, temp := w } ∧ (∀ e, e ≠ d → t.die e = s.die e) ∧
        t = { s with dies := t.dies, run := {} })) ∧
      (∀ p w x u, endedOn s d = [x] → u = s.setDie d (fun y => { y with powerW := p, temp := w }) → s.evt.unread < 960 →
        Answers (.telemetry d p w) s (fun t => t.dies = u.dies ∧ t.mem = s.mem ∧ t.ctxs = s.ctxs ∧
          ∃ drawn ≤ drawnMost u x, (x.cost.energy < drawn → logged 0x0501 0 t) ∧ (drawn ≤ x.cost.energy → t.evt = s.evt))) ∧
      (∀ w e, 16 ≤ d → d < 24 → Answers (.powerLimit d w e) s (fun t =>
        t.die d = { s.die d with limitW := w, limitEmergency := e } ∧ (∀ e, e ≠ d → t.die e = s.die e) ∧
        t = { s with dies := t.dies, run := {} }))) ∧
    (∀ g dir vc n, s.alive = true →
      (s.felt.stalled = [] → Answers (.creditReturn g dir vc n) s (fun t =>
        creditsOf t g dir vc = Nat.min (linkCredits s g dir vc) (creditsOf s g dir vc + n) ∧
        t = { s with felt := { s.felt with credits := t.felt.credits }, run := {} })) ∧
      (∀ m, s.felt.stalled = [m] → m.req = none → vcOf m.op = vc → m.hops s = [(g, dir)] → 0 < n → 0 < linkCredits s g dir vc →
        Answers (.creditReturn g dir vc n) s (fun t =>
          t.felt.stalled = [] ∧ t.coh.net = s.coh.net ++ [m] ∧
          creditsOf t g dir vc = Nat.min (linkCredits s g dir vc) (creditsOf s g dir vc + n) - 1))) ∧
    (s.alive = true → s.reserveLog2 ≠ 0 → Answers .reserveLinkDown s (fun t => t.reserveLog2 = 0 ∧ t.cores = s.cores)) ∧
    (s.alive = true → s.reserveLog2 ≠ 0 → s.evt.unread < 1008 →
      (∀ e ∈ s.ctxs, ∀ i ∈ e.2.items, i.phase < 3 → touchesReserve e.1 e.2 i s = false) →
      Answers .reserveLinkDown s (fun t =>
        t.reserveLog2 = 0 ∧ logged 0x0404 3 t ∧ t = { s with reserveLog2 := 0, evt := t.evt, host := t.host, run := {} }))


/-- R382, R385, R386, R387, R389: a packet taken in its turn is performed and raises the number expected: PUT_DATA writes its
lines whole and counts them for RECV; GET_REQ sends the lines back; GET_DATA writes them and counts them for its item; SIGNAL stores
or adds at the flag's home; COLL keeps its lines. What no locked entry covers is refused with NAK and writes nothing. ACK and NAK
release what they answer; timeouts send again, acknowledge, or stop the job; ports go down and return. -/
def Obligations.peer_packets_act : Prop :=
  ∀ (s b : State) (p : Pkt) (j : Job) (md : Media), s.run = {} → b = { s with run := { media := md } } →
    let expected := fun (t : State) => (t.path p.job p.src p.port).expect = (p.seq + 1) % 2 ^ 32
    let written := fun (addrs : List Nat) (data : List Byte) (sill : List W64) (t : State) =>
      (∀ k < addrs.length, ∀ a d, addrs[k]? = some a → ((arrived p data sill b).1)[k]? = some d →
        lineBytes t (a / 256) = d.1 ∧ t.poisoned (a / 256) = d.2) ∧
      ∀ x, x / 256 ∉ addrs.map (· / 256) → lookD t.mem.bytes x 0 = lookD s.mem.bytes x 0
    let free := fun (addrs : List Nat) (hints : List (Option Nat)) (data : List Byte) (sill : List W64) =>
      (addrs.map (· / 256)).Nodup ∧
      Goes (putLines p.port hints addrs (arrived p data sill b).1 (arrived p data sill (peerWait p.port addrs b)).2)
    let at_ := fun (a : Nat) => atEngine (20 + p.port / 4) (0x3000 + p.port) [] (peerWait p.port [a] b)
    (Takes p j s → j.id = p.job → Quiet p.job s →
      (∀ data sill addrs, md = [] → peerLines p.port j.asid j.part (pktLine p) { wr := true } p.lines b = .ok addrs →
        free addrs ((List.range p.lines).map fun k => recvHint s p.job p.src (pktLine p + 256 * k)) data sill →
        Answers (.putData p data sill md) s (fun t => written addrs data sill t ∧ expected t ∧ t.ctxs = s.ctxs ∧
          ∀ k < p.lines, ∀ r ∈ recvItems s p.job p.src (pktLine p + 256 * k), (r.1, r.2, pktLine p + 256 * k) ∈ t.peer.recvd)) ∧
      (∀ data sill e, peerLines p.port j.asid j.part (pktLine p) { wr := true } p.lines b = .error e →
        s.evt.unread < 960 → Answers (.putData p data sill md) s (fun t => t.mem = s.mem ∧ t.ctxs = s.ctxs ∧ expected t ∧
          Wired t p.job OP.nak p.src [BitVec.ofNat 64 (e.st + p.seq * 2 ^ 16)] ∧
          ∃ n < 2, ∃ r, look t.evt.slots ((s.evt.tail + n) % 1008) = some r ∧ r.code = 0x0704)) ∧
      (∀ back addrs x, peerLines p.port j.asid j.part (pktLine p) { rd := true } p.lines b = .ok addrs →
        x = packLines p.port addrs (peerWait p.port addrs b) → Goes x.2.2.2 →
        Answers (.getReq p back md) s (fun t => expected t ∧ t.mem = x.2.2.2.mem ∧ t.ctxs = s.ctxs ∧
          ∃ k, t.peer.out = k :: s.peer.out ∧ k.op = OP.getData ∧ k.hdr.dst = p.src ∧ k.hdr.port = p.port ∧ k.hdr.addr = back ∧
            k.hdr.lines = p.lines ∧ k.data = x.1 ∧ k.hdr.poison = x.2.1)) ∧
      (∀ v a, peerAddr p.port j.asid j.part p.addr { wr := true } b = .ok a →
        (Goes (lineWrite (lineOf a) (atOffsets (a % 256 / 8 * 8) (leBytes 8 v.toNat)) false true (at_ a)) →
          Answers (.esrikSignal p v false md) s (fun t => expected t ∧ t.ctxs = s.ctxs ∧
            cellsGet t.mem.bytes (a / 8 * 8) 8 = leBytes 8 v.toNat ∧
            ∀ x < 2 ^ 42, x < a / 8 * 8 ∨ a / 8 * 8 + 8 ≤ x → memByte t x = memByte s x)) ∧
        (a < 2 ^ 40 → Goes (homeAtomic (lineOf a) 0 8 [(a % 256 / 8, v)] (at_ a)).2.2 →
          Answers (.esrikSignal p v true md) s (fun t => expected t ∧ t.ctxs = s.ctxs ∧
            leNat (cellsGet t.mem.bytes (a / 8 * 8) 8)
              = (leNat ((List.range 8).map fun k => memByte s (a / 8 * 8 + k)) + v.toNat) % 2 ^ 64 ∧
            ∀ x < 2 ^ 42, x < a / 8 * 8 ∨ a / 8 * 8 + 8 ≤ x → memByte t x = memByte s x))) ∧
      (∀ data sill, (∀ y ∈ s.peer.colls, y.job = p.job → y.coll ≠ p.addr / 2 ^ 32) →
        Answers (.coll p data sill md) s (fun t => expected t ∧ t.mem = s.mem ∧ t.ctxs = s.ctxs ∧
          t.peer.colls = s.peer.colls ++ [{ job := p.job, coll := p.addr / 2 ^ 32, ctx := noOwner, seq := 0, parts :=
            if p.lines = 0 then [(p.src, p.addr % 2 ^ 32, [], false)] else
            (((List.range p.lines).map (p.addr % 2 ^ 32 + ·)).zip (arrived p data sill b).1).map fun e =>
              (p.src, e.1, e.2.1, e.2.2) }]))) ∧
    (∀ data sill addrs c x i, md = [] → Takes p j s → j.id = p.job → getItem b j.id p.src (pktLine p) = some (c, x, i) → s.item c i.seq = some i →
      peerLines p.port x.asid x.part (pktLine p) { wr := true } p.lines b = .ok addrs →
      free addrs ((List.range p.lines).map fun _ => hintOf (i.f 26 1)) data sill → i.packets ≤ i.next →
      i.moved + 256 * p.lines < i.f 56 8 → (∀ d y k, frontItem s d = some (y, k) → k.job = p.job → d = c) →
      Answers (.getData p data sill md) s (fun t => written addrs data sill t ∧ expected t ∧
        (t.item c i.seq).map (·.moved) = some (i.moved + 256 * p.lines))) ∧
    (∀ z, s.alive = true → portUp s p.port = true → jobOf s p.job = some j → p.dst = j.self → z = s.path p.job p.src p.port →
      Quiet p.job s →
      (j.state < 3 → (∃ k ∈ z.unacked, seqBefore k.hdr.seq p.ack = true) → Answers (.esrikAck p md) s (fun t =>
        t.path p.job p.src p.port = { z with unacked := z.unacked.filter (fun k => !seqBefore k.hdr.seq p.ack), retries := 0 } ∧
        (∀ q : Path, (q.job, q.peer, q.port) ≠ (z.job, z.peer, z.port) → t.path q.job q.peer q.port = s.path q.job q.peer q.port) ∧
        t = { s with peer := { s.peer with paths := t.peer.paths }, run := {} })) ∧
      (∀ k, j.state = 1 ∨ j.state = 2 → z.unacked = [k] → k.own = none → Answers (.nak p ST.noJob k.hdr.seq) s (fun t =>
        t.path p.job p.src p.port = { z with unacked := [] } ∧ t = { s with peer := { s.peer with paths := t.peer.paths }, run := {} })) ∧
      (∀ k c q i u, md = [] → j.state = 1 ∨ j.state = 2 → z.unacked = [k] → k.own = some (c, q) → s.item c q = some i → i.phase = 2 →
        u = dropPeer c q (endItem c q ST.noJob (b.setPath { z with unacked := [] })) → Quiet p.job u → Goes u →
        Answers (.nak p ST.noJob k.hdr.seq) s (fun t => t.ctxs = u.ctxs ∧ t.hostMem = u.hostMem ∧ t.mem = u.mem))) ∧
    (∀ job peer port z, s.alive = true → z = s.path job peer port →
      (portUp s port = true → z.unacked ≠ [] → Answers (.retransmitTimeout job peer port) s (fun t =>
        (t.path job peer port) = { z with retries := Nat.min (z.retries + 1) 6 } ∧
        t.peer.out = (z.unacked.map fun k => { k with hdr := { k.hdr with ack := z.expect } }).reverse ++ s.peer.out ∧
        t = { s with peer := { s.peer with paths := t.peer.paths, out := t.peer.out }, run := {} })) ∧
      (portUp s port = true → 0 < z.owed → Answers (.ackTimer job peer port) s (fun t =>
        t.path job peer port = { z with owed := 0 } ∧
        (∃ k, t.peer.out = k :: s.peer.out ∧ k.op = OP.ack ∧ k.hdr.dst = peer ∧ k.hdr.port = port ∧ k.hdr.ack = z.expect) ∧
        t = { s with peer := { s.peer with paths := t.peer.paths, out := t.peer.out }, run := {} })) ∧
      (z.unacked ≠ [] → jobOf s job = some j → j.state < 3 → s.evt.unread < 900 →
        (∀ e ∈ s.ctxs, ∀ i ∈ e.2.items, i.phase < 3 → i.job ≠ job) → Answers (.peerPathLost job peer port) s (fun t =>
          (jobOf t job).map (·.state) = some 3 ∧ t.ctxs = s.ctxs ∧ t.mem = s.mem ∧
          (∃ r, look t.evt.slots s.evt.tail = some r ∧ r.code = 0x0703) ∧
          ∃ r, look t.evt.slots ((s.evt.tail + 1) % 1008) = some r ∧ r.code = 0x0706))) ∧
    (∀ port, s.alive = true →
      (portUp s port = true → s.evt.unread < 1008 → Answers (.portDown port) s (fun t =>
        port ∈ t.peer.down ∧ (∀ k, k ≠ port → (k ∈ t.peer.down ↔ k ∈ s.peer.down)) ∧ portUp t port = false ∧
        (∃ r, look t.evt.slots s.evt.tail = some r ∧ r.code = 0x0701) ∧ t.mem = s.mem ∧ t.ctxs = s.ctxs)) ∧
      (port ∈ s.peer.down → s.evt.unread < 960 → (∀ c x i, frontItem s c = some (x, i) → i.kind ≠ 5 ∧ i.kind ≠ 6) →
        Answers (.portUp port) s (fun t =>
          t.peer.down = s.peer.down.filter (· ≠ port) ∧ (∃ r, look t.evt.slots s.evt.tail = some r ∧ r.code = 0x0702) ∧
          (∀ z ∈ s.peer.paths, z.port = port → ∀ k ∈ z.unacked, { k with hdr := { k.hdr with ack := z.expect } } ∈ t.peer.out) ∧
          t.mem = s.mem ∧ t.ctxs = s.ctxs)) ∧
      (∀ pfx, s.peer.pfx = none → portUp s 0 = true → Answers (.routerAdvertisement 0 true pfx) s (fun t =>
        t = { s with peer := { s.peer with pfx := some pfx }, run := {} })))


/-- R376, R395 to R401: JOB_ARM keeps a record of the job and its tree, and the root's sends ARM; an ARM that agrees is forwarded
and answered, one that differs is refused; COMMIT commits and is forwarded; a committed job runs from beat S, another is aborted;
heartbeats are kept and missed ones reported; JOB_STOP is forwarded and takes effect at the next boundary, the command's at once. -/
def Obligations.jobs_arm_run_and_stop : Prop :=
  ∀ (s : State) (id : Nat) (j : Job), jobOf s id = some j → s.run = {} → portUp s (controlPort s) = true → s.alive = true →
    let away := fun (t : State) => (∀ i, i ≠ id → jobOf t i = jobOf s i) ∧ t.mem = s.mem ∧ t.ctxs = s.ctxs
    let logged := fun (code : Nat) (t : State) => ∃ r, look t.evt.slots s.evt.tail = some r ∧ r.code = code
    let stopWords := fun (m beat : Nat) => [BitVec.ofNat 64 m, BitVec.ofNat 64 beat]
    (∀ m seq, Open s m → word s m 0 = id → id < 2 ^ 32 → j.state < 3 → s.evt.unread < 960 →
      (∀ e ∈ s.ctxs, ∀ i ∈ e.2.items, i.phase < 3 → i.job ≠ id) →
      Answers (.jobStop m seq 1) s (fun t => Replied t m seq ST.ok [] ∧ jobOf t id = some { j with state := 3, stopping := none } ∧
        away t ∧ logged 0x0706 t)) ∧
    (∀ p start epoch period lock floor clock digest, Comes p j s → p.job = id → j.state = 0 → j.self ∉ j.agreed →
      (start = j.start → epoch = j.epoch → period = j.period → lock = j.lockstep → floor = j.floor → clock = j.clock →
        digest = j.digest → Answers (.arm p start epoch period lock floor clock digest) s (fun t =>
          (∀ k ∈ j.kids, Wired t id OP.arm k (armWords j)) ∧ (jobOf t id).any (fun k => k.agreed.contains j.self) = true ∧
          ((∀ k ∈ j.kids, k ∈ j.agreed) → j.root = false → j.refused = false → j.sentAck = false →
            ∀ a ∈ j.parent1, Wired t id OP.armAck a [0]) ∧ away t)) ∧
      (start ≠ j.start ∨ epoch ≠ j.epoch ∨ period ≠ j.period ∨ lock ≠ j.lockstep ∨ floor ≠ j.floor ∨ clock ≠ j.clock ∨
        digest ≠ j.digest → j.refused = false →
        Answers (.arm p start epoch period lock floor clock digest) s (fun t =>
          (jobOf t id).any (·.refused) = true ∧ (∀ a ∈ j.parent1, Wired t id OP.armAck a [1]) ∧ away t))) ∧
    (∀ p, Comes p j s → p.job = id → j.state = 0 →
      (p.src ∈ j.kids → Answers (.armAck p false) s (fun t =>
        (jobOf t id).any (fun k => k.agreed.contains p.src) = true ∧ away t ∧
        ((∀ k ∈ j.self :: j.kids, k ∈ j.agreed ∨ k = p.src) → j.root = false → j.refused = false → j.sentAck = false →
          ∀ a ∈ j.parent1, Wired t id OP.armAck a [0]))) ∧
      (p.src ∈ j.kids → j.refused = false → Answers (.armAck p true) s (fun t =>
        (jobOf t id).any (·.refused) = true ∧ (∀ a ∈ j.parent1, Wired t id OP.armAck a [1]) ∧ away t)) ∧
      (p.src ∈ j.parents → Answers (.commit p j.start) s (fun t =>
        jobOf t id = some { j with state := 1 } ∧ (∀ k ∈ j.allKids, Wired t id OP.commit k [BitVec.ofNat 64 j.start]) ∧ away t))) ∧
    (j.root = true → j.state = 0 → s.beat + 1 = j.start →
      (j.refused = false → (∀ k ∈ j.kids, k ∈ j.agreed) → Answers (.commitDecision id) s (fun t =>
        jobOf t id = some { j with state := 1 } ∧ (∀ k ∈ j.allKids, Wired t id OP.commit k [BitVec.ofNat 64 j.start]) ∧ away t)) ∧
      (j.refused = true ∨ (∃ k ∈ j.kids, k ∉ j.agreed) → Answers (.commitDecision id) s (fun t =>
        jobOf t id = some j ∧ (∀ k ∈ j.allKids, Wired t id OP.jobStop k (stopWords 0xFFFF s.beat)) ∧ away t))) ∧
    (j.start ≤ s.beat →
      (j.state = 1 → Quiet id s → Answers (.jobStartBeat id) s (fun t =>
        jobOf t id = some { j with state := 2 } ∧ away t ∧
        ∀ k ∈ (if j.root then j.allKids else j.parents), Wired t id OP.heartbeat k [BitVec.ofNat 64 s.beat])) ∧
      (j.state = 0 → s.evt.unread < 960 → Answers (.jobStartBeat id) s (fun t =>
        jobOf t id = some { j with state := 4, stopping := none } ∧ away t ∧ logged 0x0705 t))) ∧
    (∀ p beat, Takes p j s → p.job = id → Answers (.heartbeat p beat) s (fun t =>
      (jobOf t id).any (fun k => k.beats.contains (p.src, beat)) = true ∧ away t)) ∧
    (j.state = 2 → j.start + 1 ≤ s.beat →
      (j.root = true → (∀ k ∈ j.allKids, (k, s.beat - 1) ∈ j.beats) → Answers (.heartbeatCheck id) s (fun t => t = s)) ∧
      (∀ m, j.root = true → m ∈ j.allKids → (m, s.beat - 1) ∉ j.beats → j.stopping = none →
        (∀ k ∈ j.allKids, m ≤ k ∨ (k, s.beat - 1) ∈ j.beats) → Answers (.heartbeatCheck id) s (fun t =>
          jobOf t id = some { j with stopping := some (m, s.beat) } ∧
          (∀ k ∈ j.allKids, Wired t id OP.jobStop k (stopWords m s.beat)) ∧ away t)) ∧
      (j.root = false → Answers (.heartbeatCheck id) s (fun t => jobOf t id = some j ∧ away t ∧
        (∀ k ∈ j.allKids, (k, s.beat - 1) ∉ j.beats → ∀ a ∈ j.parents, Wired t id OP.childMissing a (stopWords k s.beat)) ∧
        (rootOf j.members ∈ j.parents → (rootOf j.members, s.beat - 1) ∉ j.beats →
          ∀ k ∈ j.allKids, Wired t id OP.jobStop k (stopWords (rootOf j.members) s.beat))))) ∧
    (∀ p m beat, Takes p j s → p.job = id → j.stopping = none →
      (j.root = false → Answers (.childMissing p m beat) s (fun t => jobOf t id = some j ∧ away t ∧
        ∀ a ∈ j.parents, Wired t id OP.childMissing a (stopWords m beat))) ∧
      (j.root = true → Answers (.childMissing p m beat) s (fun t => jobOf t id = some { j with stopping := some (m, beat) } ∧ away t ∧
        ∀ k ∈ j.allKids, Wired t id OP.jobStop k (stopWords m beat))) ∧
      Answers (.esrikJobStop p m beat) s (fun t => jobOf t id = some { j with stopping := some (m, beat) } ∧ away t ∧
        ∀ k ∈ j.allKids, Wired t id OP.jobStop k (stopWords m beat)))

/-- R376, R395, R396, R398: JOB_ARM that meets every condition keeps the record that its words and its tree give, and a root's
ARM goes to its primary children; an ARM without an arming is held, and refused to its sender when beat S − 2 begins. -/
def Obligations.arming_keeps_the_tree : Prop :=
  ∀ (s u : State) (m : Nat) (seq : BitVec 16) (h : HostWrites) (id part floor clock n asid : Nat) (lock prov root : Bool)
    (head body : List Byte) (l : List Member),
    (Open s m → u = hostWrote h s → head = cellsGet u.hostMem (word s m 4) 64 →
      body = cellsGet u.hostMem (word s m 4) (64 + 32 * n) → l = memberEntries body n →
      word s m 0 = id + part * 2 ^ 32 + (b01 lock + 2 * b01 prov + 4 * b01 root) * 2 ^ 40 + floor * 2 ^ 48 →
      0 < id → id < 2 ^ 32 → part < 16 → floor ≤ 32 → (lock = true → 0 < floor) → (lock = false → floor = 0 ∧ clock = 0) →
      s.beat + 3 ≤ word s m 1 → word s m 2 = s.time.epoch → clock < 2 ^ 32 → s.time.period < 2 ^ 32 →
      word s m 3 = s.time.period + clock * 2 ^ 32 → word s m 4 % 4096 = 0 → word s m 5 = 0 → word s m 6 = 0 → word s m 7 = 0 →
      (∀ k ∈ s.peer.jobs, k.id = id → 3 ≤ k.state) → (s.part part).isSome = true →
      (lock = true → prov = true ∧ s.gridWaits = false ∧ s.time.source ≠ 0 ∧ s.time.locked = true ∧ s.time.timeFault = false ∧ clock ≤ s.clock ∧
        floor ≤ issueOf s.pwr.cap ∧ ∀ k ∈ s.peer.jobs, k.part = part → k.lockstep = true → 3 ≤ k.state) →
      leAt head 0 4 = id → leAt head 4 4 = n → 0 < n → n ≤ 65536 → leAt head 10 2 = asid → asid < 4096 → zeroAt head 12 52 = true →
      (look s.aspaces asid).any (·.part = part) = true → (∀ k < n, zeroAt body (64 + 32 * k + 16) 16 = true) →
      treeOk s l (leAt head 8 2) root = true → (jobRoom s.peer.jobs id).length < 4096 →
      Answers (.jobArm m seq 8 true h) s (fun t => Replied t m seq ST.ok [] ∧ t.mem = s.mem ∧ t.ctxs = s.ctxs ∧
        (∃ k, jobOf t id = some k ∧ k.state = 0 ∧ k.part = part ∧ k.lockstep = lock ∧ k.root = root ∧ k.floor = floor ∧
          k.start = word s m 1 ∧ k.epoch = s.time.epoch ∧ k.period = s.time.period ∧ k.clock = clock ∧ k.self = leAt head 8 2 ∧
          k.asid = asid ∧ k.members = l ∧ k.digest = sillage (body.drop 64) ∧
          (root = true → portUp s (controlPort s) = true → ∀ c ∈ k.kids, Wired t id OP.arm c (armWords k))) ∧
        (s.peer.jobs.length < 4096 → ∀ i, i ≠ id → jobOf t i = jobOf s i))) ∧
    (∀ (p : Pkt) (start epoch period floor clock : Nat) (lk : Bool) (digest : W64), s.alive = true → s.run = {} →
      portUp s p.port = true → jobOf s p.job = none →
      Answers (.arm p start epoch period lk floor clock digest) s (fun t =>
        t = { s with run := {}, peer := { s.peer with arms := s.peer.arms.filter (·.job ≠ p.job) ++
          [{ job := p.job, start, epoch, period, lockstep := lk, floor, clock, digest, sender := p.src, self := p.dst }] } })) ∧
    (∀ r, s.alive = true → s.run = {} → portUp s (controlPort s) = true → s.peer.arms.find? (·.job = id) = some r →
      r.start ≤ s.beat + 2 → (∀ k ∈ s.peer.jobs, k.id = id → 3 ≤ k.state) →
      Answers (.armTimeout id) s (fun t => Wired t id OP.armAck r.sender [1] ∧ (∀ x ∈ t.peer.arms, x.job ≠ id) ∧
        t.peer.jobs = s.peer.jobs ∧ t = { s with peer := t.peer, run := {} }))


/-- R391 to R394, R466 to R468, R46: a sample of a time source gives lock, accuracy and the correction; a chosen master, an edge
with a time of day; the loss of a source, and lockstep jobs that end 1,000 ms later. R48, R25, R425, R427, R68, R69: the guard
seals the next accord and demotes an overrun item, with its notice; the boundary turns the beat, its measures and delays; regions
wake or fail. -/
def Obligations.time_and_beats_act : Prop :=
  ∀ (s : State) (t0 : TimeSt), s.time = t0 → s.alive = true → s.run = {} →
    let onlyTime := fun (t : State) => t = { s with time := t.time, run := {} }
    let sampled := fun (v : Servo) (bound : Nat) (barred : Bool) (offset : Int) (t : TimeSt) =>
      t.locked = (decide (16 ≤ v.below) && !barred) ∧ t.accuracy = Nat.min 0xFFFFF (v.worst + bound + 10) ∧
      (if offset < -1000000 ∧ mayStep s = true then t.now = t0.now + offset.natAbs ∧ t.stepped = true ∧ t.slew = 0
       else t.now = t0.now ∧ t.stepped = t0.stepped ∧ t.slew = -offset) ∧ t.epoch = t0.epoch ∧ t.period = t0.period
    (∀ port offset, t0.source = 1 → ptpPort port = true → portUp s port = true →
      (t0.ptpMaster = true → Answers (.ptpEventMessage port offset) s (fun t =>
        t.time.ptp = t0.ptp.add offset ∧ sampled (t0.ptp.add offset) t0.ptp.clockAcc false offset t.time ∧ onlyTime t)) ∧
      (∀ better acc, t0.ptpMaster = true → Answers (.ptpGeneralMessage port 1 better acc offset) s (fun t =>
        t.time.ptp = t0.ptp.add offset ∧ sampled (t0.ptp.add offset) t0.ptp.clockAcc false offset t.time ∧ onlyTime t)) ∧
      (∀ acc, Answers (.ptpGeneralMessage port 0 true acc offset) s (fun t =>
        t.time = { t0 with ptpMaster := true, ptp := { t0.ptp with clockAcc := acc } } ∧ onlyTime t))) ∧
    (∀ cmd, (cmd = Instr.announceTimeout ∧ t0.source = 1 ∧ t0.ptpMaster = true) ∨ (cmd = Instr.syncLoss ∧ t0.source = 2) →
      Answers cmd s (fun t => t.time.locked = false ∧ t.time.ptpMaster = false ∧ t.time.now = t0.now ∧
        t.time.holdover = (t0.holdover <|> some (t0.now, t0.accuracy)) ∧
        (t0.locked = true → t.time.unlockedAt = some t0.now) ∧ onlyTime t)) ∧
    (∀ (nowAt tai : Nat) (offset : Int), t0.source = 2 →
      tai = (if t0.todFresh = true ∧ t0.todAt + 100000000 ≤ t0.now then t0.tod else t0.lastTai + 1) →
      offset = (nowAt : Int) - ((tai * 1000000000 + t0.delayNs : Nat) : Int) → Answers (.syncPpsEdge nowAt) s (fun t =>
        t.time.lastTai = tai ∧ t.time.tod = t0.tod ∧ sampled (t0.sync.add offset) t0.accNs (decide (0xFFFFF ≤ t0.accNs)) offset t.time ∧ onlyTime t)) ∧
    (∀ u, t0.unlockedAt = some u → t0.locked = false → u + 1000000000 ≤ t0.now → s.peer.jobs.Pairwise (fun j k => j.id ≠ k.id) →
      (∀ j ∈ lockstepJobs s, firmItems s j.part = [] ∧ ∀ e ∈ s.ctxs, ∀ i ∈ e.2.items, i.phase < 3 → i.job ≠ j.id) →
      Answers .holdoverLimit s (fun t => t.ctxs = s.ctxs ∧ t.mem = s.mem ∧
        t.peer.jobs = s.peer.jobs.map fun j =>
          if j.lockstep = true ∧ j.state < 3 then { j with state := 3, stopping := none } else j)) ∧
    (t0.inGuard = false → 0 < t0.guard →
      Answers .guardStart s (fun t => t.time.inGuard = true ∧ t.time.now = Nat.max t0.now (t0.nextBoundary - t0.guard * 1000) ∧
        t.plan.sealedTo = Nat.max s.plan.sealedTo (s.beat + 2)) ∧
      (∀ u x i, u = demoteOrphans (spillCores (sealAccord
          { s with time := { t0 with now := Nat.max t0.now (t0.nextBoundary - t0.guard * 1000), inGuard := true } })) →
        s.plan.placed.filter (fun y => decide (y.beat = s.beat) && !y.ghost) = [x] → u.item x.ctx x.seq = some i → i.contracted = true →
        i.slice ≤ x.slice → i.phase = 2 → sliceHalted u x = false → overrunBreach u x = none → latePeer i = false →
        waitersOf u x.ctx x.seq = [] → (∀ e ∈ u.ctxs, e.2.destroy = none) →
        Answers .guardStart s (fun t => (t.item x.ctx x.seq).map (fun i => (i.cls, i.contracted)) = some (2, false) ∧
          t.ctxs = (notice x.ctx x.seq ST.overrunDemoted (noticeRecord 0 0 x.slice (0, 0)) [] (demote x.ctx x.seq u)).ctxs))) ∧
    (∀ sat powerW volts amps, t0.inGuard = true ∨ 0 < t0.guard →
      Answers (.beatBoundary sat powerW volts amps) s (fun t =>
        t.time.now = t0.nextBoundary ∧ t.time.inGuard = false ∧ t.pwr.powerW = powerW ∧ t.pwr.volts = volts ∧ t.pwr.amps = amps ∧
        t.i3c.pwrInput = BitVec.ofNat 64 (pwrInput t) ∧ t.i3c.pwrStatus = BitVec.ofNat 64 (pwrStatus t)) ∧
      (∀ c i, t0.inGuard = true → s.item c i.seq = some i → i.cls ≠ 0 → i.phase < 3 → (∀ e ∈ s.ctxs, e.2.destroy = none) →
        s.plan.placed = [] → s.peer.jobs = [] → t0.stepped = false → t0.newGrid = none →
        Answers (.beatBoundary sat powerW volts amps) s (fun t =>
          (t.item c i.seq).map (fun k => (k.beats, k.delay.age)) = some (i.beats + 1, i.beats + 1)))) ∧
    (∀ r, r ∈ s.pwr.waking →
      Answers (.regionWakeDone r) s (fun t =>
        t.regionState r = lookD s.pwr.leaving r 0 ∧ t.pwr.waking = s.pwr.waking.filter (· ≠ r) ∧
        (∀ k, k ≠ r → t.regionState k = s.regionState k) ∧
        t.ctxs.map (fun e => (e.1, e.2.items.map fun i => { i with lapsed := [] }, { e.2 with items := [] })) =
          s.ctxs.map (fun e => (e.1, e.2.items.map fun i => { i with lapsed := [] }, { e.2 with items := [] })) ∧ t = { s with pwr := t.pwr, ctxs := t.ctxs, run := {} }) ∧
      (r < 64 → s.evt.unread < 1008 → Answers (.regionWakeFail r) s (fun t =>
        t.regionFailed r = true ∧ t.regionState r = 3 ∧ t.pwr.waking = s.pwr.waking.filter (· ≠ r) ∧
        (∀ k, k ≠ r → t.regionState k = s.regionState k) ∧
        ∃ e, look t.evt.slots s.evt.tail = some e ∧ e.code = 0x0605 ∧ e.cls = 3)))


/-- R403, R405, R406, R412, R418, R420, Tables 17-5 and 20-4: the input charges; the governor holds falls with burn, and rises
by burn, issue and POWER_LIMIT in that order; an emergency throttles its dies and is logged, and its release too; the first
failed tile is logged, a second shuts down; a shutdown leaves its record in module flash and the package off; an input beyond
the absolute maximum ratings stops the model. -/
def Obligations.power_events_act : Prop :=
  ∀ (s : State),
    let logged := fun (code cls : Nat) (pay : Nat) (t : State) =>
      ∃ r, look t.evt.slots s.evt.tail = some r ∧ r.code = code ∧ r.cls = cls ∧ r.payload = evPayload pay
    let off := fun (cause source : Nat) (t : State) =>
      t.rst.step = 0 ∧ t.pwr.on = false ∧ t.host.linkUp = false ∧ t.pins.thermAlert = false ∧ t.pins.pwrok = false ∧
      t.ctxs = [] ∧ t.parts = [] ∧ t.evt.slots = [] ∧ t.flash.shutdown = some (cause, source) ∧ t.flash.retired = s.flash.retired ∧
      (∃ r, t.flash.events.getLast? = some r ∧ r.code = 0x0604 ∧ r.cls = 5 ∧ r.time = s.time.now ∧
        r.payload = evPayload (evAt 0 cause + evAt 1 source)) ∧ t.pending = s.pending
    let hot := fun (e : Nat × Nat × Nat) (dies : List Nat) (t : State) =>
      t.pwr.emergencies = s.pwr.emergencies ++ [e] ∧
      (∀ d ∈ dies, s.dieHere d = true → (d < 16 → lookD t.pwr.issue d 32 = 8 ∧ t.pwr.throttled.getLsbD d = true) ∧
        (16 ≤ d → d < 24 → (t.die d).limitEmergency = true ∧ (t.die d).limitW = dieShare s.pwr.cap d)) ∧
      (∀ d, d ∉ dies → t.die d = s.die d ∧ lookD t.pwr.issue d 32 = lookD s.pwr.issue d 32) ∧
      logged 0x0603 3 (evAt 0 e.1 + evAt 1 e.2.2 + evAt 2 1 + evAt 3 e.2.1) t ∧ t.mem = s.mem ∧ t.ctxs = s.ctxs
    (∀ v, s.rst.step = 0 → 3000 ≤ v → v ≤ 6600 → Answers (.softStart v) s (fun t =>
      t = { s with pwr := { s.pwr with soft := true }, run := {} })) ∧
    (∀ v, 6600 < v → exec (.softStart v) s = .fault .outsideRatings ∧ exec (.powerUp v) s = .fault .outsideRatings) ∧
    (∀ v a k, v < -50 ∨ 7500 < v → exec (.governorSample v a k) s = .fault .outsideRatings) ∧
    (∀ (v a k : Int) (p : Power), s.alive = true → -50 ≤ v → v ≤ 7500 → s.pwr = p →
      (k < -25 → Answers (.governorSample v a k) s (fun t =>
        t = { s with pwr := { p with burn := p.burn + (-k - 25).toNat * v.toNat, heldSoft := false }, run := {} })) ∧
      (-25 ≤ k → k ≤ 25 → Answers (.governorSample v a k) s (fun t =>
        t = { s with pwr := { p with burn := p.burn - (k + 25).toNat * v.toNat, heldSoft := false }, run := {} })) ∧
      (25 < k → (k - 25).toNat * v.toNat ≤ p.burn → Answers (.governorSample v a k) s (fun t =>
        t = { s with pwr := { p with burn := p.burn - (k + 25).toNat * v.toNat, heldSoft := false }, run := {} })) ∧
      (25 < k → p.burn < (k - 25).toNat * v.toNat →
        Answers (.governorSample v a k) s (fun t =>
          t.pwr = { p with burn := p.burn - (k + 25).toNat * v.toNat, heldSoft := true, governing := true } ∧
          (p.heldSoft = false → t.dies = s.dies) ∧
          (p.heldSoft = true → ∀ d ∈ [16, 17, 18, 19], s.dieHere d = true →
            (t.die d).limitEmergency = true ∧ (t.die d).limitW = (s.die d).powerW) ∧
          t = { s with pwr := t.pwr, dies := t.dies, run := {} }))) ∧
    (s.alive = true → s.evt.unread < 1008 →
      (∀ src, (1, 3, 0xFF) ∉ s.pwr.emergencies → Answers (.droopDetect 3 src) s (fun t =>
        hot (1, 3, 0xFF) (List.range 24) t ∧ t.pwr.droopSeen = true)) ∧
      (∀ src, (1, 0, src) ∉ s.pwr.emergencies → Answers (.droopDetect 0 src) s (fun t =>
        hot (1, 0, src) (List.range 24) t ∧ t.pwr.droopSeen = true)) ∧
      (∀ d temp, (2, 0, d) ∉ s.pwr.emergencies → d < 25 → 105 ≤ temp → s.dieHere d = true →
        Answers (.thermalDetect false d temp) s (fun t =>
          hot (2, 0, d) [d] t ∧ t.pwr.thermalSeen = true ∧ t.pins.thermAlert = false)) ∧
      (∀ k temp, (2, 1, k) ∉ s.pwr.emergencies → k < 16 → 95 ≤ temp → s.stackState k ≠ 2 →
        Answers (.thermalDetect true k temp) s (fun t =>
          hot (2, 1, k) [k] t ∧ (t.stack k).hot = true ∧ (t.stack k).temp = temp ∧ t.pins.thermAlert = false)) ∧
      (∀ tile temp, (3, 2, tile) ∉ s.pwr.emergencies → 125 ≤ temp → Answers (.tileThermalDetect tile temp) s (fun t =>
        hot (3, 2, tile) (List.range 24) t ∧ t.pins.thermAlert = false)) ∧
      (∀ c k n, (c, k, n) ∈ s.pwr.emergencies → Answers (.emergencyRelease c k n) s (fun t =>
        t.pwr.emergencies = s.pwr.emergencies.filter (· ≠ (c, k, n)) ∧ t.pwr.issue = s.pwr.issue ∧
        (c = 2 → k = 1 → (t.stack n).hot = false) ∧ t.dies = s.dies ∧ t.mem = s.mem ∧
        logged 0x0603 3 (evAt 0 c + evAt 1 n + evAt 2 2 + evAt 3 k) t))) ∧
    (∀ tile, s.rst.step = 9 → s.evt.unread < 1008 → s.pwr.tilesFailed = [] → Answers (.tileFail tile) s (fun t =>
      t.pwr = { s.pwr with tilesFailed := [tile] } ∧ logged 0x0601 3 (evAt 0 tile) t ∧
      t = { s with pwr := t.pwr, evt := t.evt, host := t.host, run := {} })) ∧
    (∀ tile x rest, s.rst.step ≠ 0 → s.pwr.tilesFailed = x :: rest → tile ∉ x :: rest → Answers (.tileFail tile) s (off 4 tile)) ∧
    (∀ cause source, s.rst.step ≠ 0 → Answers (.emergencyShutdown cause source) s (off cause source)) ∧
    (∀ ms, (s.rst.step = 0 → Answers (.inputBelow10V ms) s (fun t =>
        t = { s with pwr := { s.pwr with below10 := ms, soft := false }, pins := { s.pins with thermAlert := true }, run := {} })) ∧
      (s.rst.step ≠ 0 → Answers (.inputBelow10V ms) s (fun t =>
        t.rst.step = 0 ∧ t.host.linkUp = false ∧ t.pins.thermAlert = true ∧ t.ctxs = [] ∧ t.parts = [] ∧
        t.flash.events = s.flash.events ∧ t.flash.retired = s.flash.retired ∧ t.pending = s.pending)))

/-- R16, R329, R342, R343, R429 to R438, R443, R444, R448, R466: a full reset keeps fuses and module flash alone; its steps follow
in their order, the image, the checks, the training, the zeroing, the self-test, and mailbox-ready with its BOOT record; a
staged image that does not come up gives way; a failed Nose or a lost table ends the busy mailboxes; messages and flash copies of
the event log follow it. -/
def Obligations.resets_and_failures_act : Prop :=
  ∀ (s : State),
    let cleared := fun (t : State) => t.ctxs = [] ∧ t.parts = [] ∧ t.aspaces = [] ∧ t.cores = [] ∧ t.mem = {} ∧ t.coh = {} ∧
      t.peer = {} ∧ t.faults = [] ∧ t.evt = {} ∧ t.host.memEn = false ∧ t.host.busEn = false ∧ t.host.msix = [] ∧
      (∀ d, (t.die d).identity = (s.die d).identity ∧ (t.die d).state = 0) ∧ t.flash.retired = s.flash.retired ∧
      t.flash.running = s.flash.running ∧ t.flash.staged = s.flash.staged ∧ t.flash.events = s.flash.events ∧ t.pending = s.pending
    let onlyReset := fun (t : State) => t = { s with rst := t.rst, flash := t.flash, host := t.host, pins := t.pins, dies := t.dies,
                                                     felt := { s.felt with modules := t.felt.modules }, mem := t.mem, run := {} }
    (∀ v, s.rst.step = 0 → s.pwr.soft = true → 4000 < v → v ≤ 6600 → (s.flash.shutdown = none ∨ 1000 ≤ s.pwr.below10) →
      Answers (.powerUp v) s (fun t => t.rst.step = 1 ∧ t.rst.cause = (if s.flash.shutdown = none then 0 else 3) ∧
        t.pwr.prevShutdown = s.flash.shutdown.isSome ∧ t.flash.shutdown = none ∧ cleared t)) ∧
    (∀ us, 100 ≤ us → 2 ≤ s.rst.step → Answers (.perstAssert us) s (fun t =>
      t.rst.step = 11 ∧ t.rst.cause = 1 ∧ t.pins.perst = false ∧ cleared t)) ∧
    (∀ us, us < 100 → Answers (.perstAssert us) s (fun t => t = { s with run := {} })) ∧
    (s.rst.step = 11 → Answers .perstRelease s (fun t =>
      t.rst.step = 2 ∧ t.pins.perst = true ∧ t = { s with rst := { s.rst with step := 2 }, pins := { s.pins with perst := true }, run := {} })) ∧
    (∀ m seq n, Decodes s → m < 64 → Answers (.resetDevice m seq n) s (fun t => t.rst.step = 2 ∧ t.rst.cause = 2 ∧ cleared t)) ∧
    (s.rst.step = 1 → Answers (.resetStepDone .ok) s (fun t => t.rst.step = 2 ∧ t.pins.pwrok = true ∧ onlyReset t)) ∧
    (s.rst.step = 2 →
      (s.flash.staged = none → Answers (.resetStepDone (.image true true)) s (fun t =>
        t.rst.step = 3 ∧ t.flash = s.flash ∧ t.host.rrs = false ∧ onlyReset t)) ∧
      (∀ v, s.flash.staged = some v → Answers (.resetStepDone (.image true true)) s (fun t =>
        t.rst.step = 3 ∧ t.rst.bootingStaged = true ∧ t.flash.running = v ∧ t.flash.staged = none ∧
        t.flash.fallback = some s.flash.running ∧ onlyReset t)) ∧
      (∀ v good secure, s.flash.staged = some v → good = false ∨ secure = false →
        Answers (.resetStepDone (.image good secure)) s (fun t => t.rst.step = 3 ∧ t.flash.running = s.flash.running ∧
          t.flash.staged = none ∧ t.rst.fellBack = some (v, if good then 2 else 1) ∧ onlyReset t)) ∧
      Answers (.resetStepDone .failed) s (fun t => t.rst.step = 10 ∧ t.idState = 2 ∧ onlyReset t)) ∧
    (s.rst.step = 3 → Answers (.resetStepDone .ok) s (fun t => t.rst.step = 4 ∧ t.pins.cxlPerst = true ∧ onlyReset t ∧
      ∀ d < 24, (dieCheck s d ≠ 0 → (t.die d).state = 1 ∧ (t.die d).check = dieCheck s d ∧
        ∀ k ∈ dieModules d, (t.module k).state = 3) ∧ (dieCheck s d = 0 → t.die d = s.die d))) ∧
    (∀ r cold, (s.rst.step = 4 → Answers (.resetStepDone (.trained r cold)) s (fun t =>
        t.rst.step = 5 ∧ t.rst.reserveLog2 = (if 36 ≤ r ∧ r ≤ 40 then r else 0) ∧ t.pins = s.pins ∧ onlyReset t)) ∧
      (s.rst.step = 5 → Answers (.resetStepDone (.trained r cold)) s (fun t =>
        t.rst.step = 6 ∧ t.rst.cold = (decide (cold ≠ 0) || !s.flash.trainingCache) ∧ onlyReset t ∧
        ∀ k < 16, lookD t.flash.rows k 0 = Nat.min 65535 (lookD s.flash.rows k 0 + lookD s.rst.softRows k 0)))) ∧
    (s.rst.step = 6 → Answers (.resetStepDone .ok) s (fun t => t.rst.step = 7 ∧ t.mem = {} ∧ onlyReset t)) ∧
    (∀ bad ways, s.rst.step = 7 → Answers (.resetStepDone (.selfTest bad ways)) s (fun t =>
      t.rst.step = 8 ∧ t.rst.badRegions = bad ∧ t.rst.badWays = ways ∧ onlyReset t)) ∧
    (s.rst.step = 7 → Answers (.resetStepDone .failed) s (fun t => t.rst.step = 10 ∧ t.idState = 2 ∧ onlyReset t)) ∧
    (s.rst.step = 8 → s.flash.events = [] → s.evt = {} → s.rst.fellBack = none → s.host.hostLost = false →
      Answers (.resetStepDone .ok) s (fun t =>
      t.rst.step = 9 ∧ t.time = {} ∧ t.reserveLog2 = s.rst.reserveLog2 ∧ t.pwr.failed = s.rst.badRegions ∧ t.idState = 1 ∧
      (∃ r, look t.evt.slots 0 = some r ∧ r.code = 0x0101 ∧ r.cls = 0 ∧ r.seq = 1 ∧ r.time = 0) ∧ t.mem = s.mem ∧ t.dies = s.dies ∧
      t.ctxs = s.ctxs)) ∧
    (∀ v, 2 ≤ s.rst.step → s.rst.step ≤ 8 → s.rst.bootingStaged = true → s.flash.fallback = some v →
      Answers .fwFallbackTimeout s (fun t => t.rst.step = 2 ∧ t.flash.running = v ∧ t.flash.staged = none ∧
        t.rst.fellBack = some (s.flash.running, 3) ∧ onlyReset t)) ∧
    (1 ≤ s.rst.step → s.rst.step ≤ 8 → Answers .bootFailTimeout s (fun t => t.rst.step = 10 ∧ t.idState = 2 ∧ onlyReset t)) ∧
    (s.evt.unread < 1008 →
      (s.rst.step = 9 → Answers .noseWatchdogExpiry s (fun t =>
        t.rst.step = 12 ∧ t.idState = 2 ∧
        (∀ m, (s.mailbox m).state = 1 → (t.mailbox m).state = 2 ∧ (t.mailbox m).status = ST.deviceFailed) ∧
        (∀ m, (∀ e ∈ s.host.mbx, e.1 = m → e.2.state ≠ 1) → t.mailbox m = s.mailbox m) ∧
        (∃ r, look t.evt.slots s.evt.tail = some r ∧ r.code = 0x0105 ∧ r.cls = 5) ∧ t.mem = s.mem ∧ t.ctxs = s.ctxs)) ∧
      (∀ table bank, s.alive = true → Answers (.crownUe table bank) s (fun t =>
        t.rst.step = 13 ∧ t.idState = 2 ∧ t.alive = false ∧
        (∀ m, (s.mailbox m).state = 1 → (t.mailbox m).state = 2 ∧ (t.mailbox m).status = ST.deviceFailed) ∧
        (∃ r, look t.evt.slots s.evt.tail = some r ∧ r.code = 0x0106 ∧ r.cls = 5) ∧ t.mem = s.mem ∧ t.ctxs = s.ctxs))) ∧
    (s.evt.spacing = true →
      (s.evt.coalesced = false → Answers .irqCoalesceTimer s (fun t =>
        t = { s with evt := { s.evt with spacing := false }, run := {} })) ∧
      (s.evt.coalesced = true → s.evt.irqEn = true → s.host.hostLost = false → s.host.canIssue = true → s.host.msixEn = true →
        s.host.msixMask = false → (lookD s.host.msix s.evt.vector {}).masked = false →
        Answers .irqCoalesceTimer s (fun t => t.host.sent = s.evt.vector :: s.host.sent ∧ t.evt.spacing = true ∧
          t.evt.coalesced = false ∧ t = { s with evt := t.evt, host := t.host, run := {} }))) ∧
    (∀ r rest, s.evt.toFlash = r :: rest → Answers .eventFlashCopy s (fun t =>
      t.evt = { s.evt with toFlash := rest } ∧ t.flash.events.getLast? = some r ∧
      (s.flash.events.length < 64 → t.flash.events = s.flash.events ++ [r]) ∧
      t = { s with evt := t.evt, flash := { s.flash with events := t.flash.events }, run := {} }))

/-- R348, R349, R370, R62, R66, R375: an entry that is whole and valid is taken, gets the next seq and age, and moves the head and
the head word; one that fails is read again, and the context stops when the eighth further reading fails. A request is decided in
its turn: an accepted one is placed, its record kept and its work planned in the earliest beats that fit, within its deadline; a
refused one leaves. -/
def Obligations.entries_are_taken_and_decided : Prop :=
  ∀ (s : State) (c : Nat) (x : Ctx), s.ctx c = some x → s.noseUp = true →
    let after := if x.sqHead + 1 = 2 ^ x.sqLog2 then 0 else x.sqHead + 1
    let taken := fun (i : Item) => { x with
      sqHead := after, sqPhase := (if after = 0 then !x.sqPhase else x.sqPhase), torn := 0
      nextSeq := (if x.nextSeq + 1 = 2 ^ 32 then 1 else x.nextSeq + 1), items := x.items ++ [i] }
    let alone := ∀ y j, frontItem s c = some (y, j) → batchable s y j = false
    (∀ h ep md b v i, x.stopped = false → (x.sqHost = true → s.host.hostLost = false) → x.unfinished < 2 ^ 24 → alone → x.sqHead ≠ x.tail →
      x.tail = after → readSlot c x ep (begins h md s) = (some b, false, v) → entryGood x b = true →
      i = newItem x.nextSeq s.plan.nextAge (b.take 112) → headerOk (b.take 112) = true → fieldsOk (b.take 112) = true →
      jobOk s x.part i = true → i.cls = 0 ∨ i.kind ≠ 1 ∧ i.kind ≠ 4 →
      (x.torn = 0 → Goes (ringRead c ep (begins h md s)) → Answers (.ringRead c h ep md) s (fun t =>
        t.ctx c = some (taken i) ∧ (∀ k, k ≠ c → t.ctx k = s.ctx k) ∧ t.plan = { s.plan with nextAge := s.plan.nextAge + 1 } ∧
        (x.headHost = true → s.host.canIssue = true → s.host.hostLost = false →
          cellsGet t.hostMem x.headAddr 8 = leBytes 8 after))) ∧
      (x.torn ≠ 0 → Goes (tornReread c ep (begins h md s)) → Answers (.tornEntryReread c h ep md) s (fun t =>
        t.ctx c = some (taken i) ∧ (∀ k, k ≠ c → t.ctx k = s.ctx k) ∧
        t.plan = { s.plan with nextAge := s.plan.nextAge + 1 }))) ∧
    (∀ h ep md b p v, x.stopped = false → (x.sqHost = true → s.host.hostLost = false) →
      readSlot c x ep (begins h md s) = (b, p, v) → (∀ d, b = some d → p = true ∨ entryGood x d = false) →
      (x.torn = 0 → x.unfinished < 2 ^ 24 → alone → x.sqHead ≠ x.tail → Goes (ringRead c ep (begins h md s)) →
        Answers (.ringRead c h ep md) s (fun t => t.ctx c = some { x with torn := 1 } ∧ t.plan = s.plan)) ∧
      (x.torn ≠ 0 → x.torn < 8 → Goes v →
        Answers (.tornEntryReread c h ep md) s (fun t => t.ctx c = some { x with torn := x.torn + 1 } ∧ t.plan = s.plan)) ∧
      (8 ≤ x.torn → Goes (tornReread c ep (begins h md s)) →
        Answers (.tornEntryReread c h ep md) s (fun t => ∃ y, t.ctx c = some y ∧ y.stopped = true ∧ y.stopStatus = ST.tornEntry))) ∧
    (∀ md i q z foot u v, s.gridWaits = false → s.item c i.seq = some i → nextRequest s = some (c, i.seq) → s.part x.part = some q →
      slicesOf (noseOf c x) c x i (begins [] md s) = (z, u) → z.bad = none → footprint (noseOf c x) i z u = (foot, v) →
      staticFail v c x q i z foot = none →
      (∀ l beat, decidePlan v c x q i z = .accept l beat → Goes (acceptItem c i z foot l beat v) →
        Answers (.admissionDecision c i.seq md) s (fun t =>
          t.plan = { s.plan with placed := s.plan.placed ++ l, nextOrder := s.plan.nextOrder + 1 } ∧
          (∃ j, t.item c i.seq = some j ∧ j.phase = 1 ∧ j.costs = z.costs ∧ j.args = z.args ∧
            j.adm = some { verdict := 1, reason := 0, index := 0, slice := z.costs.length, beat, earliest := beat }) ∧
          (i.f 8 8 = 0 ∨ beat ≤ i.f 8 8) ∧
          (z.costs.length = 1 → ∃ p, l = [p] ∧ p.beat = beat ∧ firstBeat v c i ≤ beat ∧ beat ≤ v.beat + 65536 ∧
            beatFails v q v.plan.placed p beat = none ∧
            ∀ b < beat, firstBeat v c i ≤ b → wakeBound v p.cost ≤ b → beatFails v q v.plan.placed p b ≠ none))) ∧
      (∀ a, decidePlan v c x q i z = .refuse a → q.observe = false → Goes (refuseItem c x q i z a v) →
        Answers (.admissionDecision c i.seq md) s (fun t => t.item c i.seq = none ∧ t.plan = s.plan)))

/-- R196, R100, R127, R210, R352, R375: an item begins, and with it its pieces; a slice launches its groups in the lowest free
slots of its cores; a merged slice starts every member; a copy moves its next block; pieces of a host copy are dealt and move; a
signal stores at the home; a wait ends when its flag meets the condition, and its entry stands in the completion ring. -/
def Obligations.items_run : Prop :=
  ∀ (s : State) (c : Nat) (x : Ctx) (i : Item), frontItem s c = some (x, i) → s.item c i.seq = some i → s.alive = true →
    (∀ md, s.noseUp = true → s.stalledOn (.nose c) = false → i.phase = 1 → i.contracted = false → itemReady s i = true →
      batchable s x i = false →
      (i.kind ≠ 5 ∧ i.kind ≠ 6 ∧ i.kind ≠ 8 → Answers (.itemStart c md) s (fun t =>
        t.item c i.seq = some { i with
          phase := 2, running := i.kind ≠ 1 && i.kind ≠ 4, pieces := (if i.kind = 3 then i.hostPieces else 0)
          die := (if i.kind = 2 then some (copyDie c x i (begins [] md s)) else none) } ∧
        t = { s with ctxs := t.ctxs, run := {} })) ∧
      (∀ u v a, i.kind = 8 → i.f 40 1 = 0 → u = markBegun c x i (begins [] md s) →
        noseFlag c x (i.f 24 8) { wr := true, flag := true } u = (some a, .ok v) →
        x.items = [i] → x.cqHost = true → Goes (lineWrite (lineOf a) (atOffsets (a % 256) (leBytes 8 (i.f 32 8))) false false v) →
        Answers (.itemStart c md) s (fun t =>
          let w := lineWrite (lineOf a) (atOffsets (a % 256) (leBytes 8 (i.f 32 8))) false false v
          t.mem = w.mem ∧ t.l2 = w.l2 ∧ t.coh = w.coh ∧ t.stks = w.stks ∧ ∃ y, t.ctx c = some y ∧ y.items = []))) ∧
    (∀ md k, i.launchable = true → s.stalledOn (.nose c) = false → i.contracted = false → launchBehind s c i = false →
      i.costs[i.slice]? = some k →
      (i.kind = 1 → i.thin = false → sliceReady s k = .yes → k.coreList ≠ [] → k.slots ≠ 0 →
        Answers (.sliceLaunch c md) s (fun t =>
          t.item c i.seq = some { i with running := true } ∧
          (∀ n core, k.coreList[n]? = some core → ∀ j < k.slots, ∃ slot, (freeSlots s core)[j]? = some slot ∧
            t.group core slot = some { startGroup c i.seq i.slice i.cls (i.f 24 8) (i.f 42 1)
              ((i.args[i.slice]?).getD 0) (n * k.slots + j) with launched := s.time.now }) ∧
          (∀ core slot, (core ∉ k.coreList ∨ slot ∉ (freeSlots s core).take k.slots) → t.group core slot = s.group core slot) ∧
          t = { s with ctxs := t.ctxs, cores := t.cores, pwr := { s.pwr with used := t.pwr.used }, run := {} })) ∧
      (batchable s x i = false → sliceReady s k = .asleep → Answers (.sliceLaunch c md) s (fun t =>
        (∀ r < 64, k.regions.getLsbD r = true → s.regionState r ≠ 0 → r ∈ t.pwr.waking) ∧ t.ctxs = s.ctxs ∧
        t.cores = s.cores))) ∧
    (∀ md k y j z v ms, s.noseUp = true → s.stalledOn (.nose c) = false → batchOf s c = (k, j) :: ms → s.ctx k = some y →
      (s.part y.part).any (fun q => decide (q.window ≤ j.beats)) = true → j.costs[j.slice]? = some z → sliceReady s z = .yes →
      vaWrite (noseOf k y) ((j.args[j.slice]?).getD 0)
        (batchHeader 2 (((k, j) :: ms).map fun m => (m.1, m.2.f 43 1, (m.2.args[j.slice]?).getD 0))) (begins [] md s) = .ok v →
      Goes v →
      z.coreList ≠ [] → z.slots ≠ 0 →
      Answers (.batchWindowExpiry c md) s (fun t => (∀ m ∈ (k, j) :: ms, ∃ n, t.item m.1 m.2.seq = some n ∧ n.phase = 2 ∧
        n.running = true ∧ n.member = decide (m.1 ≠ k)) ∧ t.mem = v.mem)) ∧
    (∀ md e g r0 c0 n src dst r w s1 s2 s3 s4 d,
      e = { die := i.die.getD (copyDie c x i (begins [] md s)), code := 3, ctx := c, asid := x.asid, part := x.part,
            stall := .brimCopy c } → g = { e with crown := true } →
      i.kind = 2 → i.phase = 2 → s.stalledOn (.brimCopy c) = false → i.f 64 1 = 0xCC → i.f 65 1 = 0 →
      i.block i.next = (r0, 1, c0, n) → i.next + 1 < i.blocks →
      src = (i.f 24 8 + r0 * i.f 40 8 + c0) % 2 ^ 64 → dst = (i.f 32 8 + r0 * i.f 48 8 + c0) % 2 ^ 64 →
      reachRange g { rd := true } src n {} (begins [] md s) = (r, s1) → reachRange e { wr := true } dst n {} s1 = (w, s2) →
      r.bad = none → w.bad = none → r.faults = [] → w.faults = [] → readTainted r.at_ (readsFor g s2) = (d, s3) → d.length = n →
      s4 = writeTainted (hintOf (i.f 66 1)) [(d, w)] (readsFor e s3) → Goes s4 →
      Answers (.copyBlock c md) s (fun t =>
        t.item c i.seq = some { i with next := i.next + 1, moved := i.moved + n } ∧
        t.mem = s4.mem ∧ t.l2 = s4.l2 ∧ t.cores = s.cores)) ∧
    (∀ e p m, e < 16 → s.host.hostLost = false → look s.hce e = none → nextHostCopy s = some p → p.mig = some m →
      Answers (.hostCopyPieceStart e) s (fun t => look t.hce e = some p ∧ t.ctxs = s.ctxs ∧
        t = { setMigration m (fun g => { g with next := g.next + 1 }) s with hce := t.hce, run := {} })) ∧
    (∀ e, e < 16 → s.host.hostLost = false → look s.hce e = none →
      nextHostCopy s = some { ctx := c, seq := i.seq, off := i.next * 65536 } →
      Answers (.hostCopyPieceStart e) s (fun t =>
        look t.hce e = some { ctx := c, seq := i.seq, off := i.next * 65536 } ∧ (∀ k, k ≠ e → look t.hce k = look s.hce k) ∧
        t.item c i.seq = some { i with next := i.next + 1 } ∧ t = { s with hce := t.hce, ctxs := t.ctxs, run := {} })) ∧
    (∀ e p h md n r u v w bad, look s.hce e = some p → p.mig = none → p.ctx = c → p.seq = i.seq → s.host.canIssue = true →
      s.stalledOn (.hostCopy c) = false → n = Nat.min 65536 (i.f 48 8 - p.off) → 1 < i.pieces → i.f 24 1 = 0 →
      reachRange { die := 24, code := 4, ctx := c, asid := x.asid, part := x.part, stall := .hostCopy c } { wr := true }
        (i.f 40 8 + p.off) n {} (begins h md s) = (r, u) → r.bad = none → r.faults = [] →
      ecrcOf (0x1000 + e) r.at_ (atEngine 24 (0x1000 + e) [] { u with hce := del u.hce e }) = (bad, v) →
      w = writeTainted (hintOf (i.f 25 1))
        [((cellsGet u.hostMem (i.f 32 8 + p.off) n).zip (bad.flatMap fun f => List.replicate f.2 f.1), r)] v → Goes w →
      Answers (.hostCopyPieceDone e h md) s (fun t =>
        t.mem = w.mem ∧ t.l2 = w.l2 ∧ look t.hce e = none ∧
        t.item c i.seq = some { i with pieces := i.pieces - 1, moved := i.moved + n })) ∧
    (∀ md v g w a, s.noseUp = true → s.stalledOn (.nose c) = false → i.kind = 7 → i.phase = 2 →
      noseFlag c x (i.f 24 8) { rd := true, flag := true } (begins [] md s) = (some a, .ok v) →
      lineRead (lineOf a) false v = (g, w) → g.poison = false → Goes w →
      (∀ m, m = (if i.f 40 1 = 0 then decide (leAt g.data (a % 256) 8 = i.f 32 8)
          else decide (i.f 32 8 ≤ leAt g.data (a % 256) 8)) →
        (m = false → Answers (.waitItemMatch c md) s (fun t => t.ctxs = s.ctxs)) ∧
        (m = true → x.items = [i] → x.held = [] → x.cqFull = false → x.cqHost = true → s.host.canIssue = true →
          s.host.hostLost = false → Answers (.waitItemMatch c md) s (fun t => ∃ y, t.ctx c = some y ∧ y.items = [] ∧
            y.cqTail = (if x.cqTail + 1 = 2 ^ x.cqLog2 then 0 else x.cqTail + 1) ∧
            cellsGet t.hostMem (x.cqBase + x.cqTail * 128) 128 =
              ringEntry (entryBody { i with status := ST.ok }.finalStatus 1 (i.clsByte.getD i.cls) i.seq s.beat
                (leBytes 8 i.moved ++ leBytes 8 i.poisoned) i.detail) x.cqPhase))))

/-- No command is refused, and each leaves the queue's rest and no condition of its own; only POWER_UP, SOFT_START and
GOVERNOR_SAMPLE stop, exactly where the input lies beyond Table 20-4, for which R464 defines nothing. Time alone leaves the
queue empty (log 9). -/
def Obligations.every_command_goes_on : Prop :=
  (∀ (c : Instr) (s : State), (∃ t, exec c s = .next t ∧ t.pending = s.pending ∧ t.run = {}) ∨
    (exec c s = .fault .outsideRatings ∧ ((∃ v, (c = .softStart v ∨ c = .powerUp v) ∧ 6600 < v) ∨
      ∃ v a w, c = .governorSample v a w ∧ (v < -50 ∨ 7500 < v)))) ∧
  (∀ s : State, s.pending = [] → ∃ t, step s = .next t ∧ t.pending = [] ∧ t.run = {})

/-- Device memory and host memory keep their canonical form in every step, from every state in which they have it: addresses
strictly rising, and no entry equal to what an unlisted address reads as (the model's form, logs 7 and 8). -/
def Obligations.memory_stays_canonical : Prop :=
  ∀ (s t : State), Memory.wf s.mem = true → tabWf s.hostMem 0 = true → step s = .next t →
    Memory.wf t.mem = true ∧ tabWf t.hostMem 0 = true

/-- R438 with Table 18-3, R33, R431, R444: what reset leaves at mailbox-ready, with canonical memories. The BOOT record's
payload is the model's choice (log 1). -/
def Obligations.reset_leaves_starting_state : Prop :=
  let s := State.reset
  Memory.wf s.mem = true ∧ tabWf s.hostMem 0 = true ∧ s.pending = [] ∧ s.run = {} ∧ s.rst.step = 9 ∧ s.idState = 1 ∧
    s.ctxs = [] ∧ s.parts = [] ∧ s.aspaces = [] ∧ s.cores = [] ∧ s.faults = [] ∧ s.mem = {} ∧
    s.coh.filter = [] ∧ s.coh.lines = [] ∧ s.coh.txns = [] ∧ s.peer.jobs = [] ∧
    s.time.now = 0 ∧ s.time.epoch = 0 ∧ s.time.period = 200 ∧ s.time.planGuard = 8 ∧ s.time.guard = 6 ∧ s.beat = 0 ∧
    s.pwr.cap = 4000 ∧ s.pwr.smoothing = false ∧ s.pwr.floor256 = 0 ∧ s.host.memEn = false ∧ s.host.busEn = false ∧
    (∀ r, s.regionState r = 3) ∧ (∀ r, s.regionFailed r = false) ∧ (∀ c g, s.group c g = none) ∧ (∀ a, memByte s a = 0) ∧
    (∀ l, s.poisoned l = false) ∧ (∀ d, (s.l2Of d).enabled = false) ∧ (∀ m, (s.mailbox m).state = 0) ∧
    s.evt.head = 0 ∧ s.evt.tail = 1 ∧ s.evt.nextSeq = 2 ∧ s.evt.lost = 0 ∧ s.evt.irqClass = 2 ∧ s.evt.irqEn = false ∧
    s.evt.unread = 1 ∧ (look s.evt.slots 0).any (fun r => r.code = 0x0101 && r.cls = 0 && r.seq = 1 && r.time = 0) = true
end

