-- ==== Sys2Proof/Laws/State.lean ====
section
/-! SUPPORT. What each named update of the state leaves alone: one lemma for each field, and for each update what its own
field becomes. -/

namespace Sys2Proof.Machine

open Sys2Proof

variable (s : State)

@[simp] theorem setDie_pending (d : Nat) (f : Die → Die) : (s.setDie d f).pending = s.pending := rfl
@[simp] theorem setDie_rst (d : Nat) (f : Die → Die) : (s.setDie d f).rst = s.rst := rfl
@[simp] theorem setDie_flash (d : Nat) (f : Die → Die) : (s.setDie d f).flash = s.flash := rfl
@[simp] theorem setDie_pins (d : Nat) (f : Die → Die) : (s.setDie d f).pins = s.pins := rfl
@[simp] theorem setDie_evt (d : Nat) (f : Die → Die) : (s.setDie d f).evt = s.evt := rfl
@[simp] theorem setDie_host (d : Nat) (f : Die → Die) : (s.setDie d f).host = s.host := rfl
@[simp] theorem setDie_hostMem (d : Nat) (f : Die → Die) : (s.setDie d f).hostMem = s.hostMem := rfl
@[simp] theorem setDie_time (d : Nat) (f : Die → Die) : (s.setDie d f).time = s.time := rfl
@[simp] theorem setDie_parts (d : Nat) (f : Die → Die) : (s.setDie d f).parts = s.parts := rfl
@[simp] theorem setDie_fq (d : Nat) (f : Die → Die) : (s.setDie d f).fq = s.fq := rfl
@[simp] theorem setDie_aspaces (d : Nat) (f : Die → Die) : (s.setDie d f).aspaces = s.aspaces := rfl
@[simp] theorem setDie_tc (d : Nat) (f : Die → Die) : (s.setDie d f).tc = s.tc := rfl
@[simp] theorem setDie_ptrs (d : Nat) (f : Die → Die) : (s.setDie d f).ptrs = s.ptrs := rfl
@[simp] theorem setDie_faults (d : Nat) (f : Die → Die) : (s.setDie d f).faults = s.faults := rfl
@[simp] theorem setDie_shoots (d : Nat) (f : Die → Die) : (s.setDie d f).shoots = s.shoots := rfl
@[simp] theorem setDie_ctxs (d : Nat) (f : Die → Die) : (s.setDie d f).ctxs = s.ctxs := rfl
@[simp] theorem setDie_plan (d : Nat) (f : Die → Die) : (s.setDie d f).plan = s.plan := rfl
@[simp] theorem setDie_cores (d : Nat) (f : Die → Die) : (s.setDie d f).cores = s.cores := rfl
@[simp] theorem setDie_barCl (d : Nat) (f : Die → Die) : (s.setDie d f).barCl = s.barCl := rfl
@[simp] theorem setDie_barDie (d : Nat) (f : Die → Die) : (s.setDie d f).barDie = s.barDie := rfl
@[simp] theorem setDie_atq (d : Nat) (f : Die → Die) : (s.setDie d f).atq = s.atq := rfl
@[simp] theorem setDie_ticket (d : Nat) (f : Die → Die) : (s.setDie d f).ticket = s.ticket := rfl
@[simp] theorem setDie_dbg (d : Nat) (f : Die → Die) : (s.setDie d f).dbg = s.dbg := rfl
@[simp] theorem setDie_dbgSel (d : Nat) (f : Die → Die) : (s.setDie d f).dbgSel = s.dbgSel := rfl
@[simp] theorem setDie_mem (d : Nat) (f : Die → Die) : (s.setDie d f).mem = s.mem := rfl
@[simp] theorem setDie_l2 (d : Nat) (f : Die → Die) : (s.setDie d f).l2 = s.l2 := rfl
@[simp] theorem setDie_stks (d : Nat) (f : Die → Die) : (s.setDie d f).stks = s.stks := rfl
@[simp] theorem setDie_coh (d : Nat) (f : Die → Die) : (s.setDie d f).coh = s.coh := rfl
@[simp] theorem setDie_felt (d : Nat) (f : Die → Die) : (s.setDie d f).felt = s.felt := rfl
@[simp] theorem setDie_reserveLog2 (d : Nat) (f : Die → Die) : (s.setDie d f).reserveLog2 = s.reserveLog2 := rfl
@[simp] theorem setDie_peer (d : Nat) (f : Die → Die) : (s.setDie d f).peer = s.peer := rfl
@[simp] theorem setDie_pwr (d : Nat) (f : Die → Die) : (s.setDie d f).pwr = s.pwr := rfl
@[simp] theorem setDie_i3c (d : Nat) (f : Die → Die) : (s.setDie d f).i3c = s.i3c := rfl
@[simp] theorem setDie_hce (d : Nat) (f : Die → Die) : (s.setDie d f).hce = s.hce := rfl
@[simp] theorem setDie_proc (d : Nat) (f : Die → Die) : (s.setDie d f).proc = s.proc := rfl
@[simp] theorem setDie_procReq (d : Nat) (f : Die → Die) : (s.setDie d f).procReq = s.procReq := rfl
@[simp] theorem setDie_sat (d : Nat) (f : Die → Die) : (s.setDie d f).sat = s.sat := rfl
@[simp] theorem setDie_mism (d : Nat) (f : Die → Die) : (s.setDie d f).mism = s.mism := rfl
@[simp] theorem setDie_free (d : Nat) (f : Die → Die) : (s.setDie d f).free = s.free := rfl
@[simp] theorem setDie_run (d : Nat) (f : Die → Die) : (s.setDie d f).run = s.run := rfl

@[simp] theorem setStack_pending (k : Nat) (f : Stack → Stack) : (s.setStack k f).pending = s.pending := rfl
@[simp] theorem setStack_rst (k : Nat) (f : Stack → Stack) : (s.setStack k f).rst = s.rst := rfl
@[simp] theorem setStack_flash (k : Nat) (f : Stack → Stack) : (s.setStack k f).flash = s.flash := rfl
@[simp] theorem setStack_pins (k : Nat) (f : Stack → Stack) : (s.setStack k f).pins = s.pins := rfl
@[simp] theorem setStack_dies (k : Nat) (f : Stack → Stack) : (s.setStack k f).dies = s.dies := rfl
@[simp] theorem setStack_evt (k : Nat) (f : Stack → Stack) : (s.setStack k f).evt = s.evt := rfl
@[simp] theorem setStack_host (k : Nat) (f : Stack → Stack) : (s.setStack k f).host = s.host := rfl
@[simp] theorem setStack_hostMem (k : Nat) (f : Stack → Stack) : (s.setStack k f).hostMem = s.hostMem := rfl
@[simp] theorem setStack_time (k : Nat) (f : Stack → Stack) : (s.setStack k f).time = s.time := rfl
@[simp] theorem setStack_parts (k : Nat) (f : Stack → Stack) : (s.setStack k f).parts = s.parts := rfl
@[simp] theorem setStack_fq (k : Nat) (f : Stack → Stack) : (s.setStack k f).fq = s.fq := rfl
@[simp] theorem setStack_aspaces (k : Nat) (f : Stack → Stack) : (s.setStack k f).aspaces = s.aspaces := rfl
@[simp] theorem setStack_tc (k : Nat) (f : Stack → Stack) : (s.setStack k f).tc = s.tc := rfl
@[simp] theorem setStack_ptrs (k : Nat) (f : Stack → Stack) : (s.setStack k f).ptrs = s.ptrs := rfl
@[simp] theorem setStack_faults (k : Nat) (f : Stack → Stack) : (s.setStack k f).faults = s.faults := rfl
@[simp] theorem setStack_shoots (k : Nat) (f : Stack → Stack) : (s.setStack k f).shoots = s.shoots := rfl
@[simp] theorem setStack_ctxs (k : Nat) (f : Stack → Stack) : (s.setStack k f).ctxs = s.ctxs := rfl
@[simp] theorem setStack_plan (k : Nat) (f : Stack → Stack) : (s.setStack k f).plan = s.plan := rfl
@[simp] theorem setStack_cores (k : Nat) (f : Stack → Stack) : (s.setStack k f).cores = s.cores := rfl
@[simp] theorem setStack_barCl (k : Nat) (f : Stack → Stack) : (s.setStack k f).barCl = s.barCl := rfl
@[simp] theorem setStack_barDie (k : Nat) (f : Stack → Stack) : (s.setStack k f).barDie = s.barDie := rfl
@[simp] theorem setStack_atq (k : Nat) (f : Stack → Stack) : (s.setStack k f).atq = s.atq := rfl
@[simp] theorem setStack_ticket (k : Nat) (f : Stack → Stack) : (s.setStack k f).ticket = s.ticket := rfl
@[simp] theorem setStack_dbg (k : Nat) (f : Stack → Stack) : (s.setStack k f).dbg = s.dbg := rfl
@[simp] theorem setStack_dbgSel (k : Nat) (f : Stack → Stack) : (s.setStack k f).dbgSel = s.dbgSel := rfl
@[simp] theorem setStack_mem (k : Nat) (f : Stack → Stack) : (s.setStack k f).mem = s.mem := rfl
@[simp] theorem setStack_l2 (k : Nat) (f : Stack → Stack) : (s.setStack k f).l2 = s.l2 := rfl
@[simp] theorem setStack_coh (k : Nat) (f : Stack → Stack) : (s.setStack k f).coh = s.coh := rfl
@[simp] theorem setStack_felt (k : Nat) (f : Stack → Stack) : (s.setStack k f).felt = s.felt := rfl
@[simp] theorem setStack_reserveLog2 (k : Nat) (f : Stack → Stack) : (s.setStack k f).reserveLog2 = s.reserveLog2 := rfl
@[simp] theorem setStack_peer (k : Nat) (f : Stack → Stack) : (s.setStack k f).peer = s.peer := rfl
@[simp] theorem setStack_pwr (k : Nat) (f : Stack → Stack) : (s.setStack k f).pwr = s.pwr := rfl
@[simp] theorem setStack_i3c (k : Nat) (f : Stack → Stack) : (s.setStack k f).i3c = s.i3c := rfl
@[simp] theorem setStack_hce (k : Nat) (f : Stack → Stack) : (s.setStack k f).hce = s.hce := rfl
@[simp] theorem setStack_proc (k : Nat) (f : Stack → Stack) : (s.setStack k f).proc = s.proc := rfl
@[simp] theorem setStack_procReq (k : Nat) (f : Stack → Stack) : (s.setStack k f).procReq = s.procReq := rfl
@[simp] theorem setStack_sat (k : Nat) (f : Stack → Stack) : (s.setStack k f).sat = s.sat := rfl
@[simp] theorem setStack_mism (k : Nat) (f : Stack → Stack) : (s.setStack k f).mism = s.mism := rfl
@[simp] theorem setStack_free (k : Nat) (f : Stack → Stack) : (s.setStack k f).free = s.free := rfl
@[simp] theorem setStack_run (k : Nat) (f : Stack → Stack) : (s.setStack k f).run = s.run := rfl

@[simp] theorem setCore_pending (c : Nat) (f : Core → Core) : (s.setCore c f).pending = s.pending := rfl
@[simp] theorem setCore_rst (c : Nat) (f : Core → Core) : (s.setCore c f).rst = s.rst := rfl
@[simp] theorem setCore_flash (c : Nat) (f : Core → Core) : (s.setCore c f).flash = s.flash := rfl
@[simp] theorem setCore_pins (c : Nat) (f : Core → Core) : (s.setCore c f).pins = s.pins := rfl
@[simp] theorem setCore_dies (c : Nat) (f : Core → Core) : (s.setCore c f).dies = s.dies := rfl
@[simp] theorem setCore_evt (c : Nat) (f : Core → Core) : (s.setCore c f).evt = s.evt := rfl
@[simp] theorem setCore_host (c : Nat) (f : Core → Core) : (s.setCore c f).host = s.host := rfl
@[simp] theorem setCore_hostMem (c : Nat) (f : Core → Core) : (s.setCore c f).hostMem = s.hostMem := rfl
@[simp] theorem setCore_time (c : Nat) (f : Core → Core) : (s.setCore c f).time = s.time := rfl
@[simp] theorem setCore_parts (c : Nat) (f : Core → Core) : (s.setCore c f).parts = s.parts := rfl
@[simp] theorem setCore_fq (c : Nat) (f : Core → Core) : (s.setCore c f).fq = s.fq := rfl
@[simp] theorem setCore_aspaces (c : Nat) (f : Core → Core) : (s.setCore c f).aspaces = s.aspaces := rfl
@[simp] theorem setCore_tc (c : Nat) (f : Core → Core) : (s.setCore c f).tc = s.tc := rfl
@[simp] theorem setCore_ptrs (c : Nat) (f : Core → Core) : (s.setCore c f).ptrs = s.ptrs := rfl
@[simp] theorem setCore_faults (c : Nat) (f : Core → Core) : (s.setCore c f).faults = s.faults := rfl
@[simp] theorem setCore_shoots (c : Nat) (f : Core → Core) : (s.setCore c f).shoots = s.shoots := rfl
@[simp] theorem setCore_ctxs (c : Nat) (f : Core → Core) : (s.setCore c f).ctxs = s.ctxs := rfl
@[simp] theorem setCore_plan (c : Nat) (f : Core → Core) : (s.setCore c f).plan = s.plan := rfl
@[simp] theorem setCore_barCl (c : Nat) (f : Core → Core) : (s.setCore c f).barCl = s.barCl := rfl
@[simp] theorem setCore_barDie (c : Nat) (f : Core → Core) : (s.setCore c f).barDie = s.barDie := rfl
@[simp] theorem setCore_atq (c : Nat) (f : Core → Core) : (s.setCore c f).atq = s.atq := rfl
@[simp] theorem setCore_ticket (c : Nat) (f : Core → Core) : (s.setCore c f).ticket = s.ticket := rfl
@[simp] theorem setCore_dbg (c : Nat) (f : Core → Core) : (s.setCore c f).dbg = s.dbg := rfl
@[simp] theorem setCore_dbgSel (c : Nat) (f : Core → Core) : (s.setCore c f).dbgSel = s.dbgSel := rfl
@[simp] theorem setCore_mem (c : Nat) (f : Core → Core) : (s.setCore c f).mem = s.mem := rfl
@[simp] theorem setCore_l2 (c : Nat) (f : Core → Core) : (s.setCore c f).l2 = s.l2 := rfl
@[simp] theorem setCore_stks (c : Nat) (f : Core → Core) : (s.setCore c f).stks = s.stks := rfl
@[simp] theorem setCore_coh (c : Nat) (f : Core → Core) : (s.setCore c f).coh = s.coh := rfl
@[simp] theorem setCore_felt (c : Nat) (f : Core → Core) : (s.setCore c f).felt = s.felt := rfl
@[simp] theorem setCore_reserveLog2 (c : Nat) (f : Core → Core) : (s.setCore c f).reserveLog2 = s.reserveLog2 := rfl
@[simp] theorem setCore_peer (c : Nat) (f : Core → Core) : (s.setCore c f).peer = s.peer := rfl
@[simp] theorem setCore_pwr (c : Nat) (f : Core → Core) : (s.setCore c f).pwr = s.pwr := rfl
@[simp] theorem setCore_i3c (c : Nat) (f : Core → Core) : (s.setCore c f).i3c = s.i3c := rfl
@[simp] theorem setCore_hce (c : Nat) (f : Core → Core) : (s.setCore c f).hce = s.hce := rfl
@[simp] theorem setCore_proc (c : Nat) (f : Core → Core) : (s.setCore c f).proc = s.proc := rfl
@[simp] theorem setCore_procReq (c : Nat) (f : Core → Core) : (s.setCore c f).procReq = s.procReq := rfl
@[simp] theorem setCore_sat (c : Nat) (f : Core → Core) : (s.setCore c f).sat = s.sat := rfl
@[simp] theorem setCore_mism (c : Nat) (f : Core → Core) : (s.setCore c f).mism = s.mism := rfl
@[simp] theorem setCore_free (c : Nat) (f : Core → Core) : (s.setCore c f).free = s.free := rfl
@[simp] theorem setCore_run (c : Nat) (f : Core → Core) : (s.setCore c f).run = s.run := rfl

@[simp] theorem setL2_pending (d : Nat) (f : L2 → L2) : (s.setL2 d f).pending = s.pending := rfl
@[simp] theorem setL2_rst (d : Nat) (f : L2 → L2) : (s.setL2 d f).rst = s.rst := rfl
@[simp] theorem setL2_flash (d : Nat) (f : L2 → L2) : (s.setL2 d f).flash = s.flash := rfl
@[simp] theorem setL2_pins (d : Nat) (f : L2 → L2) : (s.setL2 d f).pins = s.pins := rfl
@[simp] theorem setL2_dies (d : Nat) (f : L2 → L2) : (s.setL2 d f).dies = s.dies := rfl
@[simp] theorem setL2_evt (d : Nat) (f : L2 → L2) : (s.setL2 d f).evt = s.evt := rfl
@[simp] theorem setL2_host (d : Nat) (f : L2 → L2) : (s.setL2 d f).host = s.host := rfl
@[simp] theorem setL2_hostMem (d : Nat) (f : L2 → L2) : (s.setL2 d f).hostMem = s.hostMem := rfl
@[simp] theorem setL2_time (d : Nat) (f : L2 → L2) : (s.setL2 d f).time = s.time := rfl
@[simp] theorem setL2_parts (d : Nat) (f : L2 → L2) : (s.setL2 d f).parts = s.parts := rfl
@[simp] theorem setL2_fq (d : Nat) (f : L2 → L2) : (s.setL2 d f).fq = s.fq := rfl
@[simp] theorem setL2_aspaces (d : Nat) (f : L2 → L2) : (s.setL2 d f).aspaces = s.aspaces := rfl
@[simp] theorem setL2_tc (d : Nat) (f : L2 → L2) : (s.setL2 d f).tc = s.tc := rfl
@[simp] theorem setL2_ptrs (d : Nat) (f : L2 → L2) : (s.setL2 d f).ptrs = s.ptrs := rfl
@[simp] theorem setL2_faults (d : Nat) (f : L2 → L2) : (s.setL2 d f).faults = s.faults := rfl
@[simp] theorem setL2_shoots (d : Nat) (f : L2 → L2) : (s.setL2 d f).shoots = s.shoots := rfl
@[simp] theorem setL2_ctxs (d : Nat) (f : L2 → L2) : (s.setL2 d f).ctxs = s.ctxs := rfl
@[simp] theorem setL2_plan (d : Nat) (f : L2 → L2) : (s.setL2 d f).plan = s.plan := rfl
@[simp] theorem setL2_cores (d : Nat) (f : L2 → L2) : (s.setL2 d f).cores = s.cores := rfl
@[simp] theorem setL2_barCl (d : Nat) (f : L2 → L2) : (s.setL2 d f).barCl = s.barCl := rfl
@[simp] theorem setL2_barDie (d : Nat) (f : L2 → L2) : (s.setL2 d f).barDie = s.barDie := rfl
@[simp] theorem setL2_atq (d : Nat) (f : L2 → L2) : (s.setL2 d f).atq = s.atq := rfl
@[simp] theorem setL2_ticket (d : Nat) (f : L2 → L2) : (s.setL2 d f).ticket = s.ticket := rfl
@[simp] theorem setL2_dbg (d : Nat) (f : L2 → L2) : (s.setL2 d f).dbg = s.dbg := rfl
@[simp] theorem setL2_dbgSel (d : Nat) (f : L2 → L2) : (s.setL2 d f).dbgSel = s.dbgSel := rfl
@[simp] theorem setL2_mem (d : Nat) (f : L2 → L2) : (s.setL2 d f).mem = s.mem := rfl
@[simp] theorem setL2_stks (d : Nat) (f : L2 → L2) : (s.setL2 d f).stks = s.stks := rfl
@[simp] theorem setL2_coh (d : Nat) (f : L2 → L2) : (s.setL2 d f).coh = s.coh := rfl
@[simp] theorem setL2_felt (d : Nat) (f : L2 → L2) : (s.setL2 d f).felt = s.felt := rfl
@[simp] theorem setL2_reserveLog2 (d : Nat) (f : L2 → L2) : (s.setL2 d f).reserveLog2 = s.reserveLog2 := rfl
@[simp] theorem setL2_peer (d : Nat) (f : L2 → L2) : (s.setL2 d f).peer = s.peer := rfl
@[simp] theorem setL2_pwr (d : Nat) (f : L2 → L2) : (s.setL2 d f).pwr = s.pwr := rfl
@[simp] theorem setL2_i3c (d : Nat) (f : L2 → L2) : (s.setL2 d f).i3c = s.i3c := rfl
@[simp] theorem setL2_hce (d : Nat) (f : L2 → L2) : (s.setL2 d f).hce = s.hce := rfl
@[simp] theorem setL2_proc (d : Nat) (f : L2 → L2) : (s.setL2 d f).proc = s.proc := rfl
@[simp] theorem setL2_procReq (d : Nat) (f : L2 → L2) : (s.setL2 d f).procReq = s.procReq := rfl
@[simp] theorem setL2_sat (d : Nat) (f : L2 → L2) : (s.setL2 d f).sat = s.sat := rfl
@[simp] theorem setL2_mism (d : Nat) (f : L2 → L2) : (s.setL2 d f).mism = s.mism := rfl
@[simp] theorem setL2_free (d : Nat) (f : L2 → L2) : (s.setL2 d f).free = s.free := rfl
@[simp] theorem setL2_run (d : Nat) (f : L2 → L2) : (s.setL2 d f).run = s.run := rfl

@[simp] theorem setRegion_pending (r v : Nat) : (s.setRegion r v).pending = s.pending := rfl
@[simp] theorem setRegion_rst (r v : Nat) : (s.setRegion r v).rst = s.rst := rfl
@[simp] theorem setRegion_flash (r v : Nat) : (s.setRegion r v).flash = s.flash := rfl
@[simp] theorem setRegion_pins (r v : Nat) : (s.setRegion r v).pins = s.pins := rfl
@[simp] theorem setRegion_dies (r v : Nat) : (s.setRegion r v).dies = s.dies := rfl
@[simp] theorem setRegion_evt (r v : Nat) : (s.setRegion r v).evt = s.evt := rfl
@[simp] theorem setRegion_host (r v : Nat) : (s.setRegion r v).host = s.host := rfl
@[simp] theorem setRegion_hostMem (r v : Nat) : (s.setRegion r v).hostMem = s.hostMem := rfl
@[simp] theorem setRegion_time (r v : Nat) : (s.setRegion r v).time = s.time := rfl
@[simp] theorem setRegion_parts (r v : Nat) : (s.setRegion r v).parts = s.parts := rfl
@[simp] theorem setRegion_fq (r v : Nat) : (s.setRegion r v).fq = s.fq := rfl
@[simp] theorem setRegion_aspaces (r v : Nat) : (s.setRegion r v).aspaces = s.aspaces := rfl
@[simp] theorem setRegion_tc (r v : Nat) : (s.setRegion r v).tc = s.tc := rfl
@[simp] theorem setRegion_ptrs (r v : Nat) : (s.setRegion r v).ptrs = s.ptrs := rfl
@[simp] theorem setRegion_faults (r v : Nat) : (s.setRegion r v).faults = s.faults := rfl
@[simp] theorem setRegion_shoots (r v : Nat) : (s.setRegion r v).shoots = s.shoots := rfl
@[simp] theorem setRegion_ctxs (r v : Nat) : (s.setRegion r v).ctxs = s.ctxs := rfl
@[simp] theorem setRegion_plan (r v : Nat) : (s.setRegion r v).plan = s.plan := rfl
@[simp] theorem setRegion_cores (r v : Nat) : (s.setRegion r v).cores = s.cores := rfl
@[simp] theorem setRegion_barCl (r v : Nat) : (s.setRegion r v).barCl = s.barCl := rfl
@[simp] theorem setRegion_barDie (r v : Nat) : (s.setRegion r v).barDie = s.barDie := rfl
@[simp] theorem setRegion_atq (r v : Nat) : (s.setRegion r v).atq = s.atq := rfl
@[simp] theorem setRegion_ticket (r v : Nat) : (s.setRegion r v).ticket = s.ticket := rfl
@[simp] theorem setRegion_dbg (r v : Nat) : (s.setRegion r v).dbg = s.dbg := rfl
@[simp] theorem setRegion_dbgSel (r v : Nat) : (s.setRegion r v).dbgSel = s.dbgSel := rfl
@[simp] theorem setRegion_mem (r v : Nat) : (s.setRegion r v).mem = s.mem := rfl
@[simp] theorem setRegion_l2 (r v : Nat) : (s.setRegion r v).l2 = s.l2 := rfl
@[simp] theorem setRegion_stks (r v : Nat) : (s.setRegion r v).stks = s.stks := rfl
@[simp] theorem setRegion_coh (r v : Nat) : (s.setRegion r v).coh = s.coh := rfl
@[simp] theorem setRegion_felt (r v : Nat) : (s.setRegion r v).felt = s.felt := rfl
@[simp] theorem setRegion_reserveLog2 (r v : Nat) : (s.setRegion r v).reserveLog2 = s.reserveLog2 := rfl
@[simp] theorem setRegion_peer (r v : Nat) : (s.setRegion r v).peer = s.peer := rfl
@[simp] theorem setRegion_i3c (r v : Nat) : (s.setRegion r v).i3c = s.i3c := rfl
@[simp] theorem setRegion_hce (r v : Nat) : (s.setRegion r v).hce = s.hce := rfl
@[simp] theorem setRegion_proc (r v : Nat) : (s.setRegion r v).proc = s.proc := rfl
@[simp] theorem setRegion_procReq (r v : Nat) : (s.setRegion r v).procReq = s.procReq := rfl
@[simp] theorem setRegion_sat (r v : Nat) : (s.setRegion r v).sat = s.sat := rfl
@[simp] theorem setRegion_mism (r v : Nat) : (s.setRegion r v).mism = s.mism := rfl
@[simp] theorem setRegion_free (r v : Nat) : (s.setRegion r v).free = s.free := rfl
@[simp] theorem setRegion_run (r v : Nat) : (s.setRegion r v).run = s.run := rfl

@[simp] theorem setMailbox_pending (m : Nat) (b : Mailbox) : (s.setMailbox m b).pending = s.pending := rfl
@[simp] theorem setMailbox_rst (m : Nat) (b : Mailbox) : (s.setMailbox m b).rst = s.rst := rfl
@[simp] theorem setMailbox_flash (m : Nat) (b : Mailbox) : (s.setMailbox m b).flash = s.flash := rfl
@[simp] theorem setMailbox_pins (m : Nat) (b : Mailbox) : (s.setMailbox m b).pins = s.pins := rfl
@[simp] theorem setMailbox_dies (m : Nat) (b : Mailbox) : (s.setMailbox m b).dies = s.dies := rfl
@[simp] theorem setMailbox_evt (m : Nat) (b : Mailbox) : (s.setMailbox m b).evt = s.evt := rfl
@[simp] theorem setMailbox_hostMem (m : Nat) (b : Mailbox) : (s.setMailbox m b).hostMem = s.hostMem := rfl
@[simp] theorem setMailbox_time (m : Nat) (b : Mailbox) : (s.setMailbox m b).time = s.time := rfl
@[simp] theorem setMailbox_parts (m : Nat) (b : Mailbox) : (s.setMailbox m b).parts = s.parts := rfl
@[simp] theorem setMailbox_fq (m : Nat) (b : Mailbox) : (s.setMailbox m b).fq = s.fq := rfl
@[simp] theorem setMailbox_aspaces (m : Nat) (b : Mailbox) : (s.setMailbox m b).aspaces = s.aspaces := rfl
@[simp] theorem setMailbox_tc (m : Nat) (b : Mailbox) : (s.setMailbox m b).tc = s.tc := rfl
@[simp] theorem setMailbox_ptrs (m : Nat) (b : Mailbox) : (s.setMailbox m b).ptrs = s.ptrs := rfl
@[simp] theorem setMailbox_faults (m : Nat) (b : Mailbox) : (s.setMailbox m b).faults = s.faults := rfl
@[simp] theorem setMailbox_shoots (m : Nat) (b : Mailbox) : (s.setMailbox m b).shoots = s.shoots := rfl
@[simp] theorem setMailbox_ctxs (m : Nat) (b : Mailbox) : (s.setMailbox m b).ctxs = s.ctxs := rfl
@[simp] theorem setMailbox_plan (m : Nat) (b : Mailbox) : (s.setMailbox m b).plan = s.plan := rfl
@[simp] theorem setMailbox_cores (m : Nat) (b : Mailbox) : (s.setMailbox m b).cores = s.cores := rfl
@[simp] theorem setMailbox_barCl (m : Nat) (b : Mailbox) : (s.setMailbox m b).barCl = s.barCl := rfl
@[simp] theorem setMailbox_barDie (m : Nat) (b : Mailbox) : (s.setMailbox m b).barDie = s.barDie := rfl
@[simp] theorem setMailbox_atq (m : Nat) (b : Mailbox) : (s.setMailbox m b).atq = s.atq := rfl
@[simp] theorem setMailbox_ticket (m : Nat) (b : Mailbox) : (s.setMailbox m b).ticket = s.ticket := rfl
@[simp] theorem setMailbox_dbg (m : Nat) (b : Mailbox) : (s.setMailbox m b).dbg = s.dbg := rfl
@[simp] theorem setMailbox_dbgSel (m : Nat) (b : Mailbox) : (s.setMailbox m b).dbgSel = s.dbgSel := rfl
@[simp] theorem setMailbox_mem (m : Nat) (b : Mailbox) : (s.setMailbox m b).mem = s.mem := rfl
@[simp] theorem setMailbox_l2 (m : Nat) (b : Mailbox) : (s.setMailbox m b).l2 = s.l2 := rfl
@[simp] theorem setMailbox_stks (m : Nat) (b : Mailbox) : (s.setMailbox m b).stks = s.stks := rfl
@[simp] theorem setMailbox_coh (m : Nat) (b : Mailbox) : (s.setMailbox m b).coh = s.coh := rfl
@[simp] theorem setMailbox_felt (m : Nat) (b : Mailbox) : (s.setMailbox m b).felt = s.felt := rfl
@[simp] theorem setMailbox_reserveLog2 (m : Nat) (b : Mailbox) : (s.setMailbox m b).reserveLog2 = s.reserveLog2 := rfl
@[simp] theorem setMailbox_peer (m : Nat) (b : Mailbox) : (s.setMailbox m b).peer = s.peer := rfl
@[simp] theorem setMailbox_pwr (m : Nat) (b : Mailbox) : (s.setMailbox m b).pwr = s.pwr := rfl
@[simp] theorem setMailbox_i3c (m : Nat) (b : Mailbox) : (s.setMailbox m b).i3c = s.i3c := rfl
@[simp] theorem setMailbox_hce (m : Nat) (b : Mailbox) : (s.setMailbox m b).hce = s.hce := rfl
@[simp] theorem setMailbox_proc (m : Nat) (b : Mailbox) : (s.setMailbox m b).proc = s.proc := rfl
@[simp] theorem setMailbox_procReq (m : Nat) (b : Mailbox) : (s.setMailbox m b).procReq = s.procReq := rfl
@[simp] theorem setMailbox_sat (m : Nat) (b : Mailbox) : (s.setMailbox m b).sat = s.sat := rfl
@[simp] theorem setMailbox_mism (m : Nat) (b : Mailbox) : (s.setMailbox m b).mism = s.mism := rfl
@[simp] theorem setMailbox_free (m : Nat) (b : Mailbox) : (s.setMailbox m b).free = s.free := rfl
@[simp] theorem setMailbox_run (m : Nat) (b : Mailbox) : (s.setMailbox m b).run = s.run := rfl

@[simp] theorem setModule_pending (k : Nat) (f : Module → Module) : (s.setModule k f).pending = s.pending := rfl
@[simp] theorem setModule_rst (k : Nat) (f : Module → Module) : (s.setModule k f).rst = s.rst := rfl
@[simp] theorem setModule_flash (k : Nat) (f : Module → Module) : (s.setModule k f).flash = s.flash := rfl
@[simp] theorem setModule_pins (k : Nat) (f : Module → Module) : (s.setModule k f).pins = s.pins := rfl
@[simp] theorem setModule_dies (k : Nat) (f : Module → Module) : (s.setModule k f).dies = s.dies := rfl
@[simp] theorem setModule_evt (k : Nat) (f : Module → Module) : (s.setModule k f).evt = s.evt := rfl
@[simp] theorem setModule_host (k : Nat) (f : Module → Module) : (s.setModule k f).host = s.host := rfl
@[simp] theorem setModule_hostMem (k : Nat) (f : Module → Module) : (s.setModule k f).hostMem = s.hostMem := rfl
@[simp] theorem setModule_time (k : Nat) (f : Module → Module) : (s.setModule k f).time = s.time := rfl
@[simp] theorem setModule_parts (k : Nat) (f : Module → Module) : (s.setModule k f).parts = s.parts := rfl
@[simp] theorem setModule_fq (k : Nat) (f : Module → Module) : (s.setModule k f).fq = s.fq := rfl
@[simp] theorem setModule_aspaces (k : Nat) (f : Module → Module) : (s.setModule k f).aspaces = s.aspaces := rfl
@[simp] theorem setModule_tc (k : Nat) (f : Module → Module) : (s.setModule k f).tc = s.tc := rfl
@[simp] theorem setModule_ptrs (k : Nat) (f : Module → Module) : (s.setModule k f).ptrs = s.ptrs := rfl
@[simp] theorem setModule_faults (k : Nat) (f : Module → Module) : (s.setModule k f).faults = s.faults := rfl
@[simp] theorem setModule_shoots (k : Nat) (f : Module → Module) : (s.setModule k f).shoots = s.shoots := rfl
@[simp] theorem setModule_ctxs (k : Nat) (f : Module → Module) : (s.setModule k f).ctxs = s.ctxs := rfl
@[simp] theorem setModule_plan (k : Nat) (f : Module → Module) : (s.setModule k f).plan = s.plan := rfl
@[simp] theorem setModule_cores (k : Nat) (f : Module → Module) : (s.setModule k f).cores = s.cores := rfl
@[simp] theorem setModule_barCl (k : Nat) (f : Module → Module) : (s.setModule k f).barCl = s.barCl := rfl
@[simp] theorem setModule_barDie (k : Nat) (f : Module → Module) : (s.setModule k f).barDie = s.barDie := rfl
@[simp] theorem setModule_atq (k : Nat) (f : Module → Module) : (s.setModule k f).atq = s.atq := rfl
@[simp] theorem setModule_ticket (k : Nat) (f : Module → Module) : (s.setModule k f).ticket = s.ticket := rfl
@[simp] theorem setModule_dbg (k : Nat) (f : Module → Module) : (s.setModule k f).dbg = s.dbg := rfl
@[simp] theorem setModule_dbgSel (k : Nat) (f : Module → Module) : (s.setModule k f).dbgSel = s.dbgSel := rfl
@[simp] theorem setModule_mem (k : Nat) (f : Module → Module) : (s.setModule k f).mem = s.mem := rfl
@[simp] theorem setModule_l2 (k : Nat) (f : Module → Module) : (s.setModule k f).l2 = s.l2 := rfl
@[simp] theorem setModule_stks (k : Nat) (f : Module → Module) : (s.setModule k f).stks = s.stks := rfl
@[simp] theorem setModule_coh (k : Nat) (f : Module → Module) : (s.setModule k f).coh = s.coh := rfl
@[simp] theorem setModule_reserveLog2 (k : Nat) (f : Module → Module) : (s.setModule k f).reserveLog2 = s.reserveLog2 := rfl
@[simp] theorem setModule_peer (k : Nat) (f : Module → Module) : (s.setModule k f).peer = s.peer := rfl
@[simp] theorem setModule_pwr (k : Nat) (f : Module → Module) : (s.setModule k f).pwr = s.pwr := rfl
@[simp] theorem setModule_i3c (k : Nat) (f : Module → Module) : (s.setModule k f).i3c = s.i3c := rfl
@[simp] theorem setModule_hce (k : Nat) (f : Module → Module) : (s.setModule k f).hce = s.hce := rfl
@[simp] theorem setModule_proc (k : Nat) (f : Module → Module) : (s.setModule k f).proc = s.proc := rfl
@[simp] theorem setModule_procReq (k : Nat) (f : Module → Module) : (s.setModule k f).procReq = s.procReq := rfl
@[simp] theorem setModule_sat (k : Nat) (f : Module → Module) : (s.setModule k f).sat = s.sat := rfl
@[simp] theorem setModule_mism (k : Nat) (f : Module → Module) : (s.setModule k f).mism = s.mism := rfl
@[simp] theorem setModule_free (k : Nat) (f : Module → Module) : (s.setModule k f).free = s.free := rfl
@[simp] theorem setModule_run (k : Nat) (f : Module → Module) : (s.setModule k f).run = s.run := rfl

@[simp] theorem setTc_pending (d : Nat) (l : List TcEntry) : (s.setTc d l).pending = s.pending := rfl
@[simp] theorem setTc_rst (d : Nat) (l : List TcEntry) : (s.setTc d l).rst = s.rst := rfl
@[simp] theorem setTc_flash (d : Nat) (l : List TcEntry) : (s.setTc d l).flash = s.flash := rfl
@[simp] theorem setTc_pins (d : Nat) (l : List TcEntry) : (s.setTc d l).pins = s.pins := rfl
@[simp] theorem setTc_dies (d : Nat) (l : List TcEntry) : (s.setTc d l).dies = s.dies := rfl
@[simp] theorem setTc_evt (d : Nat) (l : List TcEntry) : (s.setTc d l).evt = s.evt := rfl
@[simp] theorem setTc_host (d : Nat) (l : List TcEntry) : (s.setTc d l).host = s.host := rfl
@[simp] theorem setTc_hostMem (d : Nat) (l : List TcEntry) : (s.setTc d l).hostMem = s.hostMem := rfl
@[simp] theorem setTc_time (d : Nat) (l : List TcEntry) : (s.setTc d l).time = s.time := rfl
@[simp] theorem setTc_parts (d : Nat) (l : List TcEntry) : (s.setTc d l).parts = s.parts := rfl
@[simp] theorem setTc_fq (d : Nat) (l : List TcEntry) : (s.setTc d l).fq = s.fq := rfl
@[simp] theorem setTc_aspaces (d : Nat) (l : List TcEntry) : (s.setTc d l).aspaces = s.aspaces := rfl
@[simp] theorem setTc_faults (d : Nat) (l : List TcEntry) : (s.setTc d l).faults = s.faults := rfl
@[simp] theorem setTc_shoots (d : Nat) (l : List TcEntry) : (s.setTc d l).shoots = s.shoots := rfl
@[simp] theorem setTc_ctxs (d : Nat) (l : List TcEntry) : (s.setTc d l).ctxs = s.ctxs := rfl
@[simp] theorem setTc_plan (d : Nat) (l : List TcEntry) : (s.setTc d l).plan = s.plan := rfl
@[simp] theorem setTc_cores (d : Nat) (l : List TcEntry) : (s.setTc d l).cores = s.cores := rfl
@[simp] theorem setTc_barCl (d : Nat) (l : List TcEntry) : (s.setTc d l).barCl = s.barCl := rfl
@[simp] theorem setTc_barDie (d : Nat) (l : List TcEntry) : (s.setTc d l).barDie = s.barDie := rfl
@[simp] theorem setTc_atq (d : Nat) (l : List TcEntry) : (s.setTc d l).atq = s.atq := rfl
@[simp] theorem setTc_ticket (d : Nat) (l : List TcEntry) : (s.setTc d l).ticket = s.ticket := rfl
@[simp] theorem setTc_dbg (d : Nat) (l : List TcEntry) : (s.setTc d l).dbg = s.dbg := rfl
@[simp] theorem setTc_dbgSel (d : Nat) (l : List TcEntry) : (s.setTc d l).dbgSel = s.dbgSel := rfl
@[simp] theorem setTc_mem (d : Nat) (l : List TcEntry) : (s.setTc d l).mem = s.mem := rfl
@[simp] theorem setTc_l2 (d : Nat) (l : List TcEntry) : (s.setTc d l).l2 = s.l2 := rfl
@[simp] theorem setTc_stks (d : Nat) (l : List TcEntry) : (s.setTc d l).stks = s.stks := rfl
@[simp] theorem setTc_coh (d : Nat) (l : List TcEntry) : (s.setTc d l).coh = s.coh := rfl
@[simp] theorem setTc_felt (d : Nat) (l : List TcEntry) : (s.setTc d l).felt = s.felt := rfl
@[simp] theorem setTc_reserveLog2 (d : Nat) (l : List TcEntry) : (s.setTc d l).reserveLog2 = s.reserveLog2 := rfl
@[simp] theorem setTc_peer (d : Nat) (l : List TcEntry) : (s.setTc d l).peer = s.peer := rfl
@[simp] theorem setTc_pwr (d : Nat) (l : List TcEntry) : (s.setTc d l).pwr = s.pwr := rfl
@[simp] theorem setTc_i3c (d : Nat) (l : List TcEntry) : (s.setTc d l).i3c = s.i3c := rfl
@[simp] theorem setTc_hce (d : Nat) (l : List TcEntry) : (s.setTc d l).hce = s.hce := rfl
@[simp] theorem setTc_proc (d : Nat) (l : List TcEntry) : (s.setTc d l).proc = s.proc := rfl
@[simp] theorem setTc_procReq (d : Nat) (l : List TcEntry) : (s.setTc d l).procReq = s.procReq := rfl
@[simp] theorem setTc_sat (d : Nat) (l : List TcEntry) : (s.setTc d l).sat = s.sat := rfl
@[simp] theorem setTc_mism (d : Nat) (l : List TcEntry) : (s.setTc d l).mism = s.mism := rfl
@[simp] theorem setTc_free (d : Nat) (l : List TcEntry) : (s.setTc d l).free = s.free := rfl
@[simp] theorem setTc_run (d : Nat) (l : List TcEntry) : (s.setTc d l).run = s.run := rfl

@[simp] theorem setDbg_pending (r : Nat) (f : DbgRegion → DbgRegion) : (s.setDbg r f).pending = s.pending := rfl
@[simp] theorem setDbg_rst (r : Nat) (f : DbgRegion → DbgRegion) : (s.setDbg r f).rst = s.rst := rfl
@[simp] theorem setDbg_flash (r : Nat) (f : DbgRegion → DbgRegion) : (s.setDbg r f).flash = s.flash := rfl
@[simp] theorem setDbg_pins (r : Nat) (f : DbgRegion → DbgRegion) : (s.setDbg r f).pins = s.pins := rfl
@[simp] theorem setDbg_dies (r : Nat) (f : DbgRegion → DbgRegion) : (s.setDbg r f).dies = s.dies := rfl
@[simp] theorem setDbg_evt (r : Nat) (f : DbgRegion → DbgRegion) : (s.setDbg r f).evt = s.evt := rfl
@[simp] theorem setDbg_host (r : Nat) (f : DbgRegion → DbgRegion) : (s.setDbg r f).host = s.host := rfl
@[simp] theorem setDbg_hostMem (r : Nat) (f : DbgRegion → DbgRegion) : (s.setDbg r f).hostMem = s.hostMem := rfl
@[simp] theorem setDbg_time (r : Nat) (f : DbgRegion → DbgRegion) : (s.setDbg r f).time = s.time := rfl
@[simp] theorem setDbg_parts (r : Nat) (f : DbgRegion → DbgRegion) : (s.setDbg r f).parts = s.parts := rfl
@[simp] theorem setDbg_fq (r : Nat) (f : DbgRegion → DbgRegion) : (s.setDbg r f).fq = s.fq := rfl
@[simp] theorem setDbg_aspaces (r : Nat) (f : DbgRegion → DbgRegion) : (s.setDbg r f).aspaces = s.aspaces := rfl
@[simp] theorem setDbg_tc (r : Nat) (f : DbgRegion → DbgRegion) : (s.setDbg r f).tc = s.tc := rfl
@[simp] theorem setDbg_ptrs (r : Nat) (f : DbgRegion → DbgRegion) : (s.setDbg r f).ptrs = s.ptrs := rfl
@[simp] theorem setDbg_faults (r : Nat) (f : DbgRegion → DbgRegion) : (s.setDbg r f).faults = s.faults := rfl
@[simp] theorem setDbg_shoots (r : Nat) (f : DbgRegion → DbgRegion) : (s.setDbg r f).shoots = s.shoots := rfl
@[simp] theorem setDbg_ctxs (r : Nat) (f : DbgRegion → DbgRegion) : (s.setDbg r f).ctxs = s.ctxs := rfl
@[simp] theorem setDbg_plan (r : Nat) (f : DbgRegion → DbgRegion) : (s.setDbg r f).plan = s.plan := rfl
@[simp] theorem setDbg_cores (r : Nat) (f : DbgRegion → DbgRegion) : (s.setDbg r f).cores = s.cores := rfl
@[simp] theorem setDbg_barCl (r : Nat) (f : DbgRegion → DbgRegion) : (s.setDbg r f).barCl = s.barCl := rfl
@[simp] theorem setDbg_barDie (r : Nat) (f : DbgRegion → DbgRegion) : (s.setDbg r f).barDie = s.barDie := rfl
@[simp] theorem setDbg_atq (r : Nat) (f : DbgRegion → DbgRegion) : (s.setDbg r f).atq = s.atq := rfl
@[simp] theorem setDbg_ticket (r : Nat) (f : DbgRegion → DbgRegion) : (s.setDbg r f).ticket = s.ticket := rfl
@[simp] theorem setDbg_dbgSel (r : Nat) (f : DbgRegion → DbgRegion) : (s.setDbg r f).dbgSel = s.dbgSel := rfl
@[simp] theorem setDbg_mem (r : Nat) (f : DbgRegion → DbgRegion) : (s.setDbg r f).mem = s.mem := rfl
@[simp] theorem setDbg_l2 (r : Nat) (f : DbgRegion → DbgRegion) : (s.setDbg r f).l2 = s.l2 := rfl
@[simp] theorem setDbg_stks (r : Nat) (f : DbgRegion → DbgRegion) : (s.setDbg r f).stks = s.stks := rfl
@[simp] theorem setDbg_coh (r : Nat) (f : DbgRegion → DbgRegion) : (s.setDbg r f).coh = s.coh := rfl
@[simp] theorem setDbg_felt (r : Nat) (f : DbgRegion → DbgRegion) : (s.setDbg r f).felt = s.felt := rfl
@[simp] theorem setDbg_reserveLog2 (r : Nat) (f : DbgRegion → DbgRegion) : (s.setDbg r f).reserveLog2 = s.reserveLog2 := rfl
@[simp] theorem setDbg_peer (r : Nat) (f : DbgRegion → DbgRegion) : (s.setDbg r f).peer = s.peer := rfl
@[simp] theorem setDbg_pwr (r : Nat) (f : DbgRegion → DbgRegion) : (s.setDbg r f).pwr = s.pwr := rfl
@[simp] theorem setDbg_i3c (r : Nat) (f : DbgRegion → DbgRegion) : (s.setDbg r f).i3c = s.i3c := rfl
@[simp] theorem setDbg_hce (r : Nat) (f : DbgRegion → DbgRegion) : (s.setDbg r f).hce = s.hce := rfl
@[simp] theorem setDbg_proc (r : Nat) (f : DbgRegion → DbgRegion) : (s.setDbg r f).proc = s.proc := rfl
@[simp] theorem setDbg_procReq (r : Nat) (f : DbgRegion → DbgRegion) : (s.setDbg r f).procReq = s.procReq := rfl
@[simp] theorem setDbg_sat (r : Nat) (f : DbgRegion → DbgRegion) : (s.setDbg r f).sat = s.sat := rfl
@[simp] theorem setDbg_mism (r : Nat) (f : DbgRegion → DbgRegion) : (s.setDbg r f).mism = s.mism := rfl
@[simp] theorem setDbg_free (r : Nat) (f : DbgRegion → DbgRegion) : (s.setDbg r f).free = s.free := rfl
@[simp] theorem setDbg_run (r : Nat) (f : DbgRegion → DbgRegion) : (s.setDbg r f).run = s.run := rfl

@[simp] theorem answer_pending (r : Reply) : (s.answer r).pending = s.pending := rfl
@[simp] theorem answer_rst (r : Reply) : (s.answer r).rst = s.rst := rfl
@[simp] theorem answer_flash (r : Reply) : (s.answer r).flash = s.flash := rfl
@[simp] theorem answer_pins (r : Reply) : (s.answer r).pins = s.pins := rfl
@[simp] theorem answer_dies (r : Reply) : (s.answer r).dies = s.dies := rfl
@[simp] theorem answer_evt (r : Reply) : (s.answer r).evt = s.evt := rfl
@[simp] theorem answer_hostMem (r : Reply) : (s.answer r).hostMem = s.hostMem := rfl
@[simp] theorem answer_time (r : Reply) : (s.answer r).time = s.time := rfl
@[simp] theorem answer_parts (r : Reply) : (s.answer r).parts = s.parts := rfl
@[simp] theorem answer_fq (r : Reply) : (s.answer r).fq = s.fq := rfl
@[simp] theorem answer_aspaces (r : Reply) : (s.answer r).aspaces = s.aspaces := rfl
@[simp] theorem answer_tc (r : Reply) : (s.answer r).tc = s.tc := rfl
@[simp] theorem answer_ptrs (r : Reply) : (s.answer r).ptrs = s.ptrs := rfl
@[simp] theorem answer_faults (r : Reply) : (s.answer r).faults = s.faults := rfl
@[simp] theorem answer_shoots (r : Reply) : (s.answer r).shoots = s.shoots := rfl
@[simp] theorem answer_ctxs (r : Reply) : (s.answer r).ctxs = s.ctxs := rfl
@[simp] theorem answer_plan (r : Reply) : (s.answer r).plan = s.plan := rfl
@[simp] theorem answer_cores (r : Reply) : (s.answer r).cores = s.cores := rfl
@[simp] theorem answer_barCl (r : Reply) : (s.answer r).barCl = s.barCl := rfl
@[simp] theorem answer_barDie (r : Reply) : (s.answer r).barDie = s.barDie := rfl
@[simp] theorem answer_atq (r : Reply) : (s.answer r).atq = s.atq := rfl
@[simp] theorem answer_ticket (r : Reply) : (s.answer r).ticket = s.ticket := rfl
@[simp] theorem answer_dbg (r : Reply) : (s.answer r).dbg = s.dbg := rfl
@[simp] theorem answer_dbgSel (r : Reply) : (s.answer r).dbgSel = s.dbgSel := rfl
@[simp] theorem answer_mem (r : Reply) : (s.answer r).mem = s.mem := rfl
@[simp] theorem answer_l2 (r : Reply) : (s.answer r).l2 = s.l2 := rfl
@[simp] theorem answer_stks (r : Reply) : (s.answer r).stks = s.stks := rfl
@[simp] theorem answer_coh (r : Reply) : (s.answer r).coh = s.coh := rfl
@[simp] theorem answer_felt (r : Reply) : (s.answer r).felt = s.felt := rfl
@[simp] theorem answer_reserveLog2 (r : Reply) : (s.answer r).reserveLog2 = s.reserveLog2 := rfl
@[simp] theorem answer_peer (r : Reply) : (s.answer r).peer = s.peer := rfl
@[simp] theorem answer_pwr (r : Reply) : (s.answer r).pwr = s.pwr := rfl
@[simp] theorem answer_i3c (r : Reply) : (s.answer r).i3c = s.i3c := rfl
@[simp] theorem answer_hce (r : Reply) : (s.answer r).hce = s.hce := rfl
@[simp] theorem answer_proc (r : Reply) : (s.answer r).proc = s.proc := rfl
@[simp] theorem answer_procReq (r : Reply) : (s.answer r).procReq = s.procReq := rfl
@[simp] theorem answer_sat (r : Reply) : (s.answer r).sat = s.sat := rfl
@[simp] theorem answer_mism (r : Reply) : (s.answer r).mism = s.mism := rfl
@[simp] theorem answer_free (r : Reply) : (s.answer r).free = s.free := rfl
@[simp] theorem answer_run (r : Reply) : (s.answer r).run = s.run := rfl

@[simp] theorem setPart_pending (p : Nat) (f : Partition → Partition) : (s.setPart p f).pending = s.pending := by unfold State.setPart; split <;> rfl
@[simp] theorem setPart_rst (p : Nat) (f : Partition → Partition) : (s.setPart p f).rst = s.rst := by unfold State.setPart; split <;> rfl
@[simp] theorem setPart_flash (p : Nat) (f : Partition → Partition) : (s.setPart p f).flash = s.flash := by unfold State.setPart; split <;> rfl
@[simp] theorem setPart_pins (p : Nat) (f : Partition → Partition) : (s.setPart p f).pins = s.pins := by unfold State.setPart; split <;> rfl
@[simp] theorem setPart_dies (p : Nat) (f : Partition → Partition) : (s.setPart p f).dies = s.dies := by unfold State.setPart; split <;> rfl
@[simp] theorem setPart_evt (p : Nat) (f : Partition → Partition) : (s.setPart p f).evt = s.evt := by unfold State.setPart; split <;> rfl
@[simp] theorem setPart_host (p : Nat) (f : Partition → Partition) : (s.setPart p f).host = s.host := by unfold State.setPart; split <;> rfl
@[simp] theorem setPart_hostMem (p : Nat) (f : Partition → Partition) : (s.setPart p f).hostMem = s.hostMem := by unfold State.setPart; split <;> rfl
@[simp] theorem setPart_time (p : Nat) (f : Partition → Partition) : (s.setPart p f).time = s.time := by unfold State.setPart; split <;> rfl
@[simp] theorem setPart_fq (p : Nat) (f : Partition → Partition) : (s.setPart p f).fq = s.fq := by unfold State.setPart; split <;> rfl
@[simp] theorem setPart_aspaces (p : Nat) (f : Partition → Partition) : (s.setPart p f).aspaces = s.aspaces := by unfold State.setPart; split <;> rfl
@[simp] theorem setPart_tc (p : Nat) (f : Partition → Partition) : (s.setPart p f).tc = s.tc := by unfold State.setPart; split <;> rfl
@[simp] theorem setPart_ptrs (p : Nat) (f : Partition → Partition) : (s.setPart p f).ptrs = s.ptrs := by unfold State.setPart; split <;> rfl
@[simp] theorem setPart_faults (p : Nat) (f : Partition → Partition) : (s.setPart p f).faults = s.faults := by unfold State.setPart; split <;> rfl
@[simp] theorem setPart_shoots (p : Nat) (f : Partition → Partition) : (s.setPart p f).shoots = s.shoots := by unfold State.setPart; split <;> rfl
@[simp] theorem setPart_ctxs (p : Nat) (f : Partition → Partition) : (s.setPart p f).ctxs = s.ctxs := by unfold State.setPart; split <;> rfl
@[simp] theorem setPart_plan (p : Nat) (f : Partition → Partition) : (s.setPart p f).plan = s.plan := by unfold State.setPart; split <;> rfl
@[simp] theorem setPart_cores (p : Nat) (f : Partition → Partition) : (s.setPart p f).cores = s.cores := by unfold State.setPart; split <;> rfl
@[simp] theorem setPart_barCl (p : Nat) (f : Partition → Partition) : (s.setPart p f).barCl = s.barCl := by unfold State.setPart; split <;> rfl
@[simp] theorem setPart_barDie (p : Nat) (f : Partition → Partition) : (s.setPart p f).barDie = s.barDie := by unfold State.setPart; split <;> rfl
@[simp] theorem setPart_atq (p : Nat) (f : Partition → Partition) : (s.setPart p f).atq = s.atq := by unfold State.setPart; split <;> rfl
@[simp] theorem setPart_ticket (p : Nat) (f : Partition → Partition) : (s.setPart p f).ticket = s.ticket := by unfold State.setPart; split <;> rfl
@[simp] theorem setPart_dbg (p : Nat) (f : Partition → Partition) : (s.setPart p f).dbg = s.dbg := by unfold State.setPart; split <;> rfl
@[simp] theorem setPart_dbgSel (p : Nat) (f : Partition → Partition) : (s.setPart p f).dbgSel = s.dbgSel := by unfold State.setPart; split <;> rfl
@[simp] theorem setPart_mem (p : Nat) (f : Partition → Partition) : (s.setPart p f).mem = s.mem := by unfold State.setPart; split <;> rfl
@[simp] theorem setPart_l2 (p : Nat) (f : Partition → Partition) : (s.setPart p f).l2 = s.l2 := by unfold State.setPart; split <;> rfl
@[simp] theorem setPart_stks (p : Nat) (f : Partition → Partition) : (s.setPart p f).stks = s.stks := by unfold State.setPart; split <;> rfl
@[simp] theorem setPart_coh (p : Nat) (f : Partition → Partition) : (s.setPart p f).coh = s.coh := by unfold State.setPart; split <;> rfl
@[simp] theorem setPart_felt (p : Nat) (f : Partition → Partition) : (s.setPart p f).felt = s.felt := by unfold State.setPart; split <;> rfl
@[simp] theorem setPart_reserveLog2 (p : Nat) (f : Partition → Partition) : (s.setPart p f).reserveLog2 = s.reserveLog2 := by unfold State.setPart; split <;> rfl
@[simp] theorem setPart_peer (p : Nat) (f : Partition → Partition) : (s.setPart p f).peer = s.peer := by unfold State.setPart; split <;> rfl
@[simp] theorem setPart_pwr (p : Nat) (f : Partition → Partition) : (s.setPart p f).pwr = s.pwr := by unfold State.setPart; split <;> rfl
@[simp] theorem setPart_i3c (p : Nat) (f : Partition → Partition) : (s.setPart p f).i3c = s.i3c := by unfold State.setPart; split <;> rfl
@[simp] theorem setPart_hce (p : Nat) (f : Partition → Partition) : (s.setPart p f).hce = s.hce := by unfold State.setPart; split <;> rfl
@[simp] theorem setPart_proc (p : Nat) (f : Partition → Partition) : (s.setPart p f).proc = s.proc := by unfold State.setPart; split <;> rfl
@[simp] theorem setPart_procReq (p : Nat) (f : Partition → Partition) : (s.setPart p f).procReq = s.procReq := by unfold State.setPart; split <;> rfl
@[simp] theorem setPart_sat (p : Nat) (f : Partition → Partition) : (s.setPart p f).sat = s.sat := by unfold State.setPart; split <;> rfl
@[simp] theorem setPart_mism (p : Nat) (f : Partition → Partition) : (s.setPart p f).mism = s.mism := by unfold State.setPart; split <;> rfl
@[simp] theorem setPart_free (p : Nat) (f : Partition → Partition) : (s.setPart p f).free = s.free := by unfold State.setPart; split <;> rfl
@[simp] theorem setPart_run (p : Nat) (f : Partition → Partition) : (s.setPart p f).run = s.run := by unfold State.setPart; split <;> rfl

@[simp] theorem setCtx_pending (c : Nat) (f : Ctx → Ctx) : (s.setCtx c f).pending = s.pending := by unfold State.setCtx; split <;> rfl
@[simp] theorem setCtx_rst (c : Nat) (f : Ctx → Ctx) : (s.setCtx c f).rst = s.rst := by unfold State.setCtx; split <;> rfl
@[simp] theorem setCtx_flash (c : Nat) (f : Ctx → Ctx) : (s.setCtx c f).flash = s.flash := by unfold State.setCtx; split <;> rfl
@[simp] theorem setCtx_pins (c : Nat) (f : Ctx → Ctx) : (s.setCtx c f).pins = s.pins := by unfold State.setCtx; split <;> rfl
@[simp] theorem setCtx_dies (c : Nat) (f : Ctx → Ctx) : (s.setCtx c f).dies = s.dies := by unfold State.setCtx; split <;> rfl
@[simp] theorem setCtx_evt (c : Nat) (f : Ctx → Ctx) : (s.setCtx c f).evt = s.evt := by unfold State.setCtx; split <;> rfl
@[simp] theorem setCtx_host (c : Nat) (f : Ctx → Ctx) : (s.setCtx c f).host = s.host := by unfold State.setCtx; split <;> rfl
@[simp] theorem setCtx_hostMem (c : Nat) (f : Ctx → Ctx) : (s.setCtx c f).hostMem = s.hostMem := by unfold State.setCtx; split <;> rfl
@[simp] theorem setCtx_time (c : Nat) (f : Ctx → Ctx) : (s.setCtx c f).time = s.time := by unfold State.setCtx; split <;> rfl
@[simp] theorem setCtx_parts (c : Nat) (f : Ctx → Ctx) : (s.setCtx c f).parts = s.parts := by unfold State.setCtx; split <;> rfl
@[simp] theorem setCtx_fq (c : Nat) (f : Ctx → Ctx) : (s.setCtx c f).fq = s.fq := by unfold State.setCtx; split <;> rfl
@[simp] theorem setCtx_aspaces (c : Nat) (f : Ctx → Ctx) : (s.setCtx c f).aspaces = s.aspaces := by unfold State.setCtx; split <;> rfl
@[simp] theorem setCtx_tc (c : Nat) (f : Ctx → Ctx) : (s.setCtx c f).tc = s.tc := by unfold State.setCtx; split <;> rfl
@[simp] theorem setCtx_ptrs (c : Nat) (f : Ctx → Ctx) : (s.setCtx c f).ptrs = s.ptrs := by unfold State.setCtx; split <;> rfl
@[simp] theorem setCtx_faults (c : Nat) (f : Ctx → Ctx) : (s.setCtx c f).faults = s.faults := by unfold State.setCtx; split <;> rfl
@[simp] theorem setCtx_shoots (c : Nat) (f : Ctx → Ctx) : (s.setCtx c f).shoots = s.shoots := by unfold State.setCtx; split <;> rfl
@[simp] theorem setCtx_plan (c : Nat) (f : Ctx → Ctx) : (s.setCtx c f).plan = s.plan := by unfold State.setCtx; split <;> rfl
@[simp] theorem setCtx_cores (c : Nat) (f : Ctx → Ctx) : (s.setCtx c f).cores = s.cores := by unfold State.setCtx; split <;> rfl
@[simp] theorem setCtx_barCl (c : Nat) (f : Ctx → Ctx) : (s.setCtx c f).barCl = s.barCl := by unfold State.setCtx; split <;> rfl
@[simp] theorem setCtx_barDie (c : Nat) (f : Ctx → Ctx) : (s.setCtx c f).barDie = s.barDie := by unfold State.setCtx; split <;> rfl
@[simp] theorem setCtx_atq (c : Nat) (f : Ctx → Ctx) : (s.setCtx c f).atq = s.atq := by unfold State.setCtx; split <;> rfl
@[simp] theorem setCtx_ticket (c : Nat) (f : Ctx → Ctx) : (s.setCtx c f).ticket = s.ticket := by unfold State.setCtx; split <;> rfl
@[simp] theorem setCtx_dbg (c : Nat) (f : Ctx → Ctx) : (s.setCtx c f).dbg = s.dbg := by unfold State.setCtx; split <;> rfl
@[simp] theorem setCtx_dbgSel (c : Nat) (f : Ctx → Ctx) : (s.setCtx c f).dbgSel = s.dbgSel := by unfold State.setCtx; split <;> rfl
@[simp] theorem setCtx_mem (c : Nat) (f : Ctx → Ctx) : (s.setCtx c f).mem = s.mem := by unfold State.setCtx; split <;> rfl
@[simp] theorem setCtx_l2 (c : Nat) (f : Ctx → Ctx) : (s.setCtx c f).l2 = s.l2 := by unfold State.setCtx; split <;> rfl
@[simp] theorem setCtx_stks (c : Nat) (f : Ctx → Ctx) : (s.setCtx c f).stks = s.stks := by unfold State.setCtx; split <;> rfl
@[simp] theorem setCtx_coh (c : Nat) (f : Ctx → Ctx) : (s.setCtx c f).coh = s.coh := by unfold State.setCtx; split <;> rfl
@[simp] theorem setCtx_felt (c : Nat) (f : Ctx → Ctx) : (s.setCtx c f).felt = s.felt := by unfold State.setCtx; split <;> rfl
@[simp] theorem setCtx_reserveLog2 (c : Nat) (f : Ctx → Ctx) : (s.setCtx c f).reserveLog2 = s.reserveLog2 := by unfold State.setCtx; split <;> rfl
@[simp] theorem setCtx_peer (c : Nat) (f : Ctx → Ctx) : (s.setCtx c f).peer = s.peer := by unfold State.setCtx; split <;> rfl
@[simp] theorem setCtx_pwr (c : Nat) (f : Ctx → Ctx) : (s.setCtx c f).pwr = s.pwr := by unfold State.setCtx; split <;> rfl
@[simp] theorem setCtx_i3c (c : Nat) (f : Ctx → Ctx) : (s.setCtx c f).i3c = s.i3c := by unfold State.setCtx; split <;> rfl
@[simp] theorem setCtx_hce (c : Nat) (f : Ctx → Ctx) : (s.setCtx c f).hce = s.hce := by unfold State.setCtx; split <;> rfl
@[simp] theorem setCtx_proc (c : Nat) (f : Ctx → Ctx) : (s.setCtx c f).proc = s.proc := by unfold State.setCtx; split <;> rfl
@[simp] theorem setCtx_procReq (c : Nat) (f : Ctx → Ctx) : (s.setCtx c f).procReq = s.procReq := by unfold State.setCtx; split <;> rfl
@[simp] theorem setCtx_sat (c : Nat) (f : Ctx → Ctx) : (s.setCtx c f).sat = s.sat := by unfold State.setCtx; split <;> rfl
@[simp] theorem setCtx_mism (c : Nat) (f : Ctx → Ctx) : (s.setCtx c f).mism = s.mism := by unfold State.setCtx; split <;> rfl
@[simp] theorem setCtx_free (c : Nat) (f : Ctx → Ctx) : (s.setCtx c f).free = s.free := by unfold State.setCtx; split <;> rfl
@[simp] theorem setCtx_run (c : Nat) (f : Ctx → Ctx) : (s.setCtx c f).run = s.run := by unfold State.setCtx; split <;> rfl

end Sys2Proof.Machine
end

