-- ==== Sys2Proof/Laws/Tab.lean ====
section
/-! SUPPORT. Laws of the sparse tables: reading after writing, and their canonical form. -/

namespace Sys2Proof.Machine

open Sys2Proof

variable {α : Type}

@[simp] theorem look_put_self (t : Tab α) (k : Nat) (v : α) : look (put t k v) k = some v := by
  induction t with
  | nil => simp [put, look]
  | cons e t ih => simp only [put]; split_ifs <;> simp_all [look]; omega

theorem look_put_of_ne (t : Tab α) {j k : Nat} (v : α) (h : j ≠ k) : look (put t k v) j = look t j := by
  induction t with
  | nil => simp [put, look, Ne.symm h]
  | cons e t ih =>
    simp only [put]
    split_ifs with h1 h2
    · simp [look, Ne.symm h]
    · simp [look, ← h2, Ne.symm h]
    · simp [look, ih]

@[simp] theorem look_del_self (t : Tab α) (k : Nat) : look (del t k) k = none := by
  induction t with
  | nil => rfl
  | cons e t ih => simp only [del]; split_ifs <;> simp_all [look]

theorem look_del_of_ne (t : Tab α) {j k : Nat} (h : j ≠ k) : look (del t k) j = look t j := by
  induction t with
  | nil => rfl
  | cons e t ih => simp only [del]; split_ifs <;> simp_all [look, Ne.symm h]

theorem look_put (t : Tab α) (j k : Nat) (v : α) : look (put t k v) j = if j = k then some v else look t j := by
  split_ifs with h
  · subst h; simp
  · exact look_put_of_ne t v h

theorem look_del (t : Tab α) (j k : Nat) : look (del t k) j = if j = k then none else look t j := by
  split_ifs with h
  · subst h; simp
  · exact look_del_of_ne t h

theorem lookD_put (t : Tab α) (j k : Nat) (v d : α) : lookD (put t k v) j d = if j = k then v else lookD t j d := by
  unfold lookD; rw [look_put]; split_ifs <;> rfl

/-- Reading a table after a write that keeps the canonical form: the value written, or what stood there. -/
theorem lookD_putD [DecidableEq α] (t : Tab α) (j k : Nat) (v d : α) :
    lookD (putD t k v d) j d = if j = k then v else lookD t j d := by
  unfold putD lookD
  split_ifs with h hj hj
  · subst hj; simp [h]
  · rw [look_del_of_ne t hj]
  · subst hj; simp
  · rw [look_put_of_ne t v hj]

@[simp] theorem lookD_putD_self [DecidableEq α] (t : Tab α) (k : Nat) (v d : α) : lookD (putD t k v d) k d = v := by
  simp [lookD_putD]

theorem lookD_putD_of_ne [DecidableEq α] (t : Tab α) {j k : Nat} (v d : α) (h : j ≠ k) :
    lookD (putD t k v d) j d = lookD t j d := by simp [lookD_putD, h]

/-- Words written from `k` on read back cut to 64 bits; every other word stands. -/
theorem lookD_wordsPut (l : List Nat) (t : Tab W64) (k j : Nat) :
    lookD (wordsPut t k l) j 0 = if k ≤ j ∧ j - k < l.length then BitVec.ofNat 64 (l.getD (j - k) 0) else lookD t j 0 := by
  induction l generalizing t k with
  | nil => simp [wordsPut]
  | cons v l ih =>
    simp only [wordsPut, ih, lookD_putD, List.length_cons]
    rcases Nat.lt_trichotomy j k with h | h | h
    · have h1 : ¬ (k + 1 ≤ j) := by omega
      have h2 : ¬ (k ≤ j) := by omega
      have h3 : j ≠ k := by omega
      simp [h1, h2, h3]
    · subst h; simp
    · have e : j - k = (j - (k + 1)) + 1 := by omega
      have h3 : j ≠ k := by omega
      have h1 : k + 1 ≤ j := by omega
      have h2 : k ≤ j := by omega
      simp [h1, h2, h3, e]

/-! ## Canonical form -/

theorem tabSorted_iff (t : Tab α) : tabSorted t = true ↔ t.Pairwise fun a b => a.1 < b.1 := by
  induction t with
  | nil => simp [tabSorted]
  | cons e t ih =>
    cases t with
    | nil => simp [tabSorted]
    | cons f t =>
      obtain ⟨j, v⟩ := e
      obtain ⟨k, w⟩ := f
      simp only [tabSorted, Bool.and_eq_true, decide_eq_true_eq, ih, List.pairwise_cons, List.mem_cons]
      constructor
      · rintro ⟨h, h1, h2⟩
        refine ⟨?_, h1, h2⟩
        rintro a (rfl | ha)
        · exact h
        · exact lt_trans h (h1 a ha)
      · rintro ⟨h, h1, h2⟩
        exact ⟨h _ (Or.inl rfl), h1, h2⟩

theorem rising_iff (l : List Nat) : rising l = true ↔ l.Pairwise (· < ·) := by
  induction l with
  | nil => simp [rising]
  | cons j t ih =>
    cases t with
    | nil => simp [rising]
    | cons k t =>
      simp only [rising, Bool.and_eq_true, decide_eq_true_eq, ih, List.pairwise_cons, List.mem_cons]
      constructor
      · rintro ⟨h, h1, h2⟩
        refine ⟨?_, h1, h2⟩
        rintro a (rfl | ha)
        · exact h
        · exact lt_trans h (h1 a ha)
      · rintro ⟨h, h1, h2⟩
        exact ⟨h _ (Or.inl rfl), h1, h2⟩

theorem rising_filter {l : List Nat} (p : Nat → Bool) (h : rising l = true) : rising (l.filter p) = true := by
  rw [rising_iff] at *; exact h.filter p

theorem rising_addSorted {l : List Nat} (k : Nat) (h : rising l = true) : rising (addSorted k l) = true := by
  have hm : ∀ (l : List Nat) (x : Nat), x ∈ addSorted k l → x = k ∨ x ∈ l := by
    intro l x
    induction l with
    | nil => simp [addSorted]
    | cons j t ih =>
      simp only [addSorted]
      split_ifs <;> simp only [List.mem_cons] <;> tauto
  rw [rising_iff] at *
  induction l with
  | nil => simp [addSorted]
  | cons j t ih =>
    simp only [addSorted]
    rw [List.pairwise_cons] at h
    split_ifs with h1 h2
    · simp only [List.pairwise_cons, List.mem_cons]
      exact ⟨by rintro a (rfl | ha); exacts [h1, lt_trans h1 (h.1 a ha)], h⟩
    · simpa [h2] using h
    · rw [List.pairwise_cons]
      refine ⟨fun a ha => ?_, ih h.2⟩
      rcases hm t a ha with rfl | ha
      · omega
      · exact h.1 a ha

theorem mem_del {t : Tab α} {k : Nat} {e : Nat × α} (h : e ∈ del t k) : e ∈ t := by
  induction t with
  | nil => simp [del] at h
  | cons f t ih =>
    simp only [del] at h
    split_ifs at h with hk
    · exact List.mem_cons_of_mem _ (ih h)
    · rcases List.mem_cons.1 h with rfl | h
      · exact List.mem_cons_self
      · exact List.mem_cons_of_mem _ (ih h)

theorem mem_put {t : Tab α} {k : Nat} {v : α} {e : Nat × α} (h : e ∈ put t k v) : e = (k, v) ∨ e ∈ t := by
  induction t with
  | nil => simpa [put] using h
  | cons f t ih =>
    simp only [put] at h
    split_ifs at h with h1 h2
    · simpa using h
    · rcases List.mem_cons.1 h with rfl | h
      · exact Or.inl rfl
      · exact Or.inr (List.mem_cons_of_mem _ h)
    · rcases List.mem_cons.1 h with rfl | h
      · exact Or.inr List.mem_cons_self
      · rcases ih h with rfl | h
        · exact Or.inl rfl
        · exact Or.inr (List.mem_cons_of_mem _ h)

variable [DecidableEq α]

theorem tabWf_iff (t : Tab α) (d : α) :
    tabWf t d = true ↔ (t.Pairwise fun a b => a.1 < b.1) ∧ ∀ e ∈ t, e.2 ≠ d := by
  simp [tabWf, tabSorted_iff]

theorem tabWf_filter {t : Tab α} {d : α} (p : Nat × α → Bool) (h : tabWf t d = true) : tabWf (t.filter p) d = true := by
  rw [tabWf_iff] at *
  exact ⟨h.1.filter p, fun e he => h.2 e (List.mem_filter.1 he).1⟩

theorem tabWf_del {t : Tab α} {d : α} (k : Nat) (h : tabWf t d = true) : tabWf (del t k) d = true := by
  rw [tabWf_iff] at *
  refine ⟨?_, fun e he => h.2 e (mem_del he)⟩
  obtain ⟨h, -⟩ := h
  induction t with
  | nil => simp [del]
  | cons f t ih =>
    rw [List.pairwise_cons] at h
    simp only [del]
    split_ifs
    · exact ih h.2
    · rw [List.pairwise_cons]
      exact ⟨fun a ha => h.1 a (mem_del ha), ih h.2⟩

theorem tabWf_put {t : Tab α} {d : α} (k : Nat) (v : α) (hv : v ≠ d) (h : tabWf t d = true) :
    tabWf (put t k v) d = true := by
  rw [tabWf_iff] at *
  refine ⟨?_, fun e he => ?_⟩
  · obtain ⟨h, -⟩ := h
    induction t with
    | nil => simp [put]
    | cons f t ih =>
      rw [List.pairwise_cons] at h
      simp only [put]
      split_ifs with h1 h2
      · simp only [List.pairwise_cons, List.mem_cons]
        exact ⟨by rintro a (rfl | ha); exacts [h1, lt_trans h1 (h.1 a ha)], h⟩
      · rw [List.pairwise_cons]
        exact ⟨fun a ha => by simpa [h2] using h.1 a ha, h.2⟩
      · rw [List.pairwise_cons]
        refine ⟨fun a ha => ?_, ih h.2⟩
        rcases mem_put ha with rfl | ha
        · show f.1 < k; omega
        · exact h.1 a ha
  · rcases mem_put he with rfl | he
    · exact hv
    · exact h.2 e he

/-- The write of the sparse tables keeps their canonical form. -/
theorem tabWf_putD {t : Tab α} {d : α} (k : Nat) (v : α) (h : tabWf t d = true) : tabWf (putD t k v d) d = true := by
  unfold putD
  split_ifs with hv
  · exact tabWf_del k h
  · exact tabWf_put k v hv h

theorem tabWf_cellsPut (l : List Byte) {m : List Host.Cell} (a : Nat) (h : tabWf m 0 = true) :
    tabWf (cellsPut m a l) 0 = true := by
  induction l generalizing m a with
  | nil => exact h
  | cons b l ih => exact ih (a + 1) (tabWf_putD a b h)

/-- A byte of a memory after bytes are written from `a` on. -/
theorem lookD_cellsPut (l : List Byte) (m : List Host.Cell) (a j : Nat) :
    lookD (cellsPut m a l) j 0 = if a ≤ j ∧ j - a < l.length then l.getD (j - a) 0 else lookD m j 0 := by
  induction l generalizing m a with
  | nil => simp [cellsPut]
  | cons v l ih =>
    simp only [cellsPut, ih, lookD_putD, List.length_cons]
    rcases Nat.lt_trichotomy j a with h | h | h
    · have h1 : ¬ (a + 1 ≤ j) := by omega
      have h2 : ¬ (a ≤ j) := by omega
      have h3 : j ≠ a := by omega
      simp [h1, h2, h3]
    · subst h; simp
    · have e : j - a = (j - (a + 1)) + 1 := by omega
      have h3 : j ≠ a := by omega
      have h1 : a + 1 ≤ j := by omega
      have h2 : a ≤ j := by omega
      simp [h1, h2, h3, e]

end Sys2Proof.Machine
end

