-- ==== Sys2Proof/Laws/Ops.lean ====
section
/-! SUPPORT. What each shared operation can do, said once: vectors, completions, events, command acceptance. -/

namespace Sys2Proof.Machine

open Sys2Proof

@[simp] theorem deliver_mbx (h : HostIf) (v : Nat) : (h.deliver v).mbx = h.mbx := by
  unfold HostIf.deliver; split_ifs <;> rfl

/-- A request to the host changes the host interface and the host's memory. -/
theorem hostReq_frame (r : HostReq) (s : State) :
    hostReq r s = { s with host := (hostReq r s).host, hostMem := (hostReq r s).hostMem } := by
  unfold hostReq; split_ifs <;> cases r <;> rfl

@[simp] theorem hostReq_mbx (r : HostReq) (s : State) : (hostReq r s).host.mbx = s.host.mbx := by
  unfold hostReq; split_ifs <;> cases r <;> simp [issueReq]

/-- Sending a vector changes nothing but the host interface. -/
theorem sendVector_frame (v : Nat) (s : State) : sendVector v s = { s with host := (sendVector v s).host } := by
  unfold sendVector hostReq; split_ifs <;> rfl

@[simp] theorem sendVector_mbx (v : Nat) (s : State) : (sendVector v s).host.mbx = s.host.mbx := by simp [sendVector]

/-- A completion changes nothing but the host interface. -/
theorem complete_frame (m st : Nat) (r : List Nat) (s : State) :
    complete m st r s = { s with host := (complete m st r s).host } := by
  unfold complete
  dsimp only
  split_ifs
  · rw [sendVector_frame]; rfl
  · rfl

/-- The mailbox after a completion (R339). -/
theorem complete_mailbox (m st : Nat) (r : List Nat) (s : State) :
    (complete m st r s).mailbox m =
      { s.mailbox m with data := wordsPut (s.mailbox m).data 0 r, outWords := r.length, status := st, state := 2 } := by
  unfold complete State.mailbox
  dsimp only
  split_ifs <;> simp [State.setMailbox]

/-- A reply word after a completion. -/
theorem complete_word (m st : Nat) (r : List Nat) (s : State) (k : Nat) (h : k < r.length) :
    ((complete m st r s).mailbox m).word k = r[k] % 2 ^ 64 := by
  rw [complete_mailbox]
  unfold Mailbox.word
  rw [lookD_wordsPut]
  simp [h]

/-- Posting a record changes nothing but the log and the host interface. -/
theorem postRecord_frame (r : EvtRec) (s : State) :
    postRecord r s = { s with evt := (postRecord r s).evt, host := (postRecord r s).host } := by
  unfold postRecord evtSignal
  dsimp only
  split
  · rfl
  · split
    · split
      · rfl
      · rw [sendVector_frame]
    · rfl

/-- Logging an event changes nothing but the log and the host interface. -/
theorem logEvent_frame (code cls payload : Nat) (s : State) :
    logEvent code cls payload s =
      { s with evt := (logEvent code cls payload s).evt, host := (logEvent code cls payload s).host } :=
  postRecord_frame _ s

@[simp] theorem sendVector_evt (v : Nat) (s : State) : (sendVector v s).evt = s.evt := by rw [sendVector_frame]

/-- A record posted with room in the log is its newest (R441). -/
theorem postRecord_room (r : EvtRec) (s : State) (h : s.evt.unread < 960 ∨ (2 ≤ r.cls ∧ s.evt.unread < 1008)) :
    look (postRecord r s).evt.slots s.evt.tail = some { r with seq := s.evt.nextSeq }
      ∧ (postRecord r s).evt.unread = s.evt.unread + 1 := by
  unfold postRecord evtSignal
  dsimp only
  rw [if_neg (by simp; omega)]
  split
  · split <;> simp
  · simp

/-- The log never holds more unread records than it has slots (R440, R441). -/
theorem postRecord_unread (r : EvtRec) (s : State) (h : s.evt.unread ≤ 1008) : (postRecord r s).evt.unread ≤ 1008 := by
  unfold postRecord evtSignal
  dsimp only
  split
  · exact h
  · rename_i hn
    simp at hn
    split
    · split <;> simp <;> omega
    · simp; omega

/-- A command posted in a mailbox that is ready: a wrong length is refused, else its body runs (R339, R359). -/
theorem submit_ready {s : State} {m : Nat} (h : Open s m) (op : Nat) (seq : BitVec 16) (n len : Nat)
    (body : State → State) :
    submit m op seq n len body s =
      done s (if n ≠ len then complete m ST.badPayload [] (accepted m op seq n s) else body (accepted m op seq n s)) := by
  obtain ⟨h1, h2, h3, h4, h5, h6, h7⟩ := h
  have e : (accepted m op seq n s).idState = 1 := by simp [accepted, State.setMailbox, State.idState, h4, h5]
  have e2 : ((accepted m op seq n s).mailbox m).inWords = n := by simp [accepted, State.setMailbox, State.mailbox]
  have hs : s.shellUp = true := by simp [State.shellUp, h4]
  have hm : ¬ 64 ≤ m := by omega
  simp only [submit, barAccess, State.decodes, h1, h2, h3, accept, hs, hm, h7]
  simp only [Bool.not_true, Bool.false_eq_true, Bool.and_self, if_true, if_false, Bool.not_false, decide_false,
    Bool.or_self]
  show done s (guarded m len body (accepted m op seq n s)) = _
  simp [guarded, e, e2]

@[simp] theorem accepted_word (m op : Nat) (seq : BitVec 16) (n : Nat) (s : State) (k : Nat) :
    (accepted m op seq n s).pw m k = (s.mailbox m).word k := by
  simp [accepted, State.setMailbox, State.pw, State.mailbox, Mailbox.word]

/-- Acceptance changes only the host interface. -/
theorem accepted_frame (m op : Nat) (seq : BitVec 16) (n : Nat) (s : State) :
    accepted m op seq n s = { s with host := (accepted m op seq n s).host } := rfl

/-- A command that completes on a state `u`: its next state. -/
theorem completes_with {s u : State} {m op st n : Nat} {seq : BitVec 16} {r : List Nat}
    (hm : u.mailbox m = (accepted m op seq n s).mailbox m) :
    ∃ t, done s (complete m st r u) = .next t ∧ Replied t m seq st r ∧
      t = { u with host := t.host, pending := s.pending, run := {} } := by
  refine ⟨_, rfl, ?_, ?_⟩
  · have e : ∀ u : State, ({ u with pending := s.pending, run := {} } : State).mailbox m = u.mailbox m := fun _ => rfl
    unfold Replied word
    rw [e, complete_mailbox, hm]
    refine ⟨rfl, by simp [accepted, State.setMailbox, State.mailbox], rfl, rfl, fun k hk => ?_⟩
    unfold Mailbox.word
    rw [lookD_wordsPut]
    simp [hk]
  · rw [complete_frame]

/-- A command that only completes: its next state. -/
theorem completes_next {s : State} {m op st n : Nat} {seq : BitVec 16} {r : List Nat} :
    ∃ t, done s (complete m st r (accepted m op seq n s)) = .next t ∧ Replied t m seq st r ∧ OnlyHost s t :=
  completes_with rfl

end Sys2Proof.Machine
end

