-- ==== Sys2Proof/Laws/Memory.lean ====
section
/-! SUPPORT. What each operation on device memory can do: it keeps the canonical form, and changes nothing outside
`MemoryFrame`. -/

namespace Sys2Proof.Machine

open Sys2Proof

/-- What every operation on memory keeps. -/
structure MemOp (s t : State) : Prop where
  frame : MemoryFrame s t
  msgs : OnlyMessages s.host t.host
  wf : Memory.wf s.mem = true → Memory.wf t.mem = true

theorem MemOp.refl (s : State) : MemOp s s := ⟨rfl, rfl, id⟩

theorem MemOp.trans {s t u : State} (a : MemOp s t) (b : MemOp t u) : MemOp s u := by
  refine ⟨?_, ?_, fun h => b.wf (a.wf h)⟩
  · have h1 := a.frame
    have h2 := b.frame
    unfold MemoryFrame at *
    rw [h2, h1]
  · have h1 := a.msgs
    have h2 := b.msgs
    unfold OnlyMessages at *
    rw [h2, h1]

theorem memOp_run (r : Run) (s : State) : MemOp s { s with run := r } := ⟨rfl, rfl, id⟩
theorem memOp_coh (c : Coh) (s : State) : MemOp s { s with coh := c } := ⟨rfl, rfl, id⟩
theorem memOp_mem {m : Mem} {s : State} (h : Memory.wf s.mem = true → Memory.wf m = true) : MemOp s { s with mem := m } :=
  ⟨rfl, rfl, h⟩

/-- A fold of operations on memory is one. -/
theorem MemOp.fold {α : Type} {f : State → α → State} (h : ∀ s a, MemOp s (f s a)) (l : List α) (s : State) :
    MemOp s (l.foldl f s) := by
  induction l generalizing s with
  | nil => exact MemOp.refl s
  | cons a l ih => exact (h s a).trans (ih _)

theorem deliver_msgs (h : HostIf) (v : Nat) : OnlyMessages h (h.deliver v) := by
  unfold HostIf.deliver; split_ifs <;> rfl

theorem sendVector_memOp (v : Nat) (s : State) : MemOp s (sendVector v s) := by
  unfold sendVector hostReq
  split_ifs
  · exact MemOp.refl s
  · exact ⟨rfl, deliver_msgs _ _, id⟩
  · exact ⟨rfl, rfl, id⟩

theorem postRecord_memOp (r : EvtRec) (s : State) : MemOp s (postRecord r s) := by
  unfold postRecord evtSignal
  dsimp only
  split
  · exact ⟨rfl, rfl, id⟩
  · split
    · split
      · exact ⟨rfl, rfl, id⟩
      · refine MemOp.trans ?_ (sendVector_memOp _ _)
        exact ⟨rfl, rfl, id⟩
    · exact ⟨rfl, rfl, id⟩

theorem logEvent_memOp (code cls payload : Nat) (s : State) : MemOp s (logEvent code cls payload s) :=
  postRecord_memOp _ s

theorem setCredits_memOp (g dir vc n : Nat) (s : State) : MemOp s (setCredits g dir vc n s) := ⟨rfl, rfl, id⟩

theorem takeCredits_memOp (m : FeltMsg) (s : State) : MemOp s (takeCredits m s) :=
  MemOp.fold (fun s _ => setCredits_memOp _ _ _ _ s) _ s

theorem sendFelt_memOp (m : FeltMsg) (s : State) : MemOp s (sendFelt m s) := by
  unfold sendFelt
  dsimp only
  split
  · exact ⟨rfl, rfl, id⟩
  · exact (takeCredits_memOp m s).trans (memOp_coh _ _)

theorem wf_iff (m : Mem) : Memory.wf m = true ↔
    tabWf m.bytes 0 = true ∧ tabWf m.sill 0 = true ∧ rising m.poison = true := by
  simp [Memory.wf, and_assoc]

theorem setStack_memOp (k : Nat) (f : Stack → Stack) (s : State) : MemOp s (s.setStack k f) := ⟨rfl, rfl, id⟩
theorem setL2_memOp (d : Nat) (f : L2 → L2) (s : State) : MemOp s (s.setL2 d f) := ⟨rfl, rfl, id⟩

theorem setStored_memOp (line : Nat) (m : Mark) (s : State) : MemOp s (setStored line m s) := by
  refine ⟨rfl, rfl, ?_⟩
  simp only [wf_iff, setStored]
  refine fun ⟨a, b, c⟩ => ⟨a, tabWf_putD _ _ b, ?_⟩
  split
  · exact rising_addSorted _ c
  · exact rising_filter _ c

theorem setMark_memOp (line : Nat) (m : Mark) (s : State) : MemOp s (setMark line m s) := by
  unfold setMark
  split
  · exact setStored_memOp _ _ _
  · dsimp only
    split
    · exact setL2_memOp _ _ _
    · split
      · exact setL2_memOp _ _ _
      · exact setStored_memOp _ _ _

theorem poisonLine_memOp (line : Nat) (s : State) : MemOp s (poisonLine line s) := setMark_memOp _ _ s

theorem poisonStored_memOp (k line : Nat) (s : State) : MemOp s (poisonStored k line s) := by
  unfold poisonStored
  split
  · exact MemOp.refl s
  · exact (setStored_memOp _ _ s).trans (setStack_memOp _ _ _)

theorem logMismatch_memOp (point prev kind flags addr ctx : Nat) (e c : W64) (s : State) :
    MemOp s (logMismatch point prev kind flags addr ctx e c s) := by
  unfold logMismatch
  dsimp only
  split
  · refine MemOp.trans ?_ (logEvent_memOp _ _ _ _)
    exact ⟨rfl, rfl, id⟩
  · exact ⟨rfl, rfl, id⟩

theorem verifyFor_memOp (kind ctx line point prev : Nat) (s : State) : MemOp s (verifyFor kind ctx line point prev s) := by
  unfold verifyFor
  dsimp only
  split
  · exact MemOp.refl s
  · exact (logMismatch_memOp _ _ _ _ _ _ _ _ s).trans (poisonLine_memOp _ _)

theorem verifyLine_memOp (line point prev : Nat) (s : State) : MemOp s (verifyLine line point prev s) :=
  verifyFor_memOp _ _ _ _ _ s

theorem verifyStored_memOp (k line : Nat) (s : State) : MemOp s (verifyStored k line s) := by
  unfold verifyStored
  dsimp only
  split
  · exact MemOp.refl s
  · exact (logMismatch_memOp _ _ _ _ _ _ _ _ s).trans (poisonStored_memOp _ _ _)

theorem takeStruck_memOp (line point : Nat) (s : State) : MemOp s (takeStruck line point s).2 := by
  unfold takeStruck
  dsimp only
  split
  · exact memOp_run _ s
  · exact MemOp.refl s

theorem passPoint_memOp (line : Nat) (x : Nat × W64 × Got × State) (p : Nat × Nat) :
    MemOp x.2.2.2 (passPoint line x p).2.2.2 := by
  unfold passPoint
  have h := takeStruck_memOp line p.1 x.2.2.2
  revert h
  generalize takeStruck line p.1 x.2.2.2 = z
  obtain ⟨d, t⟩ := z
  intro h
  dsimp only at *
  split
  · exact h
  · exact h.trans (logMismatch_memOp _ _ _ _ _ _ _ _ _)

/-- A line's way by points can log mismatches, and changes nothing else. -/
theorem passLine_memOp (line prev : Nat) (d : W64) (pts : List (Nat × Nat)) (g : Got) (s : State) :
    MemOp s (passLine line prev d pts g s).2 := by
  unfold passLine
  suffices ∀ x : Nat × W64 × Got × State, MemOp x.2.2.2 (pts.foldl (passPoint line) x).2.2.2 from this (prev, d, g, s)
  induction pts with
  | nil => exact fun x => MemOp.refl _
  | cons p l ih => exact fun x => (passPoint_memOp line x p).trans (ih _)

theorem passEngine_memOp (line prev src : Nat) (g : Got) (s : State) : MemOp s (passEngine line prev src g s).2 :=
  passLine_memOp _ _ _ _ _ s

theorem passOut_memOp (line dst point : Nat) (g : Got) (s : State) : MemOp s (passOut line dst point g s).2 := by
  unfold passOut
  split
  · exact passLine_memOp _ _ _ _ _ s
  · exact MemOp.refl s

theorem byEngine_memOp (die maker : Nat) (points : List (Nat × Nat)) (f : State → State) (hf : ∀ s, MemOp s (f s)) (s : State) :
    MemOp s (byEngine die maker points f s) :=
  ((memOp_run _ s).trans (hf _)).trans (memOp_run _ _)

theorem l2Drop_memOp (d key : Nat) (s : State) : MemOp s (l2Drop d key s) := by
  unfold l2Drop
  split
  · dsimp only
    split
    · exact (setL2_memOp d _ s).trans (setStored_memOp _ _ _)
    · exact setL2_memOp d _ s
  · exact MemOp.refl s

theorem l2Insert_memOp (d line age : Nat) (dirty : Bool) (m : Mark) (s : State) : MemOp s (l2Insert d line age dirty m s) := by
  unfold l2Insert
  split
  · exact ((setL2_memOp _ _ _).trans (l2Drop_memOp _ _ _)).trans (setL2_memOp _ _ _)
  · exact MemOp.refl s

theorem l2Touch_memOp (d line : Nat) (r : L2Req) (streaming : Bool) (s : State) : MemOp s (l2Touch d line r streaming s) := by
  unfold l2Touch
  dsimp only
  split
  · exact MemOp.refl s
  · split
    · exact setL2_memOp _ _ _
    · split
      · have h := (setL2_memOp d (fun z => { z with side := z.side.filter (·.1 ≠ line) }) s).trans
          (l2Insert_memOp d line (if (s.l2Of d).side.any (·.1 = line) || streaming then 3 else 2) false (s.mark line) _)
        split
        · exact h
        · exact h.trans (setL2_memOp _ _ _)
      · refine MemOp.trans (setL2_memOp d (fun z =>
          { z with side := z.side.filter (·.1 ≠ line), flight := z.flight.filter (· ≠ line) }) s) ?_
        split
        · split
          · exact setL2_memOp _ _ _
          · exact (setL2_memOp _ _ _).trans (l2Insert_memOp _ _ _ _ _ _)
        · exact l2Insert_memOp _ _ _ _ _ _

theorem l2TagLost_memOp (d line way : Nat) (s : State) : MemOp s (l2TagLost d line way s) :=
  (logEvent_memOp _ _ _ s).trans (memOp_run _ _)

theorem l2Error_memOp (d line : Nat) (m : Medium) (s : State) : MemOp s (l2Error d line m s) := by
  unfold l2Error
  split
  · exact MemOp.refl s
  · dsimp only
    split
    · exact MemOp.refl s
    · exact (setL2_memOp _ _ _).trans (logEvent_memOp _ _ _ _)
    · split
      · exact (logEvent_memOp _ _ _ _).trans (poisonLine_memOp _ _)
      · exact (l2Drop_memOp _ _ _).trans (logEvent_memOp _ _ _ _)
    · exact setMark_memOp _ _ s
    · exact l2TagLost_memOp _ _ _ s
    · exact MemOp.refl s

theorem stackUe_memOp (k line path : Nat) (s : State) : MemOp s (stackUe k line path s) := by
  unfold stackUe
  split
  · exact MemOp.refl s
  · exact (logEvent_memOp _ _ _ _).trans (poisonStored_memOp _ _ _)

theorem flipStored_memOp (line : Nat) (x : W64) (s : State) : MemOp s (flipStored line x s) := setStored_memOp _ _ s

/-- The controller's read can count, poison and report, and changes no byte. -/
theorem controllerRead_memOp (k line path : Nat) (m : Medium) (s : State) : MemOp s (controllerRead k line path m s) := by
  unfold controllerRead
  refine MemOp.trans ?_ (verifyStored_memOp _ _ _)
  split
  · exact setStack_memOp _ _ _
  · exact stackUe_memOp _ _ _ _
  · exact flipStored_memOp _ _ _
  · exact MemOp.refl s

theorem takeMedium_memOp (line : Nat) (s : State) : MemOp s (takeMedium line s).2 := by
  unfold takeMedium
  dsimp only
  split
  · exact ⟨rfl, rfl, id⟩
  · exact MemOp.refl s

theorem addPresence_memOp (line : Nat) (delta : Int) (s : State) : MemOp s (addPresence line delta s) := ⟨rfl, rfl, id⟩

theorem purgeAgents_memOp (line : Nat) (s : State) : MemOp s (purgeAgents line s) := memOp_coh _ s

theorem lineWritten_memOp (line : Nat) (s : State) : MemOp s (lineWritten line s) := by
  unfold lineWritten
  refine MemOp.trans ?_ (MemOp.fold (fun s e => sendFelt_memOp _ s) _ _)
  exact ⟨rfl, rfl, id⟩

theorem lineMerge_memOp (line : Nat) (b : List (Nat × Byte)) (s : State) : MemOp s (lineMerge line b s) := by
  refine ⟨rfl, rfl, ?_⟩
  simp only [wf_iff]
  refine fun ⟨a, b', c⟩ => ⟨?_, b', c⟩
  show tabWf (b.foldl (fun m e => putD m (line * 256 + e.1) e.2 0) s.mem.bytes) 0 = true
  generalize s.mem.bytes = m at a
  induction b generalizing m with
  | nil => exact a
  | cons f b ih => exact ih _ (tabWf_putD _ _ a)

theorem storeUnit_memOp (line : Nat) (b : List (Nat × Byte)) (poison : Bool) (s : State) :
    MemOp s (storeUnit line b poison s) := by
  unfold storeUnit
  dsimp only
  have h : MemOp s (if coversLine b then setMark line {} (lineMerge line b s) else lineMerge line b s) := by
    split
    · exact (lineMerge_memOp line b s).trans (setMark_memOp _ _ _)
    · exact lineMerge_memOp line b s
  split
  · exact h.trans (poisonLine_memOp _ _)
  · exact h

theorem homeFetch_memOp (k line path : Nat) (r : L2Req) (streaming : Bool) (s : State) :
    MemOp s (homeFetch k line path r streaming s) := by
  unfold homeFetch
  have h := takeMedium_memOp line s
  revert h
  generalize takeMedium line s = z
  obtain ⟨m, t⟩ := z
  intro h
  dsimp only at *
  have stack : ∀ m u, MemOp t u → MemOp s (l2Touch k line r streaming (controllerRead k line path m u)) :=
    fun m u hu => h.trans (hu.trans ((controllerRead_memOp _ _ _ _ _).trans (l2Touch_memOp _ _ _ _ _)))
  have serve : ∀ u, MemOp t u → MemOp s (l2Touch k line r streaming (verifyLine line (0x6000 + k) (0x7000 + k) u)) :=
    fun u hu => h.trans (hu.trans ((verifyLine_memOp _ _ _ _).trans (l2Touch_memOp _ _ _ _ _)))
  have lost : ∀ u, MemOp t u → MemOp t (match m with
      | .tagsLost w => if (t.l2Of k).enabled then l2TagLost k line w u else u
      | _ => u) := by
    intro u hu
    split
    · split
      · exact hu.trans (l2TagLost_memOp _ _ _ _)
      · exact hu
    · exact hu
  split
  · split
    · exact serve _ (l2Error_memOp _ _ _ _)
    · exact stack _ _ (l2Error_memOp _ _ _ _)
  · split
    · split
      · exact stack _ _ (setL2_memOp _ _ _)
      · exact serve _ (setMark_memOp _ _ _)
      · exact serve _ (lost _ (MemOp.refl t))
    · split
      · exact stack _ _ (lost _ (MemOp.refl t))
      · exact stack _ _ (lost _ (setL2_memOp _ _ _))

theorem holdRun_memOp (s : State) : MemOp s (holdRun s) := ⟨rfl, rfl, id⟩
theorem useRegion_memOp (r : Nat) (s : State) : MemOp s (useRegion r s) := ⟨rfl, rfl, id⟩

theorem homeWait_memOp (line : Nat) (r : L2Req) (s : State) : MemOp s (homeWait line r s) := by
  unfold homeWait
  split
  · exact MemOp.refl s
  · exact (memOp_run _ s).trans (holdRun_memOp _)

theorem passSnoop_memOp (agent k line : Nat) (e : AgentLine) (s : State) : MemOp s (passSnoop agent k line e s).2 :=
  passLine_memOp _ _ _ _ _ s

theorem homeRead_memOp (k line : Nat) (streaming : Bool) (s : State) : MemOp s (homeRead k line streaming s).2 := by
  unfold homeRead
  dsimp only
  split
  · exact (homeWait_memOp _ _ s).trans (passSnoop_memOp _ _ _ _ _)
  · exact (homeWait_memOp _ _ s).trans (homeFetch_memOp _ _ _ _ _ _)

theorem snoopOut_memOp (k line : Nat) (merge : Bool) (s : State) : MemOp s (snoopOut k line merge s) := by
  unfold snoopOut
  split
  · split
    · exact (passSnoop_memOp _ _ _ _ _).trans ((purgeAgents_memOp _ _).trans (storeUnit_memOp _ _ _ _))
    · exact purgeAgents_memOp _ s
  · exact purgeAgents_memOp _ s

theorem homeWrite_memOp (k line : Nat) (b : List (Nat × Byte)) (poison streaming : Bool) (s : State) :
    MemOp s (homeWrite k line b poison streaming s) := by
  unfold homeWrite
  dsimp only
  refine MemOp.trans ?_ (lineWritten_memOp _ _)
  refine MemOp.trans ?_ (storeUnit_memOp _ _ _ _)
  have h := (homeWait_memOp line (if coversLine b then .write else .part) s).trans (snoopOut_memOp k line (!coversLine b) _)
  revert h
  generalize snoopOut k line (!coversLine b) _ = u
  intro h
  split
  · exact h.trans (l2Touch_memOp _ _ _ _ _)
  · exact h.trans (homeFetch_memOp _ _ _ _ _ _)

theorem lineRead_memOp (line : Nat) (streaming : Bool) (s : State) : MemOp s (lineRead line streaming s).2 := by
  unfold lineRead
  split
  · exact (homeRead_memOp _ _ _ _).trans (passEngine_memOp _ _ _ _ _)
  · have h := takeMedium_memOp line s
    revert h
    generalize takeMedium line s = z
    obtain ⟨m, t⟩ := z
    intro h
    refine h.trans (MemOp.trans ?_ (passEngine_memOp _ _ _ _ _))
    refine MemOp.trans (MemOp.trans ?_ (verifyLine_memOp _ _ _ _)) (useRegion_memOp _ _)
    split
    · exact flipStored_memOp _ _ _
    · exact MemOp.refl t
  · have h := takeMedium_memOp line s
    revert h
    generalize takeMedium line s = z
    obtain ⟨m, t⟩ := z
    intro h
    refine h.trans (MemOp.trans (MemOp.trans ?_ (verifyLine_memOp _ _ _ _)) (passEngine_memOp _ _ _ _ _))
    split
    · exact poisonLine_memOp _ _
    · exact flipStored_memOp _ _ _
    · exact MemOp.refl t
  · exact MemOp.refl s

theorem lineWrite_memOp (line : Nat) (b : List (Nat × Byte)) (poison streaming : Bool) (s : State) :
    MemOp s (lineWrite line b poison streaming s) := by
  unfold lineWrite
  split
  · exact MemOp.refl s
  · dsimp only
    split
    · exact (passOut_memOp _ _ _ _ s).trans (homeWrite_memOp _ _ _ _ _ _)
    · rename_i c _
      have h := passOut_memOp line (dieOfCore c) (0x8000 + c)
        ⟨(List.range 256).map fun i => ((b.find? (·.1 = i)).map (·.2)).getD 0, poison⟩ s
      revert h
      generalize passOut line (dieOfCore c) (0x8000 + c) _ s = z
      obtain ⟨g, u⟩ := z
      intro h
      refine h.trans (MemOp.trans (MemOp.trans (t := if coversLine b then u else verifyLine line (0x8000 + c) (0x8000 + c) u) ?_
        (useRegion_memOp _ _)) (storeUnit_memOp _ _ _ _))
      split
      · exact MemOp.refl u
      · exact verifyLine_memOp _ _ _ _
    · exact (passOut_memOp _ _ _ _ s).trans (storeUnit_memOp _ _ _ _)

theorem bytesRead_memOp (a n : Nat) (streaming : Bool) (s : State) : MemOp s (bytesRead a n streaming s).2 := by
  unfold bytesRead
  dsimp only
  generalize List.range _ = l
  suffices ∀ (l : List Nat) (g : Got) (s : State), MemOp s (l.foldl (fun (acc : Got × State) i =>
      ((⟨acc.1.data ++ (lineRead (a / 256 + i) streaming acc.2).1.data,
        acc.1.poison || (lineRead (a / 256 + i) streaming acc.2).1.poison⟩ : Got),
        (lineRead (a / 256 + i) streaming acc.2).2)) (g, s)).2 from this l _ s
  intro l
  induction l with
  | nil => exact fun g s => MemOp.refl s
  | cons i l ih => exact fun g s => (lineRead_memOp _ _ _).trans (ih _ _)

theorem bytesWrite_memOp (a : Nat) (data : List Byte) (poison streaming : Bool) (s : State) :
    MemOp s (bytesWrite a data poison streaming s) := MemOp.fold (fun s _ => lineWrite_memOp _ _ _ _ s) _ s

theorem windowWake_memOp (r : Nat) (s : State) : MemOp s (windowWake r s) := by
  unfold windowWake
  split
  · exact MemOp.refl s
  · exact ⟨rfl, rfl, id⟩

theorem holdLink_memOp (crown : Bool) (ctx x y : Nat) (s : State) : MemOp s (holdLink crown ctx x y s) := memOp_run _ s

theorem accessCheck_memOp (p : Option Nat) (die eng ctx a : Nat) (u : Use) (s : State) :
    MemOp s (accessCheck p die eng ctx a u s).2 := by
  unfold accessCheck
  dsimp only
  split
  · split
    · exact logEvent_memOp _ _ _ _
    · exact MemOp.refl s
  · have h : MemOp s (if wayTo s u die (homeDie s a) = 1 then holdLink u.crown ctx die (homeDie s a) s
        else if !reqCredit s u.crown die (homeDie s a) then holdRun s else s) := by
      split
      · exact holdLink_memOp _ _ _ _ s
      · split
        · exact holdRun_memOp s
        · exact MemOp.refl s
    split
    · exact h.trans (windowWake_memOp _ _)
    · exact h

end Sys2Proof.Machine
end

