-- ==== Sys2Proof/Laws/Context.lean ====
section
/-! SUPPORT. What each operation on contexts can do: nothing outside `ContextFrame`, and a context that has stopped stays
stopped with its status. -/

namespace Sys2Proof.Machine

open Sys2Proof

/-- What the end of items and the stop of contexts may change. -/
abbrev ContextFrame (s t : State) : Prop :=
  t = { s with
    mem := t.mem, l2 := t.l2, stks := t.stks, coh := t.coh, evt := t.evt, host := t.host, mism := t.mism
    felt := { s.felt with credits := t.felt.credits, stalled := t.felt.stalled }
    pwr := { s.pwr with used := t.pwr.used }, run := t.run, hostMem := t.hostMem
    plan := { s.plan with placed := t.plan.placed, sealed_ := t.plan.sealed_ }
    ctxs := t.ctxs, faults := t.faults, fq := t.fq, tc := t.tc, ptrs := t.ptrs, cores := t.cores, atq := t.atq, proc := t.proc, hce := t.hce
    barCl := t.barCl, barDie := t.barDie }

/-- Context `c` has stopped with a status. -/
abbrev StoppedAs (s : State) (c st : Nat) : Prop := ∃ x, s.ctx c = some x ∧ x.stopped = true ∧ x.stopStatus = st

/-- What every operation on contexts keeps. -/
structure CtxOp (s t : State) : Prop where
  frame : ContextFrame s t
  msgs : OnlyMessages s.host t.host
  wf : Memory.wf s.mem = true → Memory.wf t.mem = true
  stops : ∀ c st, StoppedAs s c st → StoppedAs t c st

theorem CtxOp.refl (s : State) : CtxOp s s := ⟨rfl, rfl, id, fun _ _ h => h⟩

theorem CtxOp.trans {s t u : State} (a : CtxOp s t) (b : CtxOp t u) : CtxOp s u := by
  refine ⟨?_, ?_, fun h => b.wf (a.wf h), fun c st h => b.stops c st (a.stops c st h)⟩
  · have h1 := a.frame
    have h2 := b.frame
    unfold ContextFrame at *
    rw [h2, h1]
  · have h1 := a.msgs
    have h2 := b.msgs
    unfold OnlyMessages at *
    rw [h2, h1]

theorem CtxOp.fold {α : Type} {f : State → α → State} (h : ∀ s a, CtxOp s (f s a)) (l : List α) (s : State) :
    CtxOp s (l.foldl f s) := by
  induction l generalizing s with
  | nil => exact CtxOp.refl s
  | cons a l ih => exact (h s a).trans (ih _)

/-- An operation on memory is one on contexts. -/
theorem MemOp.ctxOp {s t : State} (h : MemOp s t) : CtxOp s t := by
  have e : t.ctxs = s.ctxs := by rw [h.frame]
  refine ⟨?_, h.msgs, h.wf, fun c st hs => ?_⟩
  · have := h.frame
    unfold MemoryFrame at this
    unfold ContextFrame
    rw [this]
  · unfold StoppedAs State.ctx at *
    rwa [e]

theorem ctx_setCtx (s : State) (c k : Nat) (f : Ctx → Ctx) :
    (s.setCtx c f).ctx k = if k = c then (s.ctx c).map f else s.ctx k := by
  unfold State.setCtx State.ctx
  split <;> rename_i h <;> split_ifs with hk
  · subst hk; simp [h]
  · simp [look_put_of_ne, hk]
  · subst hk; simp [h]
  · rfl

/-- A change of a context that keeps whether it has stopped. -/
theorem setCtx_ctxOp (s : State) (c : Nat) (f : Ctx → Ctx)
    (hf : ∀ x, (f x).stopped = x.stopped ∧ (f x).stopStatus = x.stopStatus) : CtxOp s (s.setCtx c f) := by
  refine ⟨?_, ?_, ?_, fun k st ⟨x, h1, h2, h3⟩ => ?_⟩
  · unfold State.setCtx; split <;> rfl
  · unfold State.setCtx; split <;> rfl
  · unfold State.setCtx; split <;> exact id
  · unfold StoppedAs
    rw [ctx_setCtx]
    split_ifs with hk
    · subst hk
      refine ⟨f x, by simp [h1], ?_, ?_⟩
      · rw [(hf x).1, h2]
      · rw [(hf x).2, h3]
    · exact ⟨x, h1, h2, h3⟩

theorem hostReq_ctxOp (r : HostReq) (s : State) : CtxOp s (hostReq r s) := by
  unfold hostReq
  split_ifs
  · exact CtxOp.refl s
  · cases r with
    | write a d ep ro => exact ⟨rfl, rfl, id, fun _ _ h => h⟩
    | msix v => exact ⟨rfl, deliver_msgs _ _, id, fun _ _ h => h⟩
  · exact ⟨rfl, rfl, id, fun _ _ h => h⟩

theorem sendVector_ctxOp (v : Nat) (s : State) : CtxOp s (sendVector v s) := (sendVector_memOp v s).ctxOp
theorem logEvent_ctxOp (code cls payload : Nat) (s : State) : CtxOp s (logEvent code cls payload s) :=
  (logEvent_memOp code cls payload s).ctxOp

theorem noseWrite_ctxOp (host : Bool) (c part a : Nat) (data : List Byte) (s : State) :
    CtxOp s (noseWrite host c part a data s) := by
  unfold noseWrite
  split
  · exact hostReq_ctxOp _ _
  · dsimp only
    split
    · exact ((byEngine_memOp _ _ _ _ (fun s => bytesWrite_memOp _ _ _ _ s) _).trans (memOp_run _ _)).ctxOp
    · split
      · exact logEvent_ctxOp _ _ _ _
      · exact CtxOp.refl s

theorem writeEntry_ctxOp (c : Nat) (body : List Byte) (irq : Bool) (s : State) : CtxOp s (writeEntry c body irq s) := by
  unfold writeEntry
  split
  · exact CtxOp.refl s
  · rename_i x hx
    have h : CtxOp s ((noseWrite x.cqHost c x.part (x.cqBase + x.cqTail * 128) (ringEntry body x.cqPhase) s).setCtx c fun y =>
        { y with cqTail := if x.cqTail + 1 = 2 ^ x.cqLog2 then 0 else y.cqTail + 1
                 cqPhase := if x.cqTail + 1 = 2 ^ x.cqLog2 then !y.cqPhase else y.cqPhase }) :=
      (noseWrite_ctxOp _ _ _ _ _ s).trans (setCtx_ctxOp _ c _ fun _ => ⟨rfl, rfl⟩)
    dsimp only
    split
    · exact h.trans (sendVector_ctxOp _ _)
    · exact h

theorem pumpEntries_ctxOp (c n : Nat) (s : State) : CtxOp s (pumpEntries c n s) := by
  induction n generalizing s with
  | zero => exact CtxOp.refl s
  | succ n ih =>
    unfold pumpEntries
    split
    · exact CtxOp.refl s
    · split
      · exact CtxOp.refl s
      · split
        · exact CtxOp.refl s
        · refine CtxOp.trans (CtxOp.trans ?_ (writeEntry_ctxOp _ _ _ _)) (ih _)
          exact setCtx_ctxOp _ c _ fun _ => ⟨rfl, rfl⟩

theorem postEntry_ctxOp (c : Nat) (body : List Byte) (irq : Bool) (s : State) : CtxOp s (postEntry c body irq s) := by
  unfold postEntry
  split
  · split
    · exact CtxOp.refl s
    · refine CtxOp.trans ?_ (pumpEntries_ctxOp _ _ _)
      exact setCtx_ctxOp _ c _ fun _ => ⟨rfl, rfl⟩
  · exact CtxOp.refl s

theorem notice_ctxOp (c seq status : Nat) (record detail : List Byte) (s : State) :
    CtxOp s (notice c seq status record detail s) := by
  unfold notice
  split
  · exact CtxOp.refl s
  · split <;> exact postEntry_ctxOp _ _ _ _

theorem setItem_ctxOp (c seq : Nat) (f : Item → Item) (s : State) : CtxOp s (s.setItem c seq f) :=
  setCtx_ctxOp _ c _ fun _ => ⟨rfl, rfl⟩

theorem flushItems_ctxOp (c n : Nat) (s : State) : CtxOp s (flushItems c n s) := by
  induction n generalizing s with
  | zero => exact CtxOp.refl s
  | succ n ih =>
    unfold flushItems
    split
    · exact CtxOp.refl s
    · split
      · split
        · refine CtxOp.trans (CtxOp.trans ?_ (postEntry_ctxOp _ _ _ _)) (ih _)
          exact setCtx_ctxOp _ c _ fun _ => ⟨rfl, rfl⟩
        · exact CtxOp.refl s
      · exact CtxOp.refl s

theorem look_map_key (t : Tab Ctx) (g : Nat → Ctx → Ctx) (k : Nat) :
    look (t.map fun e => (e.1, g e.1 e.2)) k = (look t k).map (g k) := by
  induction t with
  | nil => rfl
  | cons e t ih =>
    simp only [List.map_cons, look]
    split
    · rename_i h
      subst h
      rfl
    · exact ih

theorem markLapsed_ctxOp (f : Nat → Ctx → Item → Option (Nat × Nat × Nat)) (s : State) : CtxOp s (markLapsed f s) := by
  refine ⟨rfl, rfl, id, fun k st ⟨x, h1, h2, h3⟩ => ?_⟩
  unfold markLapsed StoppedAs State.ctx at *
  dsimp only
  rw [look_map_key s.ctxs fun c y => { y with items := y.items.map fun i =>
    if i.cls = 0 || i.phase = 3 then i
    else { i with lapsed := i.lapsed ++ ((f c y i).toList.filter fun m => !i.lapsed.contains m) } }, h1]
  exact ⟨_, rfl, h2, h3⟩

theorem endItem_ctxOp (c seq status : Nat) (s : State) : CtxOp s (endItem c seq status s) :=
  ((markLapsed_ctxOp _ s).trans (setItem_ctxOp _ _ _ _)).trans (flushItems_ctxOp _ _ _)

theorem leaveBarriers_ctxOp (s : State) : CtxOp s (leaveBarriers s) := ⟨rfl, rfl, id, fun _ _ h => h⟩

theorem settleMerged_ctxOp (s : State) : CtxOp s (settleMerged s) :=
  CtxOp.fold (fun s _ => CtxOp.fold (fun s _ => endItem_ctxOp _ _ _ s) _ s) _ s

theorem leavePlan_ctxOp (c seq n : Nat) (s : State) : CtxOp s (leavePlan c seq n s) := ⟨rfl, rfl, id, fun _ _ h => h⟩

theorem look_map (t : Tab Ctx) (g : Ctx → Ctx) (k : Nat) :
    look (t.map fun e => (e.1, g e.2)) k = (look t k).map g := by
  induction t with
  | nil => rfl
  | cons e t ih =>
    simp only [List.map_cons, look]
    split
    · rfl
    · exact ih

theorem orphanWaits_ctxOp (c : Nat) (i : Item) (s : State) : CtxOp s (orphanWaits c i s) := by
  unfold orphanWaits
  split
  · refine ⟨rfl, rfl, id, fun k st ⟨x, h1, h2, h3⟩ => ?_⟩
    unfold StoppedAs State.ctx at *
    dsimp only
    rw [look_map s.ctxs fun y => { y with
      items := y.items.map fun w => if w.waitsOn c i.seq then { w with orphan := true } else w }, h1]
    exact ⟨_, rfl, h2, h3⟩
  · exact CtxOp.refl s

theorem endAllItems_ctxOp (c status : Nat) (s : State) : CtxOp s (endAllItems c status s) := by
  unfold endAllItems
  split
  · exact CtxOp.refl s
  · rename_i x hx
    dsimp only
    refine CtxOp.trans ?_ (settleMerged_ctxOp _)
    refine CtxOp.trans ?_ (flushItems_ctxOp _ _ _)
    refine CtxOp.trans ?_ (setCtx_ctxOp _ c _ fun _ => ⟨rfl, rfl⟩)
    refine CtxOp.fold (fun s i => ?_) _ s
    split
    · exact (orphanWaits_ctxOp _ _ _).trans (leavePlan_ctxOp _ _ _ _)
    · exact CtxOp.refl s

theorem unstall_ctxOp (x : Stall) (s : State) : CtxOp s (unstall x s) := by
  unfold unstall
  split
  · exact CtxOp.refl s
  · split
    · exact ⟨rfl, rfl, id, fun _ _ h => h⟩
    · exact ⟨rfl, rfl, id, fun _ _ h => h⟩
    · split
      · exact ⟨rfl, rfl, id, fun _ _ h => h⟩
      · exact CtxOp.refl s
    · exact CtxOp.refl s

theorem resolveFault_ctxOp (r : FaultRec) (s : State) : CtxOp s (resolveFault r s) := by
  unfold resolveFault
  dsimp only
  generalize hm : markLapsed _ s = u
  have h0 : CtxOp s u := hm ▸ markLapsed_ctxOp _ s
  refine h0.trans ?_
  refine CtxOp.trans ?_ (CtxOp.fold (fun s x => unstall_ctxOp x s) _ _)
  exact ⟨rfl, rfl, id, fun _ _ h => h⟩

theorem leaveFaults_ctxOp (gone : Stall → Bool) (s : State) : CtxOp s (leaveFaults gone s) := by
  unfold leaveFaults
  dsimp only
  refine CtxOp.trans ?_ (CtxOp.fold (fun s r => resolveFault_ctxOp r s) _ _)
  exact ⟨rfl, rfl, id, fun _ _ h => h⟩

theorem leaveStalls_ctxOp (c : Nat) (s : State) : CtxOp s (leaveStalls c s) := by
  unfold leaveStalls
  dsimp only
  generalize hg : leaveFaults _ s = u
  have h : CtxOp s u := hg ▸ leaveFaults_ctxOp _ s
  exact h.trans ⟨rfl, rfl, id, fun _ _ h => h⟩

/-- A context stops with a status, and stays so (R103, R367). -/
theorem stopContext_stops (c st : Nat) (s : State) (x : Ctx) (hx : s.ctx c = some x) (hs : x.stopped = false) :
    StoppedAs (stopContext c st s) c st := by
  have h0 : StoppedAs (s.setCtx c fun x => { x with stopped := true, stopStatus := st }) c st := by
    unfold StoppedAs
    rw [ctx_setCtx]
    exact ⟨{ x with stopped := true, stopStatus := st }, by simp [hx], rfl, rfl⟩
  unfold stopContext
  rw [hx]
  dsimp only
  rw [hs]
  simp only [Bool.false_eq_true, if_false]
  exact (leaveBarriers_ctxOp _).stops c st
    ((leaveStalls_ctxOp c _).stops c st ((endAllItems_ctxOp c ST.contextStopped _).stops c st h0))

theorem stopContext_frame (c st : Nat) (s : State) : ContextFrame s (stopContext c st s)
    ∧ OnlyMessages s.host (stopContext c st s).host ∧ (Memory.wf s.mem = true → Memory.wf (stopContext c st s).mem = true) := by
  unfold stopContext
  split
  · exact ⟨rfl, rfl, id⟩
  · split
    · exact ⟨rfl, rfl, id⟩
    · dsimp only
      rename_i x hx _
      have e : (s.setCtx c fun x => { x with stopped := true, stopStatus := st })
          = { s with ctxs := put s.ctxs c { x with stopped := true, stopStatus := st } } := by
        unfold State.setCtx
        have : look s.ctxs c = some x := hx
        rw [this]
      rw [e]
      have h1 := (endAllItems_ctxOp c ST.contextStopped
        { s with ctxs := put s.ctxs c { x with stopped := true, stopStatus := st } }).trans (leaveStalls_ctxOp c _)
      have h2 := h1.trans (leaveBarriers_ctxOp _)
      refine ⟨?_, h2.msgs, h2.wf⟩
      have := h2.frame
      unfold ContextFrame at *
      rw [this]

end Sys2Proof.Machine
end

