-- ==== Sys2Proof/WellFormed.lean ====
section
/-! DEFINITION. Which operands a command can carry: each in the range that the interface of its row gives it. -/

namespace Sys2Proof

/-- Host addresses have 64 bits. -/
def hostOk (h : HostWrites) : Bool := h.all (·.1 < 2 ^ 64)
/-- A way number of the L2, where one is named (R227). -/
def mediumOk : Medium → Bool
  | .tagsLost way => way < 16
  | _ => true
/-- Line numbers of 42-bit device physical addresses (R6). -/
def mediaOk (md : Media) : Bool := md.all fun e => e.1 < 2 ^ 34 && mediumOk e.2
/-- A line number of a 42-bit address, and its condition. -/
def metOk (l : MetLine) : Bool := l.line < 2 ^ 34 && mediumOk l.md
/-- A whole line (R201). -/
def lineOk (data : List Byte) : Bool := data.length = 256
/-- A requester of the Felt (R246, R308). -/
def reqOk (q : Requester) : Bool :=
  q.die < 25 && q.tag < 16384 && q.cls < 3 && q.proc.all (· < 96) && q.watch.all (fun w => w.core < 1024 && w.off < 256) && q.agent.all (· < 20)
    && q.way < 16
/-- An Esrik header (R381). -/
def pktOk (p : Pkt) : Bool :=
  p.port < 16 && p.cls < 3 && p.lines ≤ 32 && p.job < 2 ^ 32 && p.src < 65536 && p.dst < 65536 && p.seq < 2 ^ 32
    && p.ack < 2 ^ 32 && p.addr < 2 ^ 64
/-- Configuration space has 4,096 bytes (R327). -/
def cfgOk : CfgReg → Bool
  | .bar i => i < 6
  | .other off => off < 4096
  | _ => true

/-- A well-formed command. -/
def Instr.wellFormed : Instr → Bool
  | .resetDevice m _ inWords => m < 64 && inWords < 128
  | .nop m _ inWords => m < 64 && inWords < 128
  | .dieInventory m _ inWords => m < 64 && inWords < 128
  | .memoryInventory m _ inWords _ => m < 64 && inWords < 128
  | .linkStatus m _ inWords => m < 64 && inWords < 128
  | .satRead m _ inWords _ => m < 64 && inWords < 128
  | .contextCreate m _ inWords => m < 64 && inWords < 128
  | .contextDestroy m _ inWords => m < 64 && inWords < 128
  | .contextQuery m _ inWords => m < 64 && inWords < 128
  | .contextStop m _ inWords => m < 64 && inWords < 128
  | .itemCancel m _ inWords => m < 64 && inWords < 128
  | .partitionCreate m _ inWords => m < 64 && inWords < 128
  | .partitionDestroy m _ inWords => m < 64 && inWords < 128
  | .partitionSet m _ inWords => m < 64 && inWords < 128
  | .aspaceCreate m _ inWords => m < 64 && inWords < 128
  | .aspaceDestroy m _ inWords => m < 64 && inWords < 128
  | .pagePin m _ inWords => m < 64 && inWords < 128
  | .pageUnpin m _ inWords => m < 64 && inWords < 128
  | .shootdown m _ inWords => m < 64 && inWords < 128
  | .shootdownDrainDone m _ => m < 64
  | .faultResume m _ inWords => m < 64 && inWords < 128
  | .faultMigrate m _ inWords => m < 64 && inWords < 128
  | .migrationCopyDone p fid h => p < 16 && fid < 2 ^ 32 && hostOk h
  | .faultAbort m _ inWords => m < 64 && inWords < 128
  | .frameRetire m _ inWords => m < 64 && inWords < 128
  | .frameUnretire m _ inWords => m < 64 && inWords < 128
  | .stackRetest m _ inWords => m < 64 && inWords < 128
  | .stackRetestDone stack bad => stack < 16 && bad.all (· < 2 ^ 42)
  | .reserveMode m _ inWords => m < 64 && inWords < 128
  | .accordRead m _ inWords _ => m < 64 && inWords < 128
  | .beatSet m _ inWords => m < 64 && inWords < 128
  | .timeSource m _ inWords => m < 64 && inWords < 128
  | .cacheInvalidateAll m _ inWords => m < 64 && inWords < 128
  | .cacheEnable m _ inWords => m < 64 && inWords < 128
  | .cacheDisable m _ inWords => m < 64 && inWords < 128
  | .cachePolicy m _ inWords => m < 64 && inWords < 128
  | .powerCap m _ inWords => m < 64 && inWords < 128
  | .smoothing m _ inWords => m < 64 && inWords < 128
  | .debugHalt m _ inWords => m < 64 && inWords < 128
  | .jobArm m _ inWords _ h => m < 64 && inWords < 128 && hostOk h
  | .jobStop m _ inWords => m < 64 && inWords < 128
  | .jobQuery m _ inWords => m < 64 && inWords < 128
  | .fwStage m _ inWords _ _ h => m < 64 && inWords < 128 && hostOk h
  | .fwUnstage m _ inWords => m < 64 && inWords < 128
  | .mbxDataWrite m k _ _ => m < 64 && k < 124
  | .timeNowLowRead => true
  | .timeNowHighRead => true
  | .timeFaultClear _ => true
  | .doorbellTail ctx _ => ctx < 2 ^ 20
  | .doorbellCqHead ctx _ => ctx < 2 ^ 20
  | .fqHeadWrite p _ => p < 16
  | .fqEnableWrite p _ => p < 16
  | .evtHeadWrite _ => true
  | .evtCfgWrite _ => true
  | .bar4WinWrite _ => true
  | .dbgRctlHalt die r _ => die < 16 && r < 4
  | .dbgRctlResume die r _ => die < 16 && r < 4
  | .dbgRctlStep die r _ _ => die < 16 && r < 4
  | .stepTimeout die r => die < 16 && r < 4
  | .dbgDataWrite die _ => die < 16
  | .i3cSyncTodWrite _ => true
  | .i3cSyncAccWrite _ => true
  | .registerWrite bar off size _ => (bar = 0 || bar = 2 || bar = 4) && off < 2 ^ 41 && (size = 1 || size = 2 || size = 4 || size = 8)
  | .bar4Read off len md => off < 2 ^ 41 && len ≤ 4096 && mediaOk md
  | .bar4Write off data md => off < 2 ^ 41 && data.length ≤ 4096 && mediaOk md
  | .pcieConfigRequest reg _ => cfgOk reg
  | .busMasterEnableWrite _ => true
  | .laneAlu c g _ => c < 1024 && g < 16
  | .laneBranch c g _ => c < 1024 && g < 16
  | .laneLoad c g _ h md => c < 1024 && g < 16 && hostOk h && mediaOk md
  | .laneStore c g _ h md => c < 1024 && g < 16 && hostOk h && mediaOk md
  | .laneAmo c g _ h md => c < 1024 && g < 16 && hostOk h && mediaOk md
  | .csrAccess c g _ => c < 1024 && g < 16
  | .mskPush c g _ => c < 1024 && g < 16
  | .mskElse c g _ => c < 1024 && g < 16
  | .mskLoop c g _ => c < 1024 && g < 16
  | .mskBrk c g _ => c < 1024 && g < 16
  | .mskPop c g _ => c < 1024 && g < 16
  | .mskBal c g _ => c < 1024 && g < 16
  | .mskAny c g _ => c < 1024 && g < 16
  | .mskAll c g _ => c < 1024 && g < 16
  | .barCl c g _ => c < 1024 && g < 16
  | .barDie c g _ => c < 1024 && g < 16
  | .dbgBrk c g _ => c < 1024 && g < 16
  | .xwGaddr c g _ => c < 1024 && g < 16
  | .grpEnd c g _ => c < 1024 && g < 16
  | .flgRel c g _ h md => c < 1024 && g < 16 && hostOk h && mediaOk md
  | .flgAcqEq c g _ h md => c < 1024 && g < 16 && hostOk h && mediaOk md
  | .flgAcqGe c g _ h md => c < 1024 && g < 16 && hostOk h && mediaOk md
  | .semRel c g _ h md => c < 1024 && g < 16 && hostOk h && mediaOk md
  | .semAcq c g _ h md => c < 1024 && g < 16 && hostOk h && mediaOk md
  | .fenceX c g _ => c < 1024 && g < 16
  | .flagReread c g md => c < 1024 && g < 16 && mediaOk md
  | .groupStall c g => c < 1024 && g < 16
  | .mxCfg c g _ => c < 1024 && g < 16
  | .mxLdt c g _ => c < 1024 && g < 16
  | .mxMma c g _ => c < 1024 && g < 16
  | .mxLda c g _ => c < 1024 && g < 16
  | .mxDrn c g _ => c < 1024 && g < 16
  | .mxTrk c g _ => c < 1024 && g < 16
  | .atSub c g _ => c < 1024 && g < 16
  | .atomiserChunk die md => die < 16 && mediaOk md
  | .atomiserDone die md => die < 16 && mediaOk md
  | .vxAdd c g _ => c < 1024 && g < 16
  | .vxSub c g _ => c < 1024 && g < 16
  | .vxMul c g _ => c < 1024 && g < 16
  | .vxFma c g _ => c < 1024 && g < 16
  | .vxDiv c g _ => c < 1024 && g < 16
  | .vxSqrt c g _ => c < 1024 && g < 16
  | .vxRcp c g _ => c < 1024 && g < 16
  | .vxRsqrt c g _ => c < 1024 && g < 16
  | .vxExp2 c g _ => c < 1024 && g < 16
  | .vxLog2 c g _ => c < 1024 && g < 16
  | .vxExp c g _ => c < 1024 && g < 16
  | .vxLog c g _ => c < 1024 && g < 16
  | .vxTanh c g _ => c < 1024 && g < 16
  | .vxSigm c g _ => c < 1024 && g < 16
  | .vxAbs c g _ => c < 1024 && g < 16
  | .vxNeg c g _ => c < 1024 && g < 16
  | .vxMax c g _ => c < 1024 && g < 16
  | .vxMin c g _ => c < 1024 && g < 16
  | .vxEq c g _ => c < 1024 && g < 16
  | .vxNe c g _ => c < 1024 && g < 16
  | .vxLt c g _ => c < 1024 && g < 16
  | .vxLe c g _ => c < 1024 && g < 16
  | .vxGt c g _ => c < 1024 && g < 16
  | .vxGe c g _ => c < 1024 && g < 16
  | .vxSel c g _ => c < 1024 && g < 16
  | .vxCvt c g _ => c < 1024 && g < 16
  | .vxRsum c g _ => c < 1024 && g < 16
  | .vxRmax c g _ => c < 1024 && g < 16
  | .vxRmin c g _ => c < 1024 && g < 16
  | .vxTr32 c g _ => c < 1024 && g < 16
  | .vxTrk c g _ => c < 1024 && g < 16
  | .vxUpd c g _ => c < 1024 && g < 16
  | .ringRead ctx h _ md => ctx < 2 ^ 20 && hostOk h && mediaOk md
  | .tornEntryReread ctx h _ md => ctx < 2 ^ 20 && hostOk h && mediaOk md
  | .admissionDecision ctx seq md => ctx < 2 ^ 20 && seq < 2 ^ 32 && mediaOk md
  | .itemStart ctx md => ctx < 2 ^ 20 && mediaOk md
  | .sliceLaunch ctx md => ctx < 2 ^ 20 && mediaOk md
  | .batchWindowExpiry ctx md => ctx < 2 ^ 20 && mediaOk md
  | .copyBlock ctx md => ctx < 2 ^ 20 && mediaOk md
  | .hostCopyPieceStart e => e < 16
  | .hostCopyPieceDone e h md => e < 16 && hostOk h && mediaOk md
  | .waitItemMatch ctx md => ctx < 2 ^ 20 && mediaOk md
  | .beatBoundary _ _ _ _ => true
  | .holdoverLimit => true
  | .guardStart => true
  | .regionWakeDone r => r < 64
  | .regionWakeFail r => r < 64
  | .rdShared q line md => reqOk q && line < 2 ^ 34 && mediumOk md
  | .rdUnique q line md => reqOk q && line < 2 ^ 34 && mediumOk md
  | .upgrade q line md => reqOk q && line < 2 ^ 34 && mediumOk md
  | .rdCur q line md => reqOk q && line < 2 ^ 34 && mediumOk md
  | .wrFull q line data _ hint md => reqOk q && line < 2 ^ 34 && lineOk data && hint.all (· < 20) && mediumOk md
  | .wrPart q line _ data _ md => reqOk q && line < 2 ^ 34 && lineOk data && mediumOk md
  | .atomic q line amo width operands md => reqOk q && line < 2 ^ 34 && amo < 32 && (width = 4 || width = 8) && operands.all (·.1 < 64) && mediumOk md
  | .lr q line md => reqOk q && line < 2 ^ 34 && mediumOk md
  | .sc q line _ data md => reqOk q && line < 2 ^ 34 && lineOk data && mediumOk md
  | .scrRd q line => reqOk q && metOk line
  | .scrWr q line _ data _ => reqOk q && metOk line && lineOk data
  | .snpQ home tag line kind _ => home < 16 && tag < 16384 && line < 2 ^ 34 && kind < 3
  | .snpShared agent line tag => agent < 20 && line < 2 ^ 34 && tag < 16384
  | .snpCur agent line tag => agent < 20 && line < 2 ^ 34 && tag < 16384
  | .snpInv agent line tag => agent < 20 && line < 2 ^ 34 && tag < 16384
  | .rspFcount line sent cleared entry _ => line < 2 ^ 34 && sent < 21 && cleared < 21 && entry < 4
  | .rspI agent line => agent < 20 && line < 2 ^ 34
  | .rspS agent line => agent < 20 && line < 2 ^ 34
  | .rspWbpend agent line buf _ => agent < 20 && line < 2 ^ 34 && buf < 64
  | .rspGrant agent line grant => agent < 20 && line < 2 ^ 34 && grant < 4
  | .rspDone die tag _ => die < 25 && tag < 16384
  | .rspErr die tag _ => die < 25 && tag < 16384
  | .dat dst src tag line grant data _ _ => dst < 25 && src < 25 && tag < 16384 && metOk line && grant < 4 && lineOk data
  | .offer agent line data _ => agent < 20 && metOk line && lineOk data
  | .wb agent line buf _ data _ => agent < 20 && metOk line && buf < 64 && lineOk data
  | .ack agent line way grant => agent < 20 && line < 2 ^ 34 && way < 16 && grant < 4
  | .ackTake agent line way => agent < 20 && line < 2 ^ 34 && way < 16
  | .ackDecline agent line => agent < 20 && line < 2 ^ 34
  | .wbAck agent buf => agent < 20 && buf < 64
  | .drop line => line < 2 ^ 34
  | .wake c line => c < 1024 && line < 2 ^ 34
  | .prefetchArrival die line md => die < 16 && line < 2 ^ 34 && mediumOk md
  | .patrolScrub line md => line < 2 ^ 34 && mediumOk md
  | .elevatedRefreshStart stack _ => stack < 16
  | .elevatedRefreshEnd stack _ => stack < 16
  | .rowRepairDone stack _ => stack < 16
  | .l2WayOff die bank way => die < 16 && bank < 32 && way < 16
  | .flitCrcFail k _ => k < 104
  | .moduleRetrain k => k < 104
  | .laneTestDone k _ _ => k < 104
  | .widthConfirm k _ _ _ => k < 104
  | .partialReset grp _ _ => grp < 40
  | .dieResetNotice die _ => die < 25
  | .heldRequestTimeout die tag => die < 25 && tag < 16384
  | .agentLost agent => agent < 20
  | .capWord die idx _ => die < 25 && idx < 8
  | .capSelect die _ _ => die < 25
  | .telemetry die _ _ => die < 25
  | .powerLimit die _ _ => die < 25
  | .reserveLinkDown => true
  | .putData p data _ md => pktOk p && data.length ≤ 8192 && mediaOk md
  | .getReq p _ md => pktOk p && mediaOk md
  | .getData p data _ md => pktOk p && data.length ≤ 8192 && mediaOk md
  | .esrikSignal p _ _ md => pktOk p && mediaOk md
  | .esrikAck p md => pktOk p && mediaOk md
  | .nak p _ _ => pktOk p
  | .coll p data _ md => pktOk p && data.length ≤ 8192 && mediaOk md
  | .arm p _ _ _ _ _ _ _ => pktOk p
  | .armAck p _ => pktOk p
  | .commit p _ => pktOk p
  | .heartbeat p _ => pktOk p
  | .esrikJobStop p _ _ => pktOk p
  | .childMissing p _ _ => pktOk p
  | .armTimeout job => job < 2 ^ 32
  | .commitDecision job => job < 2 ^ 32
  | .jobStartBeat job => job < 2 ^ 32
  | .heartbeatCheck job => job < 2 ^ 32
  | .retransmitTimeout job peer port => job < 2 ^ 32 && peer < 65536 && port < 16
  | .ackTimer job peer port => job < 2 ^ 32 && peer < 65536 && port < 16
  | .peerPathLost job peer port => job < 2 ^ 32 && peer < 65536 && port < 16
  | .portDown port => port < 16
  | .portUp port => port < 16
  | .ptpEventMessage port _ => port < 16
  | .announceTimeout => true
  | .syncPpsEdge _ => true
  | .syncLoss => true
  | .softStart _ => true
  | .governorSample _ _ _ => true
  | .droopDetect _ _ => true
  | .thermalDetect _ _ _ => true
  | .tileThermalDetect tile _ => tile < 16
  | .emergencyRelease cond kind source => cond < 4 && kind < 4 && source < 256
  | .tileFail tile => tile < 16
  | .emergencyShutdown _ _ => true
  | .powerUp _ => true
  | .perstAssert _ => true
  | .perstRelease => true
  | .resetStepDone _ => true
  | .fwFallbackTimeout => true
  | .bootFailTimeout => true
  | .noseWatchdogExpiry => true
  | .linkRecovery => true
  | .linkRecoveryEnd width rate => width ≤ 16 && rate ≤ 6
  | .hostLinkDown _ => true
  | .crownUe _ _ => true
  | .irqCoalesceTimer => true
  | .eventFlashCopy => true
  | .processorCoreAccess k _ va size _ h md => k < 96 && va < 2 ^ 64 && (size = 1 || size = 2 || size = 4 || size = 8) && va % size = 0 && hostOk h && mediumOk md
  | .engineInstructionEnd c _ md => c < 1024 && mediaOk md
  | .creditReturn grp dir vc count => grp < 40 && count < 32 && dir < 2 && vc < 6
  | .hostLinkUp width rate => width ≤ 16 && rate ≤ 6
  | .routerAdvertisement port _ _ => port < 16
  | .ptpGeneralMessage port kind _ _ _ => port < 16 && kind < 3
  | .inputBelow10V _ => true

end Sys2Proof
end

