-- ==== Sys2Proof/Tests/Slice0.lean ====
section
/-! SUPPORT. States and operands that meet the hypotheses of every obligation, an ill-formed term for each check of WellFormed,
and a few values worked by hand. -/

namespace Sys2Proof.Tests

open Sys2Proof Machine


/-! ## States that the witnesses are built from -/

/-- Mailbox-ready, with the host interface opened. -/
def hostOn : HostIf := { memEn := true, busEn := true }
def s0 : State := { State.reset with host := hostOn }
/-- Payload words, those that are 0 unlisted. -/
def payload (ws : List Nat) : Tab W64 :=
  ((List.range ws.length).zip ws).filterMap fun e => if e.2 = 0 then none else some (e.1, BitVec.ofNat 64 e.2)
/-- The host interface with a payload in mailbox 0. -/
def hostWith (ws : List Nat) : HostIf := { hostOn with mbx := [(0, { data := payload ws })] }
def mb (ws : List Nat) : State := { s0 with host := hostWith ws }
def part0 : Partition :=
  { brims := 1, procs := 1, scopedModel := false, debug := true, observe := false, migrate := true, route := 0, window := 1
    shareCrown := 16, sharePeer := 16, shareTable := 16, shareEnergy := 16, wakeUs := 100 }
def ctx0 : Ctx :=
  { asid := 1, part := 0, nonsat := false, sqHost := true, cqHost := true, headHost := true, irq := false, sqLog2 := 6, cqLog2 := 6
    sqBase := 0x1000, cqBase := 0x4000, vector := 0, watchdog := 2, headAddr := 0x8000, seed := 0, winbase := 0, store := 0 }
def item0 : Item := { seq := 1, body := List.replicate 112 0, kind := 8, cls := 1, sub := 1, target := 0, phase := 1, age := 0 }
def job0 : Job :=
  { id := 7, part := 0, lockstep := false, root := true, floor := 0, start := 4, epoch := 0, period := 200, clock := 0, self := 0
    asid := 1, members := [{ pfx := 1, serial := 0, parent := 0, parent2 := 0 }, { pfx := 1, serial := 4, parent := 0, parent2 := 0 }]
    digest := 0 }
/-- Partition 0 with address space 1, whose table stands at 2³⁰, and context 5. -/
def base (ws : List Nat) : State :=
  { mb ws with parts := [(0, part0)], aspaces := [(1, { part := 0, root := 2 ^ 30 })], ctxs := [(5, ctx0)] }
/-- Table entries of the address space: page 0 leads to stack 0's bytes from 2²⁶ on, to be read, written, fetched; page 1 to
host memory; page 2 to die 0's scratchpads. -/
def leaf (a target : Nat) : W64 := BitVec.ofNat 64 (a / 256 * 256 + target * 2 ^ 62 + 3 + 8 + 16 + 32)
def tables : List Host.Cell :=
  cellsPut (cellsPut (cellsPut [] (2 ^ 30) (leBytes 8 (2 ^ 30 + 2 ^ 17 + 1))) (2 ^ 30 + 2 ^ 17) (leBytes 8 (2 ^ 30 + 2 ^ 18 + 1)))
    (2 ^ 30 + 2 ^ 18) (leBytes 8 (leaf (2 ^ 26) 0).toNat ++ leBytes 8 (leaf (2 ^ 26) 1).toNat ++ leBytes 8 (leaf (2 ^ 40) 0).toNat)

/-! ## Witnesses: states and operands that meet the hypotheses of each statement -/

theorem witness_query : Open (mb [7]) 0 ∧
    ∃ s j, s = { mb [7] with peer := { jobs := [job0] } } ∧ Open s 0 ∧ word s 0 0 < 2 ^ 32 ∧
      s.peer.jobs.find? (·.id = word s 0 0) = some j :=
  ⟨by decide, _, job0, rfl, by decide⟩

theorem witness_context_query : ∃ x, Open (base [5]) 0 ∧ word (base [5]) 0 0 < 2 ^ 20 ∧ (base [5]).ctx (word (base [5]) 0 0) = some x ∧
    word (base [5]) 0 1 = 0 := ⟨ctx0, by decide⟩

theorem witness_host_buffer : (Open (base [0x5000]) 0 ∧ (base [0x5000]).host.canIssue = true ∧ word (base [0x5000]) 0 0 % 4096 = 0) ∧
    ∀ b ∈ [0, 2], ∃ s data, s = base [b, 1, 0x5000, 4096] ∧ Open s 0 ∧ s.host.canIssue = true ∧
      data = ((bitsOf 16 (word s 0 1)).filter fun p => (s.part p).isSome).flatMap (fun p => accordBytes s p (word s 0 0)) ∧
      word s 0 1 < 2 ^ 16 ∧ word s 0 2 % 4096 = 0 ∧ s.beat ≤ word s 0 0 + 16 ∧ word s 0 0 ≤ s.beat + 2 ∧
      s.time.gridStart ≤ word s 0 0 ∧ data.length ≤ word s 0 3 := by
  refine ⟨by decide, fun b hb => ?_⟩
  simp only [List.mem_cons, List.not_mem_nil, or_false] at hb
  rcases hb with rfl | rfl <;> exact ⟨_, _, rfl, by decide, by decide, rfl, by decide +kernel⟩

theorem witness_settings :
    (∀ k ∈ [1, 2], Open (mb [k]) 0 ∧ word (mb [k]) 0 0 < 3 ∧ (mb [k]).lockstepLive = false ∧ word (mb [k]) 0 0 ≠ (mb [k]).time.source) ∧
    (∀ w ∈ [3200, 4000], 3200 ≤ word (mb [w]) 0 0 ∧ word (mb [w]) 0 0 ≤ 4000 ∧ ∀ j ∈ (mb [w]).peer.jobs, j.lockstep = true → 3 ≤ j.state) ∧
    (∀ f ∈ [16, 230], word (mb [1 + 256 * f]) 0 0 = 1 + 256 * f) ∧ word (mb [0]) 0 0 = 0 ∧
    (∀ u ∈ [50, 2000], 50 ≤ word (mb [0, u]) 0 1 ∧ word (mb [0, u]) 0 1 ≤ 2000 ∧ word (mb [0, u]) 0 0 ≤ (mb [0, u]).time.nextBoundary ∧
      (mb [0, u]).firmPending = false ∧ (mb [0, u]).lockstepLive = false) ∧
    (Open (base [256]) 0 ∧ word (base [256]) 0 0 = 0 + 256 ∧ (base [256]).rst.capReserve ≠ 0 ∧ (base [256]).part 0 = some part0 ∧
      ∀ e ∈ (base [256]).parts, e.1 ≠ 0 → e.2.maintenance = false) := by decide

theorem witness_cache : ∀ w ∈ [0, 3], ∃ s, s = base [0, 1, w] ∧ Open s 0 ∧ word s 0 0 < 16 ∧ word s 0 1 < 2 ^ 16 ∧
    s.part (word s 0 0) = some part0 ∧ BitVec.ofNat 16 (word s 0 1) &&& part0.brims = BitVec.ofNat 16 (word s 0 1) ∧
    (∀ d < 16, (word s 0 1).testBit d = true → (s.l2Of d).enabled = false) ∧ firmItems s (word s 0 0) = [] ∧ w < 4 ∧ word s 0 2 = w ∧
    ∃ t, t = { s with l2 := [(0, { invalidated := true })] } ∧ Open t 0 ∧ t.part (word t 0 0) = some part0 ∧
      (∀ d < 16, (word t 0 1).testBit d = true → (t.l2Of d).invalidated = true) ∧ firmItems t (word t 0 0) = [] := by
  intro w hw
  simp only [List.mem_cons, List.not_mem_nil, or_false] at hw
  rcases hw with rfl | rfl <;>
    exact ⟨_, rfl, by decide, by decide, by decide, by decide, by decide, by decide, by decide, by decide, by decide, _, rfl, by decide⟩

theorem witness_debug_halt : ∀ k ∈ [0, 1], Open (base [0, 15, k]) 0 ∧ word (base [0, 15, k]) 0 0 < 16 ∧
    (base [0, 15, k]).part (word (base [0, 15, k]) 0 0) = some part0 ∧ part0.debug = true ∧
    (∀ r < 64, (word (base [0, 15, k]) 0 1).testBit r = true → part0.brims.getLsbD (r / 4) = true) ∧ word (base [0, 15, k]) 0 2 = k := by
  decide +kernel

theorem witness_create :
    (∃ s x, s = base [1 + 2 * 2 ^ 16 + 2 ^ 32 * 2, 0, 0] ∧ Open s 0 ∧ x = partPayload s 0 ∧ x.inRange = true ∧ x.brims ≠ 0 ∧
      x.brims < 2 ^ 16 ∧ x.select = 0 ∧ (x.route ≠ 2 ∧ x.flags.testBit 1 = false) ∧ s.part x.p = none ∧
      (∀ d < 16, x.brims.testBit d = true → s.dieHere d = true ∧ s.partOfBrim d = none) ∧
      (∀ d < 4, x.procs.testBit d = true → s.dieHere (16 + d) = true ∧ s.partOfProc d = none) ∧
      ∀ e ∈ (shareSums s).zip (x.shares.map fun v => if v = 0 then 16 * (bitsOf 16 x.brims).length else v), e.1 + e.2 ≤ 256) ∧
    (∃ s, s = base [4095, 2 ^ 31] ∧ Open s 0 ∧ word s 0 0 = 4095 + 0 * 2 ^ 16 ∧ look s.aspaces 4095 = none ∧ s.part 0 = some part0 ∧
      part0.fatal = false ∧ word s 0 1 % 65536 = 0 ∧ inPartMemory s 0 (word s 0 1) = true) ∧
    (∃ s a k, s = base [9 + 2 ^ 32 + 14 * 2 ^ 48 + 6 * 2 ^ 56, 0x1000, 0x4000, 6, 0x8000] ∧ Open s 0 ∧ ctxPayloadOk s 0 = true ∧
      s.ctx (fld (word s 0 0) 0 20) = none ∧ look s.aspaces (fld (word s 0 0) 32 12) = some a ∧ s.part a.part = some part0 ∧
      part0.fatal = false ∧ ((word s 0 0).testBit 49 = true ∧ (word s 0 0).testBit 50 = true ∧ (word s 0 0).testBit 51 = true) ∧
      storeFor s part0 = some k) :=
  ⟨⟨_, _, rfl, by decide, rfl, by decide +kernel⟩, ⟨_, rfl, by decide⟩, ⟨_, { part := 0, root := 2 ^ 30 }, 0, rfl, by decide +kernel⟩⟩

/-- Context 5 with two items, the first running. -/
def twoItems : Ctx := { ctx0 with items := [{ item0 with phase := 2, running := true, kind := 1 }, { item0 with seq := 2, age := 1 }] }

theorem witness_destroy :
    (∃ s, s = { base [0] with ctxs := [], aspaces := [] } ∧ Open s 0 ∧ word s 0 0 = 0 ∧ s.part 0 = some part0 ∧
      (∀ e ∈ s.ctxs, e.2.part ≠ 0) ∧ ∀ e ∈ s.aspaces, e.2.part ≠ 0) ∧
    (∃ s x, s = base [2 * 2 ^ 24 + 15 * 2 ^ 48, 0, 1000000 + 0x38 * 2 ^ 32] ∧ Open s 0 ∧ x = partPayload s 0 ∧ x.inRange = true ∧
      s.part x.p = some part0 ∧ x.procs = 0 ∧ x.brims = 0 ∧ x.shares = [0, 0, 0, 0] ∧ x.flags = 0 ∧ x.select = 0x38) ∧
    (∃ s a, s = { base [1] with ctxs := [] } ∧ Open s 0 ∧ 1 < 4096 ∧ word s 0 0 = 1 ∧ look s.aspaces 1 = some a ∧ a.pins = [] ∧
      ∀ e ∈ s.ctxs, e.2.asid ≠ 1) ∧
    (∃ s, s = base [5] ∧ Open s 0 ∧ word s 0 0 = 5 ∧ s.ctx 5 = some ctx0 ∧ ctx0.stopped = false) ∧
    (∃ s x, s = { base [5] with ctxs := [(5, { ctx0 with stopped := true })] } ∧ Open s 0 ∧ word s 0 0 = 5 ∧ s.ctx 5 = some x ∧
      x.stopped = true ∧ x.items = [] ∧ x.held = [] ∧ x.destroy = none ∧ residentGroups s 5 = false ∧
      (∀ e ∈ s.ctxs, e.2.destroy = none) ∧ tabSorted s.ctxs = true) ∧
    (∃ s i j, s = { base [5, 2] with ctxs := [(5, twoItems)] } ∧ Open s 0 ∧ word s 0 0 = 5 ∧ s.ctx 5 = some twoItems ∧
      twoItems.items = [i, j] ∧ i.phase = 2 ∧ i.seq ≠ j.seq ∧ word s 0 1 = j.seq ∧ j.seq < 2 ^ 32 ∧ j.phase = 1 ∧ j.running = false ∧
      j.cls ≠ 0 ∧ ∀ e ∈ s.ctxs, ∀ k ∈ e.2.items, k.merged = []) :=
  ⟨⟨_, rfl, by decide⟩, ⟨_, _, rfl, by decide, rfl, by decide⟩, ⟨_, _, rfl, by decide, by decide, by decide, rfl, by decide⟩,
    ⟨_, rfl, by decide⟩, ⟨_, _, rfl, by decide, by decide, rfl, by decide⟩, ⟨_, _, _, rfl, by decide, by decide, by decide, rfl, by decide⟩⟩

/-- Address space 1 with its tables in memory. -/
def mapped (ws : List Nat) : State := { base ws with mem := { bytes := tables } }

/-- A processor core's load on its way, which has its translation from page 7. -/
def pageHeld : Nat × ProcReq := (0, { op := .load, addr := 0, size := 8, v := 0, asid := 1, page := 7 })
theorem witness_pages :
    (∃ s r, s = mapped [1, 0, 1] ∧ Open s 0 ∧ pageRun s 0 = some (1, 0, 1) ∧ look s.aspaces 1 = some { part := 0, root := 2 ^ 30 } ∧
      s.part 0 = some part0 ∧ part0.fatal = false ∧ r = pinLeaves 1 0 0 1 (accepted 0 0x0301 0 3 s) ∧ r.1.isSome = true ∧
      ∀ d ∈ pinDies part0, (((r.2.tcOf d).filter (·.locked)).filter fun x => !(r.1.getD []).contains x).length + (r.1.getD []).length ≤ 16384) ∧
    (∃ s, s = base [1, 0, 8192] ∧ Open s 0 ∧ pageRun s 0 = some (1, 0, 8192) ∧ look s.aspaces 1 = some { part := 0, root := 2 ^ 30 } ∧
      pageContracted s 1 0 8192 = false ∧ (∀ v ∈ ([] : List Nat), v < 0 ∨ 0 + 8192 ≤ v) ∧ ∀ i < 8192, s.migrating 1 (0 + i) = false) ∧
    (∀ e ∈ [([], false), ([pageHeld], true)], ∃ s x, s = { base [1, 0, 8192] with shoots := [x], procReq := e.1 } ∧ s.noseUp = true ∧
      s.shoots = x :: [] ∧ x.mbx = 0 ∧ x.started = true ∧ x.destroys = false ∧ holdsLeaf s x.asid x.first x.count = e.2) :=
  ⟨⟨_, _, rfl, by decide +kernel, by decide +kernel, by decide, by decide, by decide, rfl, by decide +kernel⟩,
    ⟨_, rfl, by decide, by decide, by decide, by decide, by simp, fun i _ => rfl⟩,
    fun e he => by
      simp only [List.mem_cons, List.not_mem_nil, or_false] at he
      rcases he with rfl | rfl <;>
        exact ⟨_, { mbx := 0, asid := 1, first := 0, count := 8192, destroys := false, started := true }, rfl, by decide +kernel⟩⟩

/-- A record of a fault on page 0. -/
def fault0 : FaultRec :=
  { id := 1, part := 0, asid := 1, page := 0, va := 0x100, reason := 0x04, flags := 0, source := 0, engine := 0, status := 0, context := 5
    beat := 0, stalled := [.proc 3 5] }

theorem witness_faults :
    (∃ s, s = { mapped [0, 1, 0, 2 ^ 27, (leaf (2 ^ 27) 0).toNat] with faults := [fault0] } ∧ Open s 0 ∧ word s 0 0 = fault0.part ∧
      word s 0 1 = fault0.id ∧ (s.part fault0.part).isSome = true ∧
      s.faults.find? (fun x => x.part = fault0.part && x.id = fault0.id) = some fault0 ∧ fault0.migrating = none ∧
      fault0.reason ≠ frHostAtomic ∧ Stall.proc 3 5 ∈ fault0.stalled ∧ fault0.part < 16 ∧ fault0.id < 2 ^ 32 ∧
      (∀ x ∈ s.faults, x.part ≠ fault0.part ∨ x.id ≠ fault0.id → Stall.proc 3 5 ∉ x.stalled) ∧ fault0.stalled = [.proc 3 5] ∧
      pinsRefuse s fault0.asid fault0.page 1 = none ∧
      (word s 0 2) % 2 ^ 26 = 0 ∧ (word s 0 3) % 2 ^ 26 = 0 ∧ fld (word s 0 4) 62 2 = 0 ∧ fld (word s 0 4) 8 49 * 256 = word s 0 3 ∧
      word s 0 4 % 8 = 3 ∧ pteBad (BitVec.ofNat 64 (word s 0 4)) 3 = false ∧ part0.migrate = true ∧ inPartMemory s 0 (word s 0 3) = true ∧
      s.flash.retired.contains (word s 0 3) = false ∧
      ((look s.aspaces 1).bind fun a => levelThree (noseEngine 1 0) 0x100 a.root 2 (accepted 0 0x0305 0 5 s)).isSome = true) ∧
    (∃ s r, s = { base [0, 1] with faults := [r] } ∧ Open s 0 ∧ word s 0 0 = r.part ∧ word s 0 1 = r.id ∧
      s.faults.find? (fun x => x.part = r.part && x.id = r.id) = some r ∧ r.migrating = some { mbx := 3, host := 0, frame := 2 ^ 27, leaf := leaf (2 ^ 27) 0, next := 1024, left := 0 } ∧ s.host.canIssue = true ∧
      s.noseUp = true) :=
  ⟨⟨_, rfl, by decide +kernel⟩, ⟨_, { fault0 with migrating := some { mbx := 3, host := 0, frame := 2 ^ 27, leaf := leaf (2 ^ 27) 0, next := 1024, left := 0 } }, rfl, by decide⟩⟩

theorem witness_frames :
    (∀ a ∈ [0, 2 ^ 36 - 2 ^ 31 - 2 ^ 26], Open (base [a]) 0 ∧ word (base [a]) 0 0 = a ∧ placeOf (base [a]) a = .stack 0 ∧ a % 2 ^ 26 = 0 ∧
      deviceContracted (base [a]) (fun x => x / 2 ^ 26 = a / 2 ^ 26) = false ∧ (base [a]).flash.retired.length < 512) ∧
    (∃ s, s = { base [0] with flash := { retired := [0] } } ∧ Open s 0 ∧ word s 0 0 = 0 ∧ placeOf s 0 = .stack 0 ∧ 0 ∈ s.flash.retired) ∧
    (∃ s q, s = { base [0] with parts := [(0, q)] } ∧ Open s 0 ∧ word s 0 0 = 0 ∧ s.partOfBrim 0 = some 0 ∧ s.part 0 = some q ∧
      q.maintenance = true ∧ s.stackState 0 = 0 ∧ deviceContracted s (fun x => decide (x < 2 ^ 40) && x / 2 ^ 36 = 0) = false) ∧
    (∃ s, s = { base [0] with stks := [(15, { state := 1, retest := some 0 })] } ∧ s.noseUp = true ∧ 15 < 16 ∧ (s.stack 15).retest = some 0 ∧
      s.dieHere 15 = true) :=
  ⟨by decide +kernel, ⟨_, rfl, by decide⟩, ⟨_, { part0 with maintenance := true }, rfl, by decide⟩, ⟨_, rfl, by decide⟩⟩

/-- The two checks of an image are free: where they hold, these are states and operands for FW_STAGE. -/
theorem witness_firmware : ∀ n ∈ [65536, 2 ^ 25], Open (mb [0x5000, n]) 0 ∧ word (mb [0x5000, n]) 0 0 % 4096 = 0 ∧
    65536 ≤ word (mb [0x5000, n]) 0 1 ∧ word (mb [0x5000, n]) 0 1 ≤ 2 ^ 25 := by decide

theorem witness_refused : (Open (mb []) 0 ∧ 1 ≠ 0) ∧
    (∃ s, s = { mb [] with host := { hostOn with hostLost := true } } ∧ Decodes s ∧ s.host.hostLost = true ∧
      (s.mailbox 63).state ≠ 1 ∧ (s.mailbox 63).opcode % 2 ^ 16 ≠ 1) ∧
    (∃ s, s = { mb [] with host := { hostOn with mbx := [(63, { state := 1, opcode := 2 })] } } ∧ Decodes s ∧
      (s.mailbox 63).state = 1 ∧ (s.mailbox 63).opcode % 2 ^ 16 ≠ 1) ∧
    (∃ v : W64, v.getLsbD 63 = true ∧ v.getLsbD 31 = true ∧ v.toNat % 2 ^ 16 ≠ 1) ∧
    (∀ e ∈ [(4, 0x20), (4, 0x3FC), (8, 0x20), (8, 0x3F8)], e.2 % e.1 = 0 ∧ 0x20 ≤ e.2 ∧ e.2 < 0x400) :=
  ⟨by decide, ⟨_, rfl, by decide⟩, ⟨_, rfl, by decide⟩, ⟨0x8000000080000002#64, by decide⟩, by decide⟩

theorem witness_registers : Decodes s0 ∧ (∀ m < 64, (s0.mailbox m).state ≠ 1) ∧ (∀ p < 16, (s0.fqOf p).pending = []) := by decide

theorem witness_register_write : Decodes s0 ∧ (∀ e ∈ [(1, 8), (4, 8), (2, 4), (0, 2)], ¬ (e.2 = 8 ∧ e.1 % 8 = 0) ∧ ¬ (e.2 = 4 ∧ e.1 % 4 = 0)) ∧
    (∀ off ∈ [0, 8, 0x18, 0xFFF8, 0x30028, 0x40008, 0x51000, 0x7FFF8, 0x88000, 0xFFFFF8, 0x2000000], off % 8 = 0 ∧
      (off < 0x10 ∨ (0x18 ≤ off ∧ off < 0x10000) ∨ (0x30028 ≤ off ∧ off < 0x40010) ∨ (0x51000 ≤ off ∧ off < 0x80000)
        ∨ (0x88000 ≤ off ∧ off < 0x1000000) ∨ 0x2000000 ≤ off)) ∧
    ∀ k ∈ [0, 2047], ∃ s e, s = { s0 with host := { hostOn with msixEn := true, msix := [(k, e)] } } ∧ Decodes s ∧ k < 2048 ∧
      look s.host.msix k = some e ∧ s.host.msix = [(k, e)] ∧ e.pending = true ∧ (0#64).getLsbD 32 = false ∧ s.host.msixEn = true ∧
      s.host.msixMask = false ∧ s.host.canIssue = true ∧ s.host.hostLost = false := by
  refine ⟨by decide, by decide, by decide +kernel, fun k hk => ⟨_, { pending := true }, rfl, ?_⟩⟩
  simp only [List.mem_cons, List.not_mem_nil, or_false] at hk
  rcases hk with rfl | rfl <;> decide +kernel

theorem witness_doorbells : Decodes (base []) ∧ (base []).host.hostLost = false ∧ (base []).ctx 5 = some ctx0 ∧ ctx0.stopped = false ∧
    (∀ v ∈ [0x1003F, 0x80000000, 0x80010000], (BitVec.ofNat 64 v).toNat % 2 ^ 16 < 2 ^ ctx0.sqLog2) ∧
    (base []).ctx 6 = none ∧ 2 ^ ctx0.sqLog2 ≤ (0x40#64).toNat % 2 ^ 16 ∧ (base []).evt.unread < 960 ∧
    (∃ s x, s = { base [] with ctxs := [(5, x)] } ∧ s.ctx 5 = some x ∧ (3#64).toNat % 2 ^ 16 < 2 ^ x.cqLog2 ∧ x.held = [] ∧
      (∀ e ∈ s.ctxs, e.2.destroy = none) ∧
      ((3#64).toNat % 2 ^ 16 + 2 ^ x.cqLog2 - x.cqHead) % 2 ^ x.cqLog2 ≤ (x.cqTail + 2 ^ x.cqLog2 - x.cqHead) % 2 ^ x.cqLog2) :=
  ⟨by decide +kernel, by decide +kernel, by decide +kernel, by decide +kernel, by decide +kernel, by decide +kernel, by decide +kernel, by decide +kernel, _, { ctx0 with cqTail := 3 }, rfl, by decide +kernel⟩

theorem witness_bar4 : (∃ s a, s = base [] ∧ Decodes s ∧ a = bar4Addr s 0x1F0 ∧ placeOf s a = .stack 0 ∧ a % 256 + 16 ≤ 256 ∧
      (List.replicate 16 (0 : Byte)).length = 16 ∧ bar4Refuses s (a / 256 * 256) = false ∧ crownPath s 24 0 = 0 ∧
      homeReady (a / 256) .read s = true ∧ homeReady (a / 256) .write s = true ∧ homeReady (a / 256) .part s = true ∧
      dirtyAt s (a / 256) = none ∧ s.poisoned (a / 256) = false ∧ s.sillOf (a / 256) = 0) ∧
    (∃ s a, s = { base [] with parts := [] , host := { hostOn with win := 2 ^ 13 - 1 } } ∧ Decodes s ∧ a = bar4Addr s 0x100 ∧ a % 256 + 256 ≤ 256 ∧
      bar4Refuses s (a / 256 * 256) = true ∧ s.evt.unread < 960) :=
  ⟨⟨_, _, rfl, by decide, rfl, by decide⟩, ⟨_, _, rfl, by decide, rfl, by decide⟩⟩

theorem witness_host_link :
    (∃ s, s = { s0 with host := { hostOn with rrs := true } } ∧ s.host.linkUp = true ∧ s.host.rrs = true) ∧
    (s0.host.linkUp = true ∧ s0.host.rrs = false ∧ s0.host.held = []) ∧
    (∃ s, s = { s0 with host := { linkUp := true, held := [.write 8 [1] false false] } } ∧ s.host.linkUp = true ∧ s.host.rrs = false ∧
      s.host.hostLost = false ∧ s.host.recovery = false ∧ s.host.held = [.write 8 [1] false false]) ∧
    (∃ s, s = { s0 with host := { hostOn with recovery := true, held := [.write 8 [1] false false] } } ∧ s.host.linkUp = true ∧
      s.host.recovery = true ∧ s.host.busEn = true ∧ s.host.hostLost = false ∧ s.host.held = [.write 8 [1] false false]) ∧
    (s0.rst.step = 9 ∧ s0.ctxs = [] ∧ s0.faults = [] ∧ s0.evt.unread < 1008) :=
  ⟨⟨_, rfl, by decide⟩, by decide, ⟨_, rfl, by decide⟩, ⟨_, rfl, by decide⟩, by decide⟩

/-! ## Groups -/

/-- A word by its fields, most significant first. -/
def word7 (f7 rs2 rs1 f3 rd op : Nat) : W32 :=
  BitVec.ofNat 32 (f7 * 2 ^ 25 + rs2 * 2 ^ 20 + rs1 * 2 ^ 15 + f3 * 2 ^ 12 + rd * 2 ^ 7 + op)
/-- Lanes 0 and 1; x2 names 0x200 and 0x208, x3 holds 2 in both, x4 is 1 in lane 0 alone. -/
def grp0 : Group :=
  { pc := 0x100, active := 3, ctx := 5, seq := 1, slice := 0, xgroup := 0, cls := 1
    x := [(2, 0x200), (3, 2), (4, 1), (34, 0x208), (35, 2)] }
def running : Item :=
  { item0 with kind := 1, phase := 2, running := true, costs := [{ slots := 16, regions := 0xF, cores := 0xFFFF }] }
/-- Die 0 with group `g` in slot 0 of core 0, which runs context 5's item. -/
def lane (g : Group) : State :=
  { base [] with
    mem := { bytes := tables }, ctxs := [(5, { ctx0 with items := [running] })], cores := [(0, { groups := [(0, g)] })]
    pwr := { region := [(0, 0)] } }
/-- The state after the fetch, and whether the group may issue a word of a row there. -/
def fetched (c : Nat) (g : Group) (s : State) : State := (fetchCheck c 0 g s).2
def issuesB (c : Nat) (w : W32) (row : Row) (g : Group) (s : State) : Bool :=
  decide (readyGroup c 0 s = some g) && decide (rowOf w.toNat = some row) && (fetchCheck c 0 g s).1.isNone
    && !(fetched c g s).run.held && (fetched c g s).run.fatal.isEmpty
theorem pair_none {α β : Type} {p : Option α × β} (h : p.1.isNone = true) : p = (none, p.2) :=
  Prod.ext (Option.isNone_iff_eq_none.1 h) rfl
theorem triple_none {α β γ : Type} {p : α × Option β × γ} (h : p.2.1.isNone = true) : p = (p.1, none, p.2.2) :=
  Prod.ext rfl (pair_none h)
theorem some_of {α : Type} {o : Option α} (h : o.isSome = true) : ∃ x, o = some x := Option.isSome_iff_exists.1 h
theorem issues_of {c : Nat} {w : W32} {row : Row} {g : Group} {s : State} (h : issuesB c w row g s = true) :
    Issues c 0 w row g s (fetched c g s) := by
  simp only [issuesB, Bool.and_eq_true, decide_eq_true_eq, Bool.not_eq_true', List.isEmpty_iff] at h
  obtain ⟨⟨⟨⟨a, b⟩, d⟩, e⟩, f⟩ := h
  exact ⟨a, b, pair_none d, e, f⟩
abbrev begun (g : Group) : State := begins [] [] (lane g)
abbrev after (g : Group) : State := fetched 0 g (begun g)

def wAddi : W32 := word7 0 1 0 0 1 0x13
def wJal : W32 := 0x008000EF#32
def wBne : W32 := word7 0 0 0 1 8 0x63
def wCsr (csr rs1 f3 : Nat) : W32 := BitVec.ofNat 32 (csr * 2 ^ 20 + rs1 * 2 ^ 15 + f3 * 2 ^ 12 + 1 * 2 ^ 7 + 0x73)

theorem witness_lane_words :
    (Issues 0 0 wAddi .alu grp0 (begun grp0) (after grp0) ∧ ∀ l ∈ lanesOf grp0.active, (aluLane grp0 l wAddi.toNat).illegal = false) ∧
    (Issues 0 0 wJal .branch grp0 (begun grp0) (after grp0) ∧ grp0.active ≠ 0 ∧
      (∀ l ∈ lanesOf grp0.active, branchLane grp0 l wJal.toNat = (true, 0x108)) ∧ 0x108 % 4 = 0) ∧
    (Issues 0 0 wBne .branch grp0 (begun grp0) (after grp0) ∧ ∀ l ∈ lanesOf grp0.active, (branchLane grp0 l wBne.toNat).1 = false) ∧
    (∀ e ∈ [(3, 4, 1), (0xC02, 0, 2), (0x8C0, 3, 1), (0xC00, 0, 2)], ∃ w, w = wCsr e.1 e.2.1 e.2.2 ∧ Issues 0 0 w .csr grp0 (begun grp0) (after grp0) ∧
      ∃ old : Nat → W64, (∀ l ∈ lanesOf grp0.active, csrRead 0 grp0 l (wImm12 w.toNat) (after grp0) = some (old l)) ∧
      (wImm12 w.toNat / 0x400 = 3 → ∀ l ∈ lanesOf grp0.active, csrNew grp0 l w.toNat (old l) = none) ∧
      (wImm12 w.toNat = 0x8C0 → ∀ l ∈ lanesOf grp0.active, ∀ k ∈ lanesOf grp0.active,
        csrNew grp0 l w.toNat (old l) = csrNew grp0 k w.toNat (old k))) := by
  refine ⟨⟨issues_of (by decide +kernel), by decide +kernel⟩, ⟨issues_of (by decide +kernel), by decide +kernel⟩,
    ⟨issues_of (by decide +kernel), by decide +kernel⟩, fun e he => ⟨_, rfl, ?_⟩⟩
  have hi : ∀ e ∈ [(3, 4, 1), (0xC02, 0, 2), (0x8C0, 3, 1), (0xC00, 0, 2)], issuesB 0 (wCsr e.1 e.2.1 e.2.2) .csr grp0 (begun grp0) = true := by
    decide +kernel
  refine ⟨issues_of (hi e he), ?_⟩
  simp only [List.mem_cons, List.not_mem_nil, or_false] at he
  rcases he with rfl | rfl | rfl | rfl
  · exact ⟨fun _ => 0, by decide +kernel⟩
  · exact ⟨fun _ => 0, by decide +kernel⟩
  · exact ⟨fun _ => 3, by decide +kernel⟩
  · exact ⟨fun _ => _, fun _ _ => rfl, fun _ _ _ => rfl, fun h => absurd h (by decide)⟩

theorem witness_integer : (1#64 ≠ 0) ∧ (0#64 = 0) ∧ BitVec.allOnes 64 = 0xFFFFFFFFFFFFFFFF#64 := by decide

def wPush : W32 := word7 0 4 4 0 0 0x0B
def wElse : W32 := word7 0 4 0 1 0 0x0B
def wLoop : W32 := word7 0 4 0 2 0 0x0B
def wBrk : W32 := word7 1 0 4 3 0 0x0B
def wPop : W32 := word7 0 0 0 3 0 0x0B
/-- A group with `n` entries, the top one of a kind. -/
def deep (n : Nat) (loop : Bool) : Group := { grp0 with stack := List.replicate n { loop, addr := 0x100, outer := 3, other := 1 } }

theorem witness_mask_stack :
    (∀ n ∈ [0, 31], ∀ w ∈ [(wPush, Row.mskPush), (wLoop, Row.mskLoop)], Issues 0 0 w.1 w.2 (deep n false) (begun (deep n false)) (after (deep n false)) ∧
      (deep n false).stack.length < 32) ∧
    (Issues 0 0 wElse .mskElse (deep 1 false) (begun (deep 1 false)) (after (deep 1 false)) ∧
      ∃ e rest, (deep 1 false).stack = e :: rest ∧ e.loop = false) ∧
    (Issues 0 0 wBrk .mskBrk (deep 1 true) (begun (deep 1 true)) (after (deep 1 true)) ∧ ∃ e rest, (deep 1 true).stack = e :: rest ∧ e.loop = true) ∧
    (Issues 0 0 wPop .mskPop (deep 32 true) (begun (deep 32 true)) (after (deep 32 true)) ∧ ∃ e rest, (deep 32 true).stack = e :: rest) := by
  have hi : ∀ n ∈ [0, 31], ∀ w ∈ [(wPush, Row.mskPush), (wLoop, Row.mskLoop)],
      issuesB 0 w.1 w.2 (deep n false) (begun (deep n false)) = true ∧ (deep n false).stack.length < 32 := by decide +kernel
  exact ⟨fun n hn w hw => ⟨issues_of (hi n hn w hw).1, (hi n hn w hw).2⟩, ⟨issues_of (by decide +kernel), _, _, rfl, rfl⟩,
    ⟨issues_of (by decide +kernel), _, _, rfl, rfl⟩, issues_of (by decide +kernel), _, _, rfl⟩

theorem witness_nested : ∃ s t g h, s = lane grp0 ∧ exec (.mskPush 0 0 wPush) s = .next t ∧ s.group 0 0 = some g ∧ t.group 0 0 = some h ∧
    Nested 3 g.active g.stack ∧ Instr.mskPush 0 0 wPush ∈ [Instr.mskPush 0 0 wPush, .mskElse 0 0 wPush] := by
  obtain ⟨h, hh⟩ : ∃ h, (match exec (.mskPush 0 0 wPush) (lane grp0) with | .next t => t.group 0 0 | _ => none) = some h :=
    some_of (by decide +kernel)
  exact ⟨_, _, grp0, h, rfl, rfl, by decide, hh, by show _ ∧ _; decide, by decide⟩

def wBal (f7 : Nat) : W32 := word7 f7 0 4 3 1 0x0B
def wGaddr : W32 := word7 0 3 2 6 1 0x0B
theorem witness_ballots :
    Issues 0 0 (wBal 2) .mskBal grp0 (begun grp0) (after grp0) ∧ Issues 0 0 (wBal 3) .mskAny grp0 (begun grp0) (after grp0) ∧
    Issues 0 0 (wBal 4) .mskAll grp0 (begun grp0) (after grp0) ∧ Issues 0 0 wGaddr .xwGaddr grp0 (begun grp0) (after grp0) ∧
    (∃ x, (after grp0).ctx grp0.ctx = some x) :=
  ⟨issues_of (by decide +kernel), issues_of (by decide +kernel), issues_of (by decide +kernel), issues_of (by decide +kernel),
    some_of (by decide +kernel)⟩

/-- BAR.CL or BAR.DIE of barrier 7, with the count in x3. -/
def wBar (die : Bool) : W32 := BitVec.ofNat 32 ((if die then 15 else 7) * 2 ^ 20 + 3 * 2 ^ 15 + 4 * 2 ^ 12 + 0x0B)
/-- A group that gives the count `n`; the barrier as it stands; another group waits in slot 1. -/
def counts (n : Nat) : Group := { grp0 with x := [(3, BitVec.ofNat 64 n)] }
def atBar (b : Option Barrier) (g : Group) : State :=
  let t := (b.map fun b => [(7, b)]).getD []
  { lane g with barCl := t, barDie := t, cores := [(0, { groups := [(0, g), (1, { grp0 with wait := .barrier false 7 })] })] }
/-- A group of context 6 waits in slot 1. -/
abbrev otherBegun (b : Barrier) : State :=
  begins [] [] { atBar (some b) (counts 2) with
    ctxs := [(5, { ctx0 with items := [running] }), (6, { ctx0 with items := [running] })]
    cores := [(0, { groups := [(0, counts 2), (1, { grp0 with ctx := 6, wait := .barrier false 7 })] })] }
abbrev atBarBegun (b : Option Barrier) (n : Nat) : State := begins [] [] (atBar b (counts n))
theorem witness_barriers : ∀ die : Bool,
    let cmd := if die then Row.barDie else Row.barCl
    let full := if die then 1024 else 64
    (∀ n ∈ [2, full], Issues 0 0 (wBar die) cmd (counts n) (atBarBegun none n) (fetched 0 (counts n) (atBarBegun none n)) ∧
      n = ((counts n).ux (wRs1 (wBar die).toNat)).toNat ∧ mustFence 0 0 (fetched 0 (counts n) (atBarBegun none n)) = false ∧
      wImm12 (wBar die).toNat % 8 = 7 ∧ 2 ≤ n ∧ n ≤ full ∧
      n ≤ launchedOn (counts n) ((List.range (if die then 64 else 4)).map (0 + ·)) (fetched 0 (counts n) (atBarBegun none n))) ∧
    (∀ n ∈ [2, 3], ∃ b, b = { count := n, ctx := 5, waiting := [(0, 1)] } ∧
      Issues 0 0 (wBar die) cmd (counts n) (atBarBegun (some b) n) (fetched 0 (counts n) (atBarBegun (some b) n)) ∧
      look (if die then (fetched 0 (counts n) (atBarBegun (some b) n)).barDie else (fetched 0 (counts n) (atBarBegun (some b) n)).barCl) 7 = some b ∧
      b.ctx = (counts n).ctx ∧ (if n = 2 then b.waiting.length + 1 = n else b.waiting.length + 1 < n) ∧ b.waiting.Nodup ∧ (0, 0) ∉ b.waiting) ∧
    (∃ b x, b = { count := 2, ctx := 6, waiting := [(0, 1)] } ∧
      Issues 0 0 (wBar die) cmd (counts 2) (otherBegun b) (fetched 0 (counts 2) (otherBegun b)) ∧ b.ctx ≠ (counts 2).ctx ∧
      (fetched 0 (counts 2) (otherBegun b)).ctx 5 = some x ∧ x.stopped = false ∧
      (∀ e ∈ (fetched 0 (counts 2) (otherBegun b)).ctxs, ∀ i ∈ e.2.items, i.merged = []) ∧ b.waiting ≠ [] ∧
      ∃ y, (fetched 0 (counts 2) (otherBegun b)).group 0 1 = some y ∧ y.ctx ≠ (counts 2).ctx ∧
        (fetched 0 (counts 2) (otherBegun b)).groupLive y = true) := by
  have h1 : ∀ die : Bool, ∀ n ∈ [2, if die then 1024 else 64], issuesB 0 (wBar die) (if die then Row.barDie else Row.barCl) (counts n) (atBarBegun none n) = true ∧
      n = ((counts n).ux (wRs1 (wBar die).toNat)).toNat ∧ mustFence 0 0 (fetched 0 (counts n) (atBarBegun none n)) = false ∧
      wImm12 (wBar die).toNat % 8 = 7 ∧ 2 ≤ n ∧ n ≤ (if die then 1024 else 64) ∧
      n ≤ launchedOn (counts n) ((List.range (if die then 64 else 4)).map (0 + ·)) (fetched 0 (counts n) (atBarBegun none n)) := by decide +kernel
  have h2 : ∀ die : Bool, ∀ n ∈ [2, 3], issuesB 0 (wBar die) (if die then Row.barDie else Row.barCl) (counts n)
        (atBarBegun (some { count := n, ctx := 5, waiting := [(0, 1)] }) n) = true ∧
      look (if die then (fetched 0 (counts n) (atBarBegun (some { count := n, ctx := 5, waiting := [(0, 1)] }) n)).barDie
        else (fetched 0 (counts n) (atBarBegun (some { count := n, ctx := 5, waiting := [(0, 1)] }) n)).barCl) 7
          = some { count := n, ctx := 5, waiting := [(0, 1)] } ∧ (if n = 2 then 1 + 1 = n else 1 + 1 < n) := by decide +kernel
  have h3 : ∀ die : Bool, issuesB 0 (wBar die) (if die then Row.barDie else Row.barCl) (counts 2)
      (otherBegun { count := 2, ctx := 6, waiting := [(0, 1)] }) = true := by decide +kernel
  refine fun die => ⟨fun n hn => ⟨issues_of (h1 die n hn).1, (h1 die n hn).2⟩,
    fun n hn => ⟨_, rfl, issues_of (h2 die n hn).1, (h2 die n hn).2.1, rfl, (h2 die n hn).2.2, by simp, by simp⟩,
    ⟨_, { ctx0 with items := [running] }, rfl, issues_of (h3 die), by decide, by revert die; decide +kernel, rfl,
      by revert die; decide +kernel, by simp, { grp0 with ctx := 6, wait := .barrier false 7 }, by revert die; decide +kernel⟩⟩

/-- The three checks of a context that an exception stops. -/
theorem stops_of {s : State} {c seq : Nat} (h : (s.ctx c).any (fun x => !x.stopped) = true ∧ (s.item c seq).all (·.merged.isEmpty) = true) :
    (∃ x, s.ctx c = some x ∧ x.stopped = false) ∧ ∀ i, s.item c seq = some i → i.merged = [] := by
  obtain ⟨h1, h2⟩ := h
  constructor
  · cases hx : s.ctx c with
    | none => simp [hx] at h1
    | some x => exact ⟨x, rfl, by simpa [hx] using h1⟩
  · intro i hi; simpa [hi] using h2

def wLoad : W32 := word7 0 0 2 2 5 0x03
def wLoadOdd : W32 := word7 0 1 2 2 5 0x03
def wEnd : W32 := word7 0 0 0 7 0 0x0B
def stopsB (g : Group) : Bool :=
  ((after g).ctx 5).any (fun x => !x.stopped) && ((after g).item 5 1).all (·.merged.isEmpty)
theorem witness_exceptions :
    (readyGroup 0 0 (begun grp0) = some grp0 ∧ rowOf (0#32).toNat = none ∧ fetchCheck 0 0 grp0 (begun grp0) = (none, after grp0) ∧ Goes (after grp0)) ∧
    (∀ e ∈ [(word7 0 0 4 1 8 0x63, Row.branch, grp0), (wLoadOdd, .load, grp0), (wPush, .mskPush, deep 32 false), (wLoop, .mskLoop, deep 32 false),
        (wElse, .mskElse, deep 0 false), (wElse, .mskElse, deep 1 true), (wBrk, .mskBrk, deep 0 true), (wBrk, .mskBrk, deep 1 false),
        (wPop, .mskPop, deep 0 false), (wEnd, .grpEnd, deep 1 false)],
      Issues 0 0 e.1 e.2.1 e.2.2 (begun e.2.2) (after e.2.2) ∧
      (∃ x, (after e.2.2).ctx e.2.2.ctx = some x ∧ x.stopped = false) ∧ ∀ i, (after e.2.2).item 5 1 = some i → i.merged = []) ∧
    (∃ l ∈ lanesOf grp0.active, ∃ k ∈ lanesOf grp0.active, (branchLane grp0 l (word7 0 0 4 1 8 0x63).toNat).1 ≠ (branchLane grp0 k (word7 0 0 4 1 8 0x63).toNat).1) ∧
    (∃ l ∈ lanesOf grp0.active, (grp0.xr l (wRs1 wLoadOdd.toNat) + BitVec.ofInt 64 (immI wLoadOdd.toNat)).toNat % memSize wLoadOdd.toNat ≠ 0) := by
  have hi : ∀ e ∈ [(word7 0 0 4 1 8 0x63, Row.branch, grp0), (wLoadOdd, .load, grp0), (wPush, .mskPush, deep 32 false), (wLoop, .mskLoop, deep 32 false),
        (wElse, .mskElse, deep 0 false), (wElse, .mskElse, deep 1 true), (wBrk, .mskBrk, deep 0 true), (wBrk, .mskBrk, deep 1 false),
        (wPop, .mskPop, deep 0 false), (wEnd, .grpEnd, deep 1 false)],
      issuesB 0 e.1 e.2.1 e.2.2 (begun e.2.2) = true ∧ ((after e.2.2).ctx e.2.2.ctx).any (fun x => !x.stopped) = true ∧
        ((after e.2.2).item 5 1).all (·.merged.isEmpty) = true := by decide +kernel
  refine ⟨⟨by decide +kernel, by decide +kernel, pair_none (by decide +kernel), by decide +kernel⟩,
    fun e he => ⟨issues_of (hi e he).1, ?_⟩, by decide +kernel, by decide +kernel⟩
  have hc : e.2.2.ctx = 5 := by revert e; decide +kernel
  have := stops_of (s := after e.2.2) (c := 5) (seq := 1) ⟨hc ▸ (hi e he).2.1, (hi e he).2.2⟩
  rwa [← hc] at this ⊢

theorem load_meets {w : W32} {g : Group} (h : issuesB 0 w .load g (begun g) = true ∧
      (laneTargets 0 0 g { rd := true } (memSize w.toNat) (laneAddrs g (wRs1 w.toNat) (immI w.toNat)) (after g)).2.1.isNone = true ∧
      let p := laneTargets 0 0 g { rd := true } (memSize w.toNat) (laneAddrs g (wRs1 w.toNat) (immI w.toNat)) (after g)
      let q := loadLines 0 (linesTouched p.1) p.2.2
      Goes q.2 ∧ ∀ x ∈ p.1, (placeBytes q.1 (memSize w.toNat) q.2 x.2).poison = false) :
    ∃ ps v ls y, Issues 0 0 w .load g (begun g) (after g) ∧
      laneTargets 0 0 g { rd := true } (memSize w.toNat) (laneAddrs g (wRs1 w.toNat) (immI w.toNat)) (after g) = (ps, none, v) ∧
      loadLines 0 (linesTouched ps) v = (ls, y) ∧ Goes y ∧ ∀ p ∈ ps, (placeBytes ls (memSize w.toNat) y p.2).poison = false :=
  ⟨_, _, _, _, issues_of h.1, triple_none h.2.1, rfl, h.2.2.1, h.2.2.2⟩

/-- x2 names the core's own scratchpad, at 0x200 and 0x208. -/
def own : Group := { grp0 with x := [(2, BitVec.ofNat 64 (apertureBase + 0x200)), (3, 2), (34, BitVec.ofNat 64 (apertureBase + 0x208)), (35, 2)] }
/-- An integer load and a floating-point one, from stack memory and from the scratchpad. -/
theorem witness_loads : ∀ w ∈ [(wLoad, 0), (word7 0 0 2 3 5 0x07, 0)], ∀ g ∈ [grp0, own], ∃ ps v ls y, Issues 0 0 w.1 .load g (begun g) (after g) ∧
    laneTargets 0 0 g { rd := true } (memSize w.1.toNat) (laneAddrs g (wRs1 w.1.toNat) (immI w.1.toNat)) (after g) = (ps, none, v) ∧
    loadLines 0 (linesTouched ps) v = (ls, y) ∧ Goes y ∧ ∀ p ∈ ps, (placeBytes ls (memSize w.1.toNat) y p.2).poison = false :=
  fun w hw g hg => load_meets ((show ∀ w ∈ [(wLoad, 0), (word7 0 0 2 3 5 0x07, 0)], ∀ g ∈ [grp0, own],
    issuesB 0 w.1 .load g (begun g) = true ∧
      (laneTargets 0 0 g { rd := true } (memSize w.1.toNat) (laneAddrs g (wRs1 w.1.toNat) (immI w.1.toNat)) (after g)).2.1.isNone = true ∧
      let p := laneTargets 0 0 g { rd := true } (memSize w.1.toNat) (laneAddrs g (wRs1 w.1.toNat) (immI w.1.toNat)) (after g)
      let q := loadLines 0 (linesTouched p.1) p.2.2
      Goes q.2 ∧ ∀ x ∈ p.1, (placeBytes q.1 (memSize w.1.toNat) q.2 x.2).poison = false by decide +kernel) w hw g hg)

def wStore : W32 := word7 0 3 2 2 0 0x23
theorem witness_scratchpad : (∀ l ∈ lanesOf own.active, 0x200 + 8 * l < 2 ^ 20 ∧ (0x200 + 8 * l) % memSize wLoad.toNat = 0 ∧
      (after own).poisoned (lineOf (windowBase 0 + (0x200 + 8 * l))) = false ∧
      (after own).sillOf (lineOf (windowBase 0 + (0x200 + 8 * l))) = 0) ∧
    Issues 0 0 wLoad .load own (begun own) (after own) ∧ wOpcode wLoad.toNat = 0x03 ∧ wRd wLoad.toNat ≠ 0 ∧
    (∀ l ∈ lanesOf own.active, (own.xr l (wRs1 wLoad.toNat) + BitVec.ofInt 64 (immI wLoad.toNat)).toNat = apertureBase + (0x200 + 8 * l)) ∧
    Issues 0 0 wStore .store own (begun own) (after own) ∧ wOpcode wStore.toNat = 0x23 ∧
    (∀ l ∈ lanesOf own.active, (own.xr l (wRs1 wStore.toNat) + BitVec.ofInt 64 (immS wStore.toNat)).toNat = apertureBase + (0x200 + 8 * l)) ∧
    (∀ l ∈ lanesOf own.active, ∀ k ∈ lanesOf own.active, l ≠ k → 0x200 + 8 * l ≠ 0x200 + 8 * k) :=
  ⟨by decide +kernel, issues_of (by decide +kernel), by decide, by decide, by decide +kernel, issues_of (by decide +kernel), by decide,
    by decide +kernel, by decide +kernel⟩

/-- A line that nothing strikes reaches every point as it was. -/
theorem pass_line_clear (l : Nat) (pts : List (Nat × Nat)) (g : Got) (s : State) (h : s.run.media = []) :
    ∀ prev, passLine l prev 0 pts g s = (g, s) := by
  induction pts with
  | nil => intro prev; rfl
  | cons p t ih => intro prev; simpa [passLine, passPoint, takeStruck, h] using ih p.1
/-- A write to a scratchpad line without a mismatch holds nothing back. -/
theorem window_write_run (l c : Nat) (b : List (Nat × Byte)) (s : State) (h : placeOf s (l * 256) = .window c) (hl : 2 ^ 32 ≤ l)
    (hs : s.run.media = []) (hm : s.stored l = {}) : (lineWrite l b false false s).run = s.run := by
  have hk : s.mark l = {} := by simp only [State.mark, if_pos hl, hm]
  have hv : ∀ p q, verifyLine l p q s = s := by intro p q; simp [verifyLine, verifyFor, hk]
  have hp : ∀ d p g, passOut l d p g s = (g, s) := by
    intro d p g; unfold passOut; split
    · exact pass_line_clear l _ g s hs _
    · rfl
  unfold lineWrite
  split
  · rfl
  · simp only [h, hp, storeUnit, lineMerge, useRegion, Bool.false_eq_true, if_false, hv, ite_self]
    split
    · simp only [setMark, if_pos hl, setStored]
    · rfl

/-- AMOADD.W of x3 into x5. -/
def wAmo : W32 := word7 0 3 2 2 5 0x2F
abbrev amoTargets : List (Nat × Where) × Option LaneOut × State :=
  laneTargets 0 0 grp0 { atomic := true } (memSize wAmo.toNat) (laneAddrs grp0 (wRs1 wAmo.toNat) 0) (after grp0)
abbrev amoVals : List (Nat × Nat × W64) :=
  amoTargets.1.filterMap fun p => match p.2 with | .dev a _ => some (p.1, a, grp0.xr p.1 (wRs2 wAmo.toNat)) | _ => none
abbrev amoEnds : List (Nat × Nat × Bool) × State :=
  amoGroup (wF7 wAmo.toNat / 4) (memSize wAmo.toNat) amoVals (amoVals.foldr (fun x acc => x.2.1 :: acc.filter (· ≠ x.2.1)) [])
    (l1Leave 0 (linesTouched amoTargets.1) amoTargets.2.2)
abbrev storeTargets : List (Nat × Where) × Option LaneOut × State :=
  laneTargets 0 0 own { wr := true } (memSize wStore.toNat) (laneAddrs own (wRs1 wStore.toNat) (immS wStore.toNat)) (after own)
theorem witness_stores : (Issues 0 0 wStore .store own (begun own) (after own) ∧ storeTargets = (storeTargets.1, none, storeTargets.2.2) ∧
      (∀ p ∈ storeTargets.1, ∃ a, p.2 = .dev a true) ∧ ∀ b k, Goes (storeLines 0 b (linesTouched storeTargets.1) { storeTargets.2.2 with free := k })) ∧
    (Issues 0 0 wAmo .amo grp0 (begun grp0) (after grp0) ∧ mustFence 0 0 (after grp0) = false ∧ amoTargets = (amoTargets.1, none, amoTargets.2.2) ∧
      Goes amoEnds.2 ∧ amoEnds.1 ≠ [] ∧ ∀ o ∈ amoEnds.1, o.2.2 = false) := by
  refine ⟨⟨issues_of (by decide +kernel), triple_none (by decide +kernel), ?_, ?_⟩,
    issues_of (by decide +kernel), by decide +kernel, triple_none (by decide +kernel), by decide +kernel, by decide +kernel, by decide +kernel⟩
  · have : storeTargets.1 = [(0, .dev (windowBase 0 + 0x200) true), (1, .dev (windowBase 0 + 0x208) true)] := by decide +kernel
    rw [this]; simp
  · intro b k
    have hl : linesTouched storeTargets.1 = [lineOf (windowBase 0 + 0x200)] := by decide +kernel
    have hg : Goes storeTargets.2.2 := by decide +kernel
    have hm : storeTargets.2.2.run.media = [] := by decide +kernel
    have hs : storeTargets.2.2.stored (lineOf (windowBase 0 + 0x200)) = {} := by decide +kernel
    rw [hl]
    generalize storeTargets.2.2 = z at hg hm hs ⊢
    simp only [storeLines]
    unfold Goes State.setCore
    rw [window_write_run _ 0 _ { z with free := k } (by simp [placeOf, lineOf, windowBase]) (by decide) hm hs]
    exact hg

theorem witness_atomics : ∀ f5 ∈ [0, 0x1F], ∀ width ∈ [4, 8], (width = 4 ∨ width = 8) ∧ (List.replicate 256 (0 : Byte)).length = 256 ∧ f5 < 32 ∧
    (∀ e ∈ [(0, 1#64), (256 / width - 1, 2#64)], e.1 * width + width ≤ 256) := by decide +kernel

/-- `lane` with the 64-bit value `v` at the flag that x2 names, and what the flag's core holds. -/
def flagged (v : Nat) (k : Core) (g : Group) : State :=
  { lane g with mem := { bytes := cellsPut tables (2 ^ 26 + 0x200) (leBytes 8 v) }, cores := [(0, { k with groups := [(0, g)] })] }
def wRel : W32 := word7 3 3 2 0 0 0x2B
def wSemRel : W32 := word7 3 3 2 3 0 0x2B
def wAcq (ge : Bool) : W32 := word7 3 3 2 (if ge then 2 else 1) 5 0x2B
def wSemAcq : W32 := word7 3 3 2 4 5 0x2B
def wFence (wide : Bool) : W32 := if wide then word7 0 0 0 0 0 0x0F else word7 3 0 0 5 0 0x2B
abbrev flagRun (v : Nat) : State := begins [] [] (flagged v {} grp0)
abbrev flagAt (acc : Acc) (v : Nat) : Where × Option LaneOut × State := flagTarget 0 0 grp0 acc 0x200 (fetched 0 grp0 (flagRun v))
abbrev relEnd (v : Nat) : State := lineWrite (lineOf (2 ^ 26 + 0x200)) (atOffsets 0 (leBytes 8 2)) false false (flagAt { wr := true, flag := true } v).2.2
abbrev semEnd (acc : Acc) (f5 v : Nat) : List Nat × Bool × State := homeAtomic (lineOf (2 ^ 26 + 0x200)) f5 8 [(0, 2)] (l1Leave 0 [lineOf (2 ^ 26 + 0x200)] (flagAt acc v).2.2)
abbrev acqEnd (v : Nat) : Got × State := lineRead (lineOf (2 ^ 26 + 0x200)) false (l1Leave 0 [lineOf (2 ^ 26 + 0x200)] (flagAt { rd := true, flag := true } v).2.2)
def isAt (p : Where × Option LaneOut × State) : Bool := decide (p.1 = .dev (2 ^ 26 + 0x200) false) && p.2.1.isNone
theorem at_of {p : Where × Option LaneOut × State} (h : isAt p = true) : p = (.dev (2 ^ 26 + 0x200) false, none, p.2.2) := by
  simp only [isAt, Bool.and_eq_true, decide_eq_true_eq] at h
  exact Prod.ext h.1 (pair_none h.2)
/-- An instruction of the group in slot 0 that waits in the matrix queue. -/
def queued0 : EngOp :=
  { slot := 0, w := word7 0 3 2 0 0 0x5B, pc := 0xFC, a := 0, b := 0, ctx := 5, seq := 1, slice := 0, lanes := 3, depth := 0 }

theorem witness_flags : (grp0.ux 2).toNat = 0x200 ∧ grp0.ux 3 = 2 ∧
    (Issues 0 0 wRel .flgRel grp0 (flagRun 0) (fetched 0 grp0 (flagRun 0)) ∧ mustFence 0 0 (fetched 0 grp0 (flagRun 0)) = false ∧
      isAt (flagAt { wr := true, flag := true } 0) = true ∧ Goes (relEnd 0)) ∧
    (Issues 0 0 wSemRel .semRel grp0 (flagRun 0) (fetched 0 grp0 (flagRun 0)) ∧ isAt (flagAt { atomic := true } 0) = true ∧
      (semEnd { atomic := true } 0x1E 0).2.1 = false ∧ Goes (semEnd { atomic := true } 0x1E 0).2.2) ∧
    (∀ ge : Bool, ∀ v ∈ [1, 2], Issues 0 0 (wAcq ge) (if ge then .flgAcqGe else .flgAcqEq) grp0 (flagRun v) (fetched 0 grp0 (flagRun v)) ∧
      isAt (flagAt { rd := true, flag := true } v) = true ∧ Goes (acqEnd v).2 ∧ (acqEnd v).1.poison = false ∧ leAt (acqEnd v).1.data 0 8 = v) ∧
    (∀ v ∈ [1, 2], Issues 0 0 wSemAcq .semAcq grp0 (flagRun v) (fetched 0 grp0 (flagRun v)) ∧
      isAt (flagAt { atomic := true } v) = true ∧ (semEnd { atomic := true } 0x1F v).2.1 = false ∧
      Goes (semEnd { atomic := true } 0x1F v).2.2 ∧
      (semEnd { atomic := true } 0x1F v).1.headD 0 = v) ∧
    (∀ wide busy : Bool, ∃ s, s = begins [] [] (flagged 0 { mxq := if busy then [queued0] else [] } grp0) ∧
      Issues 0 0 (wFence wide) .fenceX grp0 s (fetched 0 grp0 s) ∧ mustFence 0 0 (fetched 0 grp0 s) = busy) := by
  have h3 : ∀ ge : Bool, ∀ v ∈ [1, 2], issuesB 0 (wAcq ge) (if ge then .flgAcqGe else .flgAcqEq) grp0 (flagRun v) = true ∧
      isAt (flagAt { rd := true, flag := true } v) = true ∧ Goes (acqEnd v).2 ∧ (acqEnd v).1.poison = false ∧ leAt (acqEnd v).1.data 0 8 = v := by
    decide +kernel
  have h4 : ∀ v ∈ [1, 2], issuesB 0 wSemAcq .semAcq grp0 (flagRun v) = true ∧
      isAt (flagAt { atomic := true } v) = true ∧ (semEnd { atomic := true } 0x1F v).2.1 = false ∧
      Goes (semEnd { atomic := true } 0x1F v).2.2 ∧
      (semEnd { atomic := true } 0x1F v).1.headD 0 = v := by decide +kernel
  have h5 : ∀ wide busy : Bool, issuesB 0 (wFence wide) .fenceX grp0 (begins [] [] (flagged 0 { mxq := if busy then [queued0] else [] } grp0)) = true ∧
      mustFence 0 0 (fetched 0 grp0 (begins [] [] (flagged 0 { mxq := if busy then [queued0] else [] } grp0))) = busy := by decide +kernel
  exact ⟨by decide, by decide, ⟨issues_of (by decide +kernel), by decide +kernel, by decide +kernel, by decide +kernel⟩,
    ⟨issues_of (by decide +kernel), by decide +kernel, by decide +kernel, by decide +kernel⟩,
    fun ge v hv => ⟨issues_of (h3 ge v hv).1, (h3 ge v hv).2⟩, fun v hv => ⟨issues_of (h4 v hv).1, (h4 v hv).2⟩,
    fun wide busy => ⟨_, rfl, issues_of (h5 wide busy).1, (h5 wide busy).2⟩⟩

/-- A group that waits on its flag for 2. -/
def waiter (ge : Bool) : Group := { grp0 with wait := .flag 0x200 2 ge 5 3 }
def wakeMsg : FeltMsg := { op := 0x35, src := 0, dst := 0, tag := 0, line := 2 ^ 18 + 2 }
abbrev waitAt (ge : Bool) (_v : Nat) (s : State) : Where × Option LaneOut × State := flagTarget 0 0 (waiter ge) { rd := true, flag := true } 0x200 s
/-- What the core reads again. -/
abbrev reread (ge : Bool) (v : Nat) (s : State) : Got × State := lineRead (lineOf (2 ^ 26 + 0x200)) false (l1Leave 0 [lineOf (2 ^ 26 + 0x200)] (waitAt ge v (begins [] [] s)).2.2)
abbrev waiting (ge : Bool) (v : Nat) : State := { flagged v {} (waiter ge) with coh := { net := [wakeMsg] } }
abbrev woken (ge : Bool) (v : Nat) : State :=
  { waiting ge v with coh := { (waiting ge v).coh with net := dropFirst (fun e => e.op = 0x35 && e.tag = 0 && e.line = 2 ^ 18 + 2) (waiting ge v).coh.net } }
theorem witness_waits : ∀ ge : Bool, ∀ v ∈ [1, 2], (waiting ge v).alive = true ∧ (waiting ge v).group 0 0 = some (waiter ge) ∧
    (waiting ge v).groupLive (waiter ge) = true ∧ (waiting ge v).regionState (regionOfCore 0) = 0 ∧ runnable (waiting ge v) 0 0 = true ∧
    isAt (waitAt ge v (begins [] [] (waiting ge v))) = true ∧ Goes (reread ge v (waiting ge v)).2 ∧ (reread ge v (waiting ge v)).1.poison = false ∧
    leAt (reread ge v (waiting ge v)).1.data 0 8 = v ∧ (∃ e ∈ (waiting ge v).coh.net, e.op = 0x35 ∧ e.tag = 0 ∧ e.line = 2 ^ 18 + 2) ∧
    (∀ j < 16, j ≠ 0 → (waiting ge v).group 0 j = none) ∧ isAt (waitAt ge v (begins [] [] (woken ge v))) = true ∧
    Goes (reread ge v (woken ge v)).2 := by decide +kernel

theorem witness_group_end : Issues 0 0 wEnd .grpEnd grp0 (begun grp0) (after grp0) ∧ grp0.stack = [] ∧ mustFence 0 0 (after grp0) = false ∧
    (∃ v, v = (after grp0).setCore 0 (fun k => { k with groups := del k.groups 0 }) ∧ sliceGroups v 5 1 0 = false ∧
      (after grp0).item 5 1 = some running ∧ running.phase = 2 ∧ running.merged = [] ∧
      ∀ e ∈ (lane grp0).ctxs, e.2.destroy = none ∧ (e.2.items.map (·.seq)).Nodup) ∧
    (∃ s v, s = { lane grp0 with cores := [(0, { groups := [(0, grp0), (1, grp0)] })] } ∧
      Issues 0 0 wEnd .grpEnd grp0 (begins [] [] s) (fetched 0 grp0 (begins [] [] s)) ∧
      v = (fetched 0 grp0 (begins [] [] s)).setCore 0 (fun k => { k with groups := del k.groups 0 }) ∧ sliceGroups v 5 1 0 = true) ∧
    (∀ n ∈ [(2, 2), (2, 1), (0, 9)], ∃ s g x, g = { grp0 with wdCount := n.2 } ∧ s = { lane g with ctxs := [(5, x)] } ∧ s.alive = true ∧
      s.group 0 0 = some g ∧ s.groupLive g = true ∧ s.ctx g.ctx = some x ∧ x.stopped = false ∧ (∀ i ∈ x.items, i.merged = []) ∧ x.watchdog = n.1) := by
  refine ⟨issues_of (by decide +kernel), by decide, by decide +kernel, ⟨_, rfl, by decide +kernel⟩,
    ⟨_, _, rfl, issues_of (by decide +kernel), rfl, by decide +kernel⟩, fun n hn => ?_⟩
  refine ⟨_, _, { ctx0 with items := [running], watchdog := n.1 }, rfl, rfl, ?_⟩
  revert n; decide +kernel

/-- Region 0 of die 0 as the debugger finds it. -/
def inDebug (z : DbgRegion) (g : Group) : State := { lane g with dbg := [(0, z)] }
theorem witness_debug : (∀ k ∈ [0, 1], ∃ s z, s = inDebug z grp0 ∧ Decodes s ∧ debugOn s 0 = true ∧ z = s.dbgOf (4 * 0 + 0) ∧ z.cause = k ∧
      (0xFF00#64).getLsbD 1 = false) ∧
    (∃ s z a, s = inDebug z grp0 ∧ Decodes s ∧ debugOn s 0 = true ∧ z = s.dbgOf 0 ∧ (0#64).getLsbD 0 = false ∧ (0#64).getLsbD 1 = false ∧
      z.cause ≠ 0 ∧ z.stepping = false ∧ s.group 0 0 = some grp0 ∧ grp0.wait = .none ∧
      a = ({ s with run := {}, dbg := putD s.dbg 0 { { z with stepCore := 0, stepGroup := 0 } with stepping := true } {} } : State).setCore 0
        (fun k => { k with mxq := k.mxq.map fun o => { o with stepped := false }, vxq := k.vxq.map fun o => { o with stepped := false } }) ∧
      Issues 0 0 wAddi .alu grp0 a (fetched 0 grp0 a) ∧ ∀ l ∈ lanesOf grp0.active, (aluLane grp0 l wAddi.toNat).illegal = false) ∧
    (∃ s z, s = inDebug z (waiter true) ∧ Decodes s ∧ debugOn s 0 = true ∧ z = s.dbgOf 0 ∧ z.stepCore < 16 ∧ z.stepping = true ∧
      s.group (16 * 0 + z.stepCore) z.stepGroup = some (waiter true) ∧ (waiter true).wait = .flag 0x200 2 true 5 3) ∧
    (∀ e ∈ [(0, 0), (0, 31), (1, 0), (2, 0), (2, 1), (2, 2), (3, 0)], ∃ s k, s = { inDebug { cause := 1 } grp0 with dbgSel := [(0, k)] } ∧ Decodes s ∧
      debugOn s 0 = true ∧ k = lookD s.dbgSel 0 {} ∧ s.group (0 * 64 + k.core) k.group = some grp0 ∧ s.halted (regionOfCore 0) = true ∧ k.lane < 32 ∧
      k.index < 32 ∧ (k.space, k.index) = e) ∧
    (∀ w ∈ [(0, 0, 0, 5, 0, 0x0B), (0, 1, 0, 0, 0, 0x73)],
      Issues 0 0 (word7 w.1 w.2.1 w.2.2.1 w.2.2.2.1 w.2.2.2.2.1 w.2.2.2.2.2) .dbgBrk grp0 (begun grp0) (after grp0) ∧
      ((after grp0).dbgOf (regionOfCore 0)).stepping = false ∧ (after grp0).halted (regionOfCore 0) = false) := by
  have h : ∀ w ∈ [(0, 0, 0, 5, 0, 0x0B), (0, 1, 0, 0, 0, 0x73)],
      issuesB 0 (word7 w.1 w.2.1 w.2.2.1 w.2.2.2.1 w.2.2.2.2.1 w.2.2.2.2.2) .dbgBrk grp0 (begun grp0) = true := by decide +kernel
  refine ⟨fun k hk => ⟨_, { cause := k }, rfl, ?_⟩,
    ⟨_, { cause := 1 }, _, rfl, by decide, by decide, by decide, by decide, by decide, by decide, by decide, by decide, by decide, rfl,
      issues_of (by decide +kernel), by decide +kernel⟩,
    ⟨_, { cause := 1, stepping := true }, rfl, by decide⟩, fun e he => ⟨_, { space := e.1, lane := 1, index := e.2 }, rfl, ?_⟩,
    fun w hw => ⟨issues_of (h w hw), by decide +kernel⟩⟩
  · revert k; decide +kernel
  · revert e; decide +kernel

/-! ### Engines -/

/-- An engine instruction's word: custom-2 or custom-3, with rs1 = x2 and rs2 = x3 where it reads them. -/
def wMx (f3 : Nat) : W32 := if f3 = 5 then word7 0 0 0 5 5 0x5B else word7 0 3 2 f3 0 0x5B
def wVx (op : Nat) : W32 := word7 op 3 2 0 0 0x7B
/-- A core whose queues hold `n` instructions. -/
def fullOf (n : Nat) : State := { lane grp0 with cores := [(0, { mxq := List.replicate n queued0, vxq := List.replicate n queued0, groups := [(0, grp0)] })] }
abbrev fullBegun (n : Nat) : State := begins [] [] (fullOf n)
def engineRows : List (W32 × Row) :=
  [(wMx 0, .mxCfg), (wMx 1, .mxLdt), (wMx 2, .mxMma), (wMx 4, .mxLda), (wMx 3, .mxDrn), (wMx 5, .mxTrk), (word7 0 0 0 1 5 0x7B, .vxTrk),
   (word7 0 3 2 2 0 0x7B, .vxUpd), (word7 0 0 2 6 5 0x5B, .atSub)] ++ ([0, 1, 2, 3, 4, 5, 6, 7, 8, 9, 10, 11, 12, 13, 14, 15, 16, 17, 18, 19, 20, 21, 22, 23, 24, 25, 0x20, 0x21, 0x22, 0x28].map
    fun op => (wVx op, Row.vx op))
/-- Die 0's Atomiser holds `n` descriptors. -/
abbrev atFullBegun (n : Nat) : State :=
  begins [] [] { lane grp0 with atq := [(0, List.replicate n
    { ticket := 1, ctx := 5, seq := 1, cls := 1, pc := 0x100, core := 0, slot := 0, lanes := 3, depth := 0, words := [] })] }
/-- Every engine instruction issues; queues with 3 and 7 instructions have room, with 4 and 8 they are full. -/
theorem witness_engine_queue : (∀ e ∈ engineRows, Issues 0 0 e.1 e.2 grp0 (begun grp0) (after grp0)) ∧
    (∀ n ∈ [3, 4], Issues 0 0 (wMx 2) .mxMma grp0 (fullBegun n) (fetched 0 grp0 (fullBegun n)) ∧ ((fetched 0 grp0 (fullBegun n)).core 0).mxq.length = n) ∧
    (∀ n ∈ [63, 64], Issues 0 0 (word7 0 0 2 6 5 0x5B) .atSub grp0 (atFullBegun n) (fetched 0 grp0 (atFullBegun n)) ∧
      (lookD (fetched 0 grp0 (atFullBegun n)).atq 0 []).length = n) ∧
    (∀ n ∈ [7, 8], Issues 0 0 (wVx 0) (.vx 0) grp0 (fullBegun n) (fetched 0 grp0 (fullBegun n)) ∧ ((fetched 0 grp0 (fullBegun n)).core 0).vxq.length = n) := by
  have h1 : ∀ e ∈ engineRows, issuesB 0 e.1 e.2 grp0 (begun grp0) = true := by decide +kernel
  have h2 : ∀ n ∈ [3, 4], issuesB 0 (wMx 2) .mxMma grp0 (fullBegun n) = true ∧ ((fetched 0 grp0 (fullBegun n)).core 0).mxq.length = n := by
    decide +kernel
  have h4 : ∀ n ∈ [63, 64], issuesB 0 (word7 0 0 2 6 5 0x5B) .atSub grp0 (atFullBegun n) = true ∧
      (lookD (fetched 0 grp0 (atFullBegun n)).atq 0 []).length = n := by decide +kernel
  have h3 : ∀ n ∈ [7, 8], issuesB 0 (wVx 0) (.vx 0) grp0 (fullBegun n) = true ∧ ((fetched 0 grp0 (fullBegun n)).core 0).vxq.length = n := by
    decide +kernel
  exact ⟨fun e he => issues_of (h1 e he), fun n hn => ⟨issues_of (h2 n hn).1, (h2 n hn).2⟩, fun n hn => ⟨issues_of (h4 n hn).1, (h4 n hn).2⟩,
    fun n hn => ⟨issues_of (h3 n hn).1, (h3 n hn).2⟩⟩

/-- Outcomes of an engine instruction. -/
def okGoes : EngRes → Bool
  | .ok v => !v.run.held && v.run.fatal.isEmpty
  | .fault _ _ => false
def faults : EngRes → Bool
  | .ok _ => false
  | .fault _ _ => true
theorem ok_of {r : EngRes} (h : okGoes r = true) : ∃ v, r = .ok v ∧ Goes v := by
  cases r with
  | ok v => simp only [okGoes, Bool.and_eq_true, Bool.not_eq_true', List.isEmpty_iff] at h; exact ⟨v, rfl, h⟩
  | fault a b => simp [okGoes] at h
theorem fault_of {r : EngRes} (h : faults r = true) : ∃ code at_, r = .fault code at_ := by
  cases r with
  | ok v => simp [faults] at h
  | fault a b => exact ⟨a, b, rfl⟩
/-- One instruction at the head of a queue, its group waiting for it or not. -/
def headOf (vec : Bool) (o : EngOp) (wait : Wait) : State :=
  { lane grp0 with cores := [(0, { mxq := if vec then [] else [o], vxq := if vec then [o] else [], groups := [(0, { grp0 with wait := wait })] })] }
abbrev enters (vec : Bool) (o : EngOp) (wait : Wait) : State :=
  useRegion (regionOfCore 0) (if vec then (begins [] [] (headOf vec o wait)).setCore 0 fun k => { k with vxq := dropFirst (· = o) k.vxq }
    else mxTake 0 o ((begins [] [] (headOf vec o wait)).setCore 0 fun k => { k with mxq := dropFirst (· = o) k.mxq }))
abbrev runs (vec : Bool) (o : EngOp) (wait : Wait) : EngRes := if vec then vxRun 0 o (enters vec o wait) else mxRun 0 o (enters vec o wait)
def opCfg : EngOp := { queued0 with w := wMx 0, a := 0x77, b := 0x300 }
def opAdd : EngOp := { queued0 with w := wVx 0, a := BitVec.ofNat 64 (0x1000 * 2 ^ 40 + 0x800 * 2 ^ 20), b := BitVec.ofNat 64 (8 + 8 * 2 ^ 28 + 8 * 2 ^ 20 + 8 * 2 ^ 16) }
def opTrk (vec : Bool) : EngOp := { queued0 with w := if vec then word7 0 0 0 1 5 0x7B else wMx 5 }
/-- The update kernel works on core 0: one element of a shard at 0x700, whose absolute value it takes. -/
def upd0 : UpdRun :=
  { prog := [0x0E, 0, 0, 0xFF, 0xFF, 0] ++ List.replicate 186 0 ++ [0, 0, 0x80, 3] ++ List.replicate 36 0 ++ [1] ++ List.replicate 23 0, key := 0
    shards := leBytes 8 0x700 ++ List.replicate 56 0 ++ leBytes 8 1 ++ List.replicate 8 0, ranges := [(0, 0, 1)] }
def updating : Item := { running with kind := 4, upd := some upd0 }
def kernelState : State := { lane grp0 with ctxs := [(5, { ctx0 with items := [updating] })] }
def nextB : LaneOut → Bool
  | .next _ v => decide (Goes v)
  | _ => false
theorem next_of {o : LaneOut} (h : nextB o = true) : ∃ g v, o = .next g v ∧ Goes v := by
  cases o with
  | next g v => exact ⟨g, v, rfl, of_decide_eq_true h⟩
  | _ => cases h
theorem witness_update_kernel : kernelState.alive = true ∧ vxNext kernelState 0 = none ∧
    kernelGroup 0 (begins [] [] kernelState) = some (0, grp0, updating, upd0) ∧
    upd0.nextBlock (((updating.costs[updating.slice]?).map Cost.coreList).getD []).length
      ((((updating.costs[updating.slice]?).map Cost.coreList).getD []).idxOf 0) = some (0, 0, 1) ∧
    ∃ h v, kernelBlock 0 0 grp0 upd0 (0, 0, 1) (begins [] [] kernelState) = .next h v ∧ Goes v :=
  ⟨by decide, by decide +kernel, by decide +kernel, by decide +kernel, next_of (by decide +kernel)⟩

theorem witness_engine_end : (lane grp0).alive = true ∧ (∀ vec : Bool, (if vec then vxNext (lane grp0) 0 else mxNext (lane grp0) 0) = none) ∧
    kernelGroup 0 (begins [] [] (lane grp0)) = none ∧ opCfg.isAt = false ∧ ({ opCfg with b := 1 } : EngOp).isAt = false ∧
    (∀ vec : Bool, ∀ wait ∈ [Wait.none, .fence], (if vec then vxNext (headOf vec (if vec then opAdd else opCfg) wait) 0
        else mxNext (headOf vec (if vec then opAdd else opCfg) wait) 0) = some (if vec then opAdd else opCfg) ∧
      ∃ v, runs vec (if vec then opAdd else opCfg) wait = .ok v ∧ Goes v) ∧
    (∀ vec : Bool, (if vec then vxNext (headOf vec (opTrk vec) (.engine vec)) 0 else mxNext (headOf vec (opTrk vec) (.engine vec)) 0) = some (opTrk vec) ∧
      (if vec then wF3 (opTrk vec).w.toNat = 1 else wF3 (opTrk vec).w.toNat = 5) ∧
      (headOf vec (opTrk vec) (.engine vec)).group 0 0 = some { grp0 with wait := .engine vec } ∧
      ((headOf vec (opTrk vec) (.engine vec)).dbgOf (regionOfCore 0)).stepping = false) ∧
    (∀ vec : Bool, ∃ o code at_ x, (if vec then vxNext (headOf vec o .none) 0 else mxNext (headOf vec o .none) 0) = some o ∧
      runs vec o .none = .fault code at_ ∧ (headOf vec o .none).ctx o.ctx = some x ∧ x.stopped = false ∧
      ∀ i, (headOf vec o .none).item o.ctx o.seq = some i → i.merged = []) := by
  have h : ∀ vec : Bool, ∀ wait ∈ [Wait.none, .fence], (if vec then vxNext (headOf vec (if vec then opAdd else opCfg) wait) 0
        else mxNext (headOf vec (if vec then opAdd else opCfg) wait) 0) = some (if vec then opAdd else opCfg) ∧
      okGoes (runs vec (if vec then opAdd else opCfg) wait) = true := by decide +kernel
  have hf : ∀ vec : Bool, (if vec then vxNext (headOf vec (if vec then { opAdd with b := 0 } else { opCfg with b := 1 }) .none) 0
        else mxNext (headOf vec (if vec then { opAdd with b := 0 } else { opCfg with b := 1 }) .none) 0) = some (if vec then { opAdd with b := 0 } else { opCfg with b := 1 }) ∧
      faults (runs vec (if vec then { opAdd with b := 0 } else { opCfg with b := 1 }) .none) = true := by decide +kernel
  refine ⟨by decide, by decide +kernel, by decide +kernel, by decide, by decide, fun vec wait hw => ⟨(h vec wait hw).1, ok_of (h vec wait hw).2⟩, by decide +kernel, fun vec => ?_⟩
  have hx : (headOf vec (if vec then { opAdd with b := 0 } else { opCfg with b := 1 }) .none).ctx
      (if vec then { opAdd with b := 0 } else { opCfg with b := 1 } : EngOp).ctx = some { ctx0 with items := [running] } := by
    revert vec; decide +kernel
  have hi : (headOf vec (if vec then { opAdd with b := 0 } else { opCfg with b := 1 }) .none).item
      (if vec then { opAdd with b := 0 } else { opCfg with b := 1 } : EngOp).ctx
      (if vec then { opAdd with b := 0 } else { opCfg with b := 1 } : EngOp).seq = some running := by
    revert vec; decide +kernel
  obtain ⟨code, at_, e⟩ := fault_of (hf vec).2
  refine ⟨_, code, at_, { ctx0 with items := [running] }, (hf vec).1, e, hx, rfl, fun i h => ?_⟩
  rw [hi] at h
  cases h; rfl

theorem witness_matrix : (∀ b ∈ [0, 2 ^ 20 - 139520], (0x77#64).toNat < 256 ∧ pairOk ((0x77#64).toNat % 16) ((0x77#64).toNat / 16) = true ∧
      (BitVec.ofNat 64 b).toNat % 256 = 0 ∧ (BitVec.ofNat 64 b).toNat % 2 ^ 20 + 139520 ≤ 2 ^ 20) ∧
    (∀ off ∈ [0, 2 ^ 20 - 31 * 64 - 64], ∃ s, s = { lane grp0 with cores := [(1023, { mx := { configured := true, word := 0x77 } })] } ∧
      (s.core 1023).mx.configured = true ∧ off = (BitVec.ofNat 64 off).toNat % 2 ^ 20 ∧ (64#64).toNat = 64 ∧
      rowsBad off 64 32 (rowBytes ((s.core 1023).mx.word.toNat % 16)) = none ∧ s.run.media = [] ∧ s.mem.poison = [] ∧ s.mem.sill = []) ∧
    [1, 2, 3, 4].length = 2 * 2 := by
  refine ⟨by decide +kernel, fun off ho => ⟨_, rfl, ?_⟩, rfl⟩
  revert off; decide +kernel

theorem witness_vector : ∀ op ∈ [0, 3, 0x0E], ∀ n ∈ [1, 64], ∃ o : EngOp, o.a.toNat = (if 2 ≤ vxSources op then 0x400 else 0) * 2 ^ 40 + 0x200 * 2 ^ 20 + (2 ^ 20 - 256) ∧
    op ≤ 0x19 ∧ 1 ≤ n ∧ n ≤ 64 ∧ o.b.toNat = n + 8 * 2 ^ 28 + 8 * 2 ^ 16 + (if 2 ≤ vxSources op then 8 * 2 ^ 20 else 0)
      + (if vxSources op = 3 then 8 * 2 ^ 24 + 0x600 * 2 ^ 44 else 0) ∧
    (∀ x ∈ [2 ^ 20 - 256, 0x200, 0x400, 0x600], x % 8 = 0 ∧ x + 4 * n ≤ 2 ^ 20) ∧ (lane grp0).run.media = [] ∧ (lane grp0).mem.poison = [] ∧
    (lane grp0).mem.sill = [] := by
  intro op ho n hn
  refine ⟨{ queued0 with
    a := BitVec.ofNat 64 ((if 2 ≤ vxSources op then 0x400 else 0) * 2 ^ 40 + 0x200 * 2 ^ 20 + (2 ^ 20 - 256))
    b := BitVec.ofNat 64 (n + 8 * 2 ^ 28 + 8 * 2 ^ 16 + (if 2 ≤ vxSources op then 8 * 2 ^ 20 else 0)
      + (if vxSources op = 3 then 8 * 2 ^ 24 + 0x600 * 2 ^ 44 else 0)) }, ?_⟩
  revert op n; decide +kernel

/-- A descriptor of one row, one K-chunk and one N-chunk: weights at 0x1000, activations at 0x4000, output at 0x5000. -/
def descWords : List W64 := [0x1000, 0x4000, 0x5000, 0x200, 0, 0x100000001, 0, 0x100000000]
def wSub : W32 := word7 0 0 2 6 5 0x5B
/-- An AT.SUB at the head of the matrix queue, its group waiting for the ticket. -/
def opSub : EngOp := { queued0 with w := wSub, pc := 0x100, a := 0x200 }
def atMem : State :=
  { lane grp0 with
    mem := { bytes := cellsPut tables (2 ^ 26 + 0x200) (descWords.flatMap fun w => leBytes 8 w.toNat) }
    cores := [(0, { mxq := [opSub], groups := [(0, { grp0 with wait := .engine false })] })] }
abbrev atBegun : State := begins [] [] atMem
abbrev atReach : Reach × State := reachRange (atSubEngine 0 opSub atBegun) { rd := true } 0x200 64 {} atBegun
abbrev atRead : Got × State := reachRead true atReach.1.at_ atReach.2
abbrev atPages : List (Nat × Nat × Nat) × Option Nat × Bool × State :=
  atWeights (atSubEngine 0 opSub atBegun) 0 0x1000 (pagesOf 0x1000 (1 * 1 * tileBytes 0)) atRead.2
def desc0 : AtDesc :=
  { ticket := 1, ctx := 5, seq := 1, cls := 1, pc := 0x100, core := 0, slot := 0, lanes := 3, depth := 0, words := descWords }
def atWork (d : AtDesc) : State := { atMem with atq := [(0, [d])], ticket := [(0, 1)] }
abbrev doneReach : Reach × State :=
  reachPiece (descEngine 0 { desc0 with nc := 1 } (begins [] [] (atWork { desc0 with nc := 1 }))) { wr := true, flag := true } (0x200, 8) {}
    (begins [] [] (atWork { desc0 with nc := 1 }))
theorem witness_atomiser_submit : atMem.alive = true ∧ mxNext atMem 0 = some opSub ∧ opSub.isAt = true ∧
    atMem.group 0 0 = some { grp0 with wait := .engine false } ∧ atMem.groupLive { grp0 with wait := .engine false } = true ∧
    atMem.stalledOn (.group 0 0) = false ∧ (lookD atMem.atq 0 []).length < 64 ∧ opSub.a.toNat % 64 = 0 ∧ atReach.1.faults = [] ∧ atReach.1.bad = none ∧
    descWords = (List.range 8).map (fun i => BitVec.ofNat 64 (leAt atRead.1.data (8 * i) 8)) ∧ atBad descWords = none ∧
    atField descWords 0 8 = 0x1000 ∧ atField descWords 40 4 * atField descWords 44 4 * tileBytes (atField descWords 61 1 % 16) = 1 * 1 * tileBytes 0 ∧
    atPages.1 = [] ∧ atPages.2.1 = none ∧ atPages.2.2.1 = true ∧ Goes atPages.2.2.2 := by decide +kernel
theorem witness_atomiser_done : (∃ s d, d = { desc0 with nc := 1 } ∧ s = atWork d ∧ s.alive = true ∧ lookD s.atq 0 [] = [d] ∧ d.stalled = false ∧
      d.nChunks ≤ d.nc ∧ d.f 32 8 = 0 ∧ doneReach.1.faults = [] ∧ doneReach.1.bad = none ∧ doneReach.1.at_ = [(.dev (2 ^ 26 + 0x200) false, 8)] ∧
      Goes (lineWrite (lineOf (2 ^ 26 + 0x200)) (atOffsets 0 (leBytes 8 1)) false true doneReach.2)) ∧
    (∃ s d, d = { desc0 with stalled := true } ∧ s = atWork d ∧ s.alive = true ∧ lookD s.atq 0 [] = [d] ∧ d.stalled = true) :=
  ⟨⟨_, _, rfl, rfl, by decide +kernel⟩, ⟨_, _, rfl, rfl, by decide⟩⟩
theorem witness_atomiser_chunk : (atWork desc0).alive = true ∧ lookD (atWork desc0).atq 0 [] = [desc0] ∧ desc0.stalled = false ∧
    desc0.nc < desc0.nChunks ∧ Goes (atChunk 0 desc0 (begins [] [] (atWork desc0))) ∧
    (∀ e ∈ lookD (atChunk 0 desc0 (begins [] [] (atWork desc0))).atq 0 [], e.stalled = false) ∧
    lookD (atChunk 0 desc0 (begins [] [] (atWork desc0))).atq 0 [] ≠ [] := by decide +kernel

/-! ### Homes, agents, filter -/

/-- Partition 0 with dies 0, 1 and processor dies 16, 17, and coherence as given. -/
def homes (k : Coh) : State :=
  { base [] with parts := [(0, { part0 with brims := 3, procs := 3 })], coh := k, pwr := { region := [(0, 0), (7, 0)] } }
/-- The RLC of die 1 asks for way 2. -/
def q1 : Requester := { die := 1, tag := 7, streaming := false, cls := 1, proc := none, watch := none, agent := some 1, way := 2 }
/-- The L3 of die 16, and its processor core 5, ask for way 0. -/
def q16 : Requester := { die := 16, tag := 5, streaming := false, cls := 1, proc := none, watch := none, agent := some 16, way := 0 }
def qProc : Requester := { q16 with proc := some 5 }
def open_ (q : Requester) (kind : ReqKind) (line : Nat) : Txn := { req := { q, kind, line }, query := true }
/-- A request as its home is given it. -/
def reqOf (q : Requester) (kind : ReqKind) (line : Nat) : HomeReq := { q, kind, line }

theorem witness_requests : ∀ line ∈ [0, 0xF7FFFFF],
    (∃ (cmd : Instr) (kind : ReqKind) (r : HomeReq) (s : State), (cmd, kind, r.data, r.poison) ∈ [(Instr.rdShared q1 line .good, ReqKind.rdShared, ([] : List Byte), false)] ∧
      r = { q := q1, kind, line, data := r.data, poison := r.poison, medium := .good, beat := s.beat } ∧ s = homes { presence := [(line / 256, 1)] } ∧
      q1.cls < 3 ∧ s.alive = true ∧ MaySend r s ∧ placeOf s (line * 256) = .stack 0 ∧
      Reaches r 0 s ∧ Rests 0 s ∧ look s.coh.txns line = none ∧ homeOpen s 0 < 1024 ∧ presenceOf s line ≠ 0) ∧
    (∃ s r, s = homes {} ∧ r = reqOf qProc .rdUnique line ∧ MaySend r s ∧ Reaches r 0 s ∧ Rests 0 s ∧ look s.coh.txns line = none ∧
      homeOpen s 0 < 1024 ∧ presenceOf s line = 0 ∧ qProc.proc.isSome = true) ∧
    (∃ s r, s = homes { txns := [(line, open_ q1 .rdShared line)] } ∧ r = reqOf q16 .rdShared line ∧ MaySend r s ∧ Reaches r 0 s ∧ Rests 0 s ∧
      (look s.coh.txns line).isSome = true) ∧
    (∃ s r, s = homes {} ∧ r = reqOf q1 .rdCur (2 ^ 29 + line) ∧ s.alive = true ∧ MaySend r s ∧ placeOf s ((2 ^ 29 + line) * 256) = .stack 2 ∧
      homeStatus r s ≠ ST.ok ∧ (r.msg s).credited s = true ∧
      (s.felt.stalled.any fun m => decide (m.src = q1.die) && decide (vcOf m.op = 0)) = false) := by
  intro line hl
  refine ⟨⟨.rdShared q1 line .good, .rdShared, { q := q1, kind := .rdShared, line, beat := (homes { presence := [(line / 256, 1)] }).beat }, _,
    by simp, rfl, rfl, ?_⟩, ⟨_, _, rfl, rfl, ?_⟩, ⟨_, _, rfl, rfl, ?_⟩, ⟨_, _, rfl, rfl, ?_⟩⟩ <;> (revert line; decide +kernel)

/-- Who asks, for what: an RLC reads, an L3 reads to write, a writer with and without a hint. -/
theorem witness_unshared : ∀ line ∈ [0, 0xF7FFFFF],
    (∀ e ∈ [(q1, ReqKind.rdShared), (q16, .rdUnique), (q1, .rdCur), (q1, .wrFull none), (q1, .wrFull (some 19)), (q16, .wrPart 0xFF),
        (q16, .atomic 0 4 [(0, 1), (63, 2)]), (q16, .atomic 0 8 [(0, 1), (31, 2)])],
      ∃ s, s = homes {} ∧ placeOf s (line * 256) = .stack 0 ∧ Rests 0 s ∧ look s.coh.txns line = none ∧ homeOpen s 0 < 1024 ∧
        presenceOf s line = 0 ∧ e.1.proc = none ∧ e.1.watch = none ∧ e.1.cls < 3 ∧ s.mark line = {} ∧ s.stored line = {} ∧
        (∀ r ∈ [L2Req.read, .write, .part, .atomic, .writeBack], l2Waits line r s = false) ∧ Reaches (reqOf e.1 e.2 line) 0 s ∧
        MaySend (reqOf e.1 e.2 line) s) ∧
    (∃ s, s = homes { lines := [(agentKey 16 line, { st := .S, way := 0 })] } ∧ placeOf s (line * 256) = .stack 0 ∧ Rests 0 s ∧
        look s.coh.txns line = none ∧ homeOpen s 0 < 1024 ∧ presenceOf s line = 0 ∧ s.mark line = {} ∧ s.stored line = {} ∧
        (∀ r ∈ [L2Req.read, .write, .part, .atomic, .writeBack], l2Waits line r s = false) ∧ Reaches (reqOf q16 .upgrade line) 0 s ∧
        MaySend (reqOf q16 .upgrade line) s) ∧
    (List.replicate 256 (0 : Byte)).length = 256 ∧ 19 < 20 ∧ 19 ≠ 0 ∧ ∀ width ∈ [4, 8], ∀ e ∈ [(0, 1), (256 / width - 1, 2)], e.1 * width + width ≤ 256 := by
  intro line hl
  refine ⟨fun e he => ⟨_, rfl, ?_⟩, ⟨_, rfl, ?_⟩, by decide +kernel⟩
  · revert line e; decide +kernel
  · revert line; decide +kernel
theorem l2_reqs (P : L2Req → Prop) (h : ∀ r ∈ [L2Req.read, .write, .part, .atomic, .writeBack], P r) : ∀ r, P r :=
  fun r => h r (by cases r <;> simp)

theorem witness_windows :
    (∀ e ∈ [(2 ^ 32, 0), (2 ^ 32 + 128 * 4096 - 1, 127)], (homes {}).alive = true ∧ placeOf (homes {}) (e.1 * 256) = .window e.2 ∧
      reqCredit (homes {}) false q1.die (homeDie (homes {}) (e.1 * 256)) = true ∧
      q1.die < 20 ∧ (homes {}).partOfDie q1.die = some 0 ∧ accessStatus (some 0) q1.die (e.1 * 256) {} (homes {}) = ST.ok ∧
      diePath (homes {}) q1.die (dieOfCore e.2) ≠ 1 ∧ (homes {}).regionState (regionOfCore e.2) = 0 ∧ (homes {}).stored e.1 = {} ∧
      (List.replicate 256 (0 : Byte)).length = 256) ∧
    (∀ line ∈ [2 ^ 32 + 128 * 4096], reqCredit (homes {}) false q1.die (homeDie (homes {}) (line * 256)) = true ∧
      placeOf (homes {}) (line * 256) = .window 128 ∧ (homes {}).partOfBrim (dieOfCore 128) ≠ some 0) ∧
    (∀ line ∈ [2 ^ 32 + 2 ^ 22, 2 ^ 33 - 1], reqCredit (homes {}) false q1.die (homeDie (homes {}) (line * 256)) = true ∧
      placeOf (homes {}) (line * 256) = .hole) ∧
    (∀ line ∈ [0xF800000, 2 ^ 28 - 1], reqCredit (homes {}) false q1.die (homeDie (homes {}) (line * 256)) = true ∧
      placeOf (homes {}) (line * 256) = .carve 0) := by decide +kernel

theorem witness_snoops : ∀ line ∈ [0, 2 ^ 34 - 1], ∀ agent ∈ [0, 19],
    (∀ kind ∈ [0, 1, 2], ∃ s cmd, (kind, cmd) ∈ [(0, Instr.snpShared agent line 7), (1, .snpCur agent line 7), (2, .snpInv agent line 7)] ∧
      s = homes { net := [{ op := 0x11 + kind, src := 24, dst := agent, tag := 7, line }], wb := [(agent * 64 + 63, { line, phase := true })] } ∧
      s.alive = true ∧ (∃ m ∈ s.coh.net, m.op = 0x11 + kind ∧ m.line = line ∧ m.dst = agent) ∧ agentLine s agent line = none ∧
      pendingWb s agent line = some (63, { line, phase := true })) ∧
    (∀ held : Bool, ∃ s, s = homes { net := [{ op := 0x11, src := 24, dst := agent, tag := 7, line }]
                                     lines := if held then [(agentKey agent line, { st := .M, way := 0 })] else [] } ∧ s.alive = true ∧
      (∃ m ∈ s.coh.net, m.op = 0x11 ∧ m.line = line ∧ m.dst = agent) ∧ pendingWb s agent line = none ∧
      agentLine s agent line = if held then some { st := .M, way := 0 } else none) := by
  intro line hl agent ha
  refine ⟨fun kind hk => ⟨_, if kind = 0 then .snpShared agent line 7 else if kind = 1 then .snpCur agent line 7 else .snpInv agent line 7, ?_, rfl, ?_⟩,
    fun held => ⟨_, rfl, ?_⟩⟩
  · simp only [List.mem_cons, List.not_mem_nil, or_false] at hk ⊢
    rcases hk with rfl | rfl | rfl <;> simp
  · revert kind agent line; decide +kernel
  · revert held agent line; decide +kernel
theorem witness_queries : ∀ line ∈ [0, 2 ^ 34 - 1], ∃ s x key, s = homes {
      txns := [(line, open_ { q16 with tag := 7 } .rdUnique line)]
      filter := [(filterKey (homes {}) 2 line 0, { line, st := .U })]
      net := [{ op := 0x10, src := line / 2 ^ 28, dst := 24, tag := 7, line, body := 2 }] } ∧ s.alive = true ∧ line < 2 ^ 34 ∧
    look s.coh.txns line = some x ∧ x.query = true ∧ x.req.line = line ∧ x.req.kind = .rdUnique ∧ x.req.q.agent = some 16 ∧ x.req.q.tag = 7 ∧
    filterHits s line = [(key, { line, st := .U })] ∧ key / 2 ^ 20 ≠ 16 ∧ key / 2 ^ 20 < 20 ∧ key / 2 ^ 20 ∉ s.coh.lost ∧
    ∃ m ∈ s.coh.net, m.op = 0x10 ∧ m.line = line ∧ m.dst = 24 ∧ m.src = line / 2 ^ 28 ∧ m.tag = 7 ∧ m.body = 2 := by
  intro line hl
  refine ⟨_, open_ { q16 with tag := 7 } .rdUnique line, filterKey (homes {}) 2 line 0, rfl, ?_⟩
  revert line; decide +kernel

/-- A transaction of a line of stack 0, its filter answered, with `n` snoops out. -/
def asked (q : Requester) (kind : ReqKind) (n : Nat) : Txn := { open_ q kind 300 with query := false, replies := n }
def answering (x : Txn) (resv : Tab Nat) (ms : List FeltMsg) : State := homes { txns := [(300, x)], resv, net := ms }
def msg (op src dst body : Nat) : FeltMsg := { op, src, dst, tag := 7, line := 300, body }
/-- A line's worth of bytes, in a message. -/
def lineOnes : List Byte := List.replicate 256 1
def full (op src dst tag body : Nat) : FeltMsg := { msg op src dst body with tag, data := lineOnes }

theorem witness_answers :
    (∀ n ∈ [1, 20], ∃ s x, s = answering (open_ q16 .rdUnique 300) [] [msg 0x18 24 0 (fcountBody n 20 3 true)] ∧ s.alive = true ∧
      look s.coh.txns 300 = some x ∧ x.ackAwaited = false ∧ x.req.line = 300 ∧ Rests (300 / 2 ^ 28) s ∧
      (∃ m ∈ s.coh.net, m.op = 0x18 ∧ m.line = 300 ∧ m.dst = 300 / 2 ^ 28 ∧ m.body = fcountBody n 20 3 true) ∧ x.answered.length < n) ∧
    (∃ s x, s = answering (asked q16 .rdUnique 2) [] [msg 0x19 2 0 0, msg 0x1A 2 0 0, full 0x20 2 0 7 0, msg 0x1B 2 0 (inFld 63 28 6 + inFld 1 27 1)] ∧
      s.alive = true ∧ look s.coh.txns 300 = some x ∧ x.ackAwaited = false ∧ x.req.line = 300 ∧ Rests (300 / 2 ^ 28) s ∧ 2 ∉ x.answered ∧
      (x.query = true ∨ x.answered.length + 1 < x.replies) ∧
      (∃ m ∈ s.coh.net, m.op = 0x19 ∧ m.line = 300 ∧ m.src = 2) ∧ (∃ m ∈ s.coh.net, m.op = 0x1A ∧ m.line = 300 ∧ m.src = 2) ∧
      2 ≠ 300 / 2 ^ 28 ∧ (full 0x20 2 0 7 0).sill = 0 ∧
      s.coh.net.find? (fun m => isMsg 0x20 300 (300 / 2 ^ 28) m && m.src = 2 && m.tag = 7 && m.body = 0 && m.data = lineOnes && m.poison = false)
        = some (full 0x20 2 0 7 0) ∧
      (∃ m ∈ s.coh.net, m.op = 0x1B ∧ m.line = 300 ∧ m.src = 2 ∧ m.body = inFld 63 28 6 + inFld (b01 true) 27 1)) ∧
    (∀ kind ∈ [ReqKind.lr, .sc 0xFF], ∀ resv ∈ [[(80, 300)], []], ∃ s x, x = { asked qProc kind 1 with req := { q := qProc, kind, line := 300, data := lineOnes } } ∧
      s = answering x resv [msg 0x19 2 0 0] ∧ s.alive = true ∧ look s.coh.txns 300 = some x ∧ x.ackAwaited = false ∧ x.req.line = 300 ∧
      Rests (300 / 2 ^ 28) s ∧ 2 ∉ x.answered ∧ x.query = false ∧ x.replies = x.answered.length + 1 ∧ x.wbs = [] ∧ x.dirty = none ∧
      x.req.q.proc = some 5 ∧ x.req.medium = .good ∧ (∀ r ∈ s.coh.waiting, homeOf r.line ≠ 300 / 2 ^ 28) ∧ s.mark 300 = {} ∧ s.stored 300 = {} ∧
      l2Waits 300 x.req.kind.l2 s = false ∧ (∀ e ∈ s.coh.txns, homeOf e.1 = 300 / 2 ^ 28 → e.1 = 300) ∧
      (∃ m ∈ s.coh.net, m.op = 0x19 ∧ m.line = 300 ∧ m.src = 2) ∧ x.req.data.length = 256 ∧
      (look s.coh.resv (resvKey 5 (300 / 2 ^ 28)) = some 300 ↔ resv ≠ [])) := by
  refine ⟨fun n hn => ⟨_, open_ q16 .rdUnique 300, rfl, ?_⟩, ⟨_, asked q16 .rdUnique 2, rfl, by decide +kernel⟩, fun kind hk resv hr => ⟨_, _, rfl, rfl, ?_⟩⟩
  · revert n; decide +kernel
  · revert kind resv; decide +kernel

/-- A transaction performed, its line blocked until the agent's answer. -/
def blocked (q : Requester) (kind : ReqKind) : Txn := { open_ q kind 300 with query := false, ackAwaited := true, grant := 2 }
/-- The set of line 300 at L3 17 with a line in M in each of its 16 ways, or with none. -/
def l3Set (busy : Bool) : State :=
  homes { net := [full 0x21 0 17 0 0]
          lines := if busy then (List.range 16).map fun w => (agentKey 17 (300 + (w + 1) * 2 ^ 14), { st := .M, way := w }) else [] }
theorem witness_write_backs :
    (∀ busy : Bool, ∃ s, s = homes { net := [full 0x28 1 0 (63 * 256 + 128) 0], txns := if busy then [(300, open_ q16 .rdUnique 300)] else [] } ∧
      s.alive = true ∧ Rests (300 / 2 ^ 28) s ∧ lineOnes.length = 256 ∧ s.stackState (300 / 2 ^ 28) = 0 ∧ (full 0x28 1 0 (63 * 256 + 128) 0).sill = 0 ∧
      s.coh.net.find? (fun m => fromMsg 0x28 300 1 m && m.tag = 63 * 256 + 128 * b01 true && m.data = lineOnes && m.poison = false)
        = some (full 0x28 1 0 (63 * 256 + 128) 0) ∧ (look s.coh.txns 300).all (·.query) = true) ∧
    (∃ s x, s = homes { txns := [(300, blocked q16 .rdUnique)], net := [msg 0x30 16 0 15] } ∧ look s.coh.txns 300 = some x ∧ x.ackAwaited = true ∧
      x.req.kind.caching = true ∧ x.req.q.agent = some 16 ∧ x.grant = 2 ∧ Rests (300 / 2 ^ 28) (delTxn 300 s) ∧ ackPasses 16 300 15 s = true ∧
      look s.coh.filter (filterKey s 16 300 15) = none ∧ ∃ m ∈ s.coh.net, m.op = 0x30 ∧ m.line = 300 ∧ m.src = 16 ∧ m.body = 15) ∧
    (∃ s x, s = homes { txns := [(300, blocked q16 (.wrFull (some 1)))], net := [msg 0x31 1 0 2, msg 0x32 1 0 0] } ∧ look s.coh.txns 300 = some x ∧
      x.ackAwaited = true ∧ x.req.kind = .wrFull (some 1) ∧ Rests (300 / 2 ^ 28) (delTxn 300 s) ∧ look s.coh.filter (filterKey s 1 300 2) = none ∧
      ackPasses 1 300 2 s = true ∧ dropsAhead s (300 / 2 ^ 28) = false ∧
      (∃ m ∈ s.coh.net, m.op = 0x31 ∧ m.line = 300 ∧ m.src = 1 ∧ m.body = 2) ∧ ∃ m ∈ s.coh.net, m.op = 0x32 ∧ m.line = 300 ∧ m.src = 1) ∧
    (∃ s b, s = homes { wb := [(1 * 64 + 63, { line := 300, phase := false, ack := some (300, 7) })]
                        net := [{ op := 0x33, src := 0, dst := 1, tag := 63 * 256, line := 300 }, msg 0x34 24 0 0] } ∧
      look s.coh.wb (1 * 64 + 63) = some b ∧ b.ack = some (300, 7) ∧ (∃ m ∈ s.coh.net, m.op = 0x33 ∧ m.dst = 1 ∧ m.tag / 256 = 63) ∧
      s.coh.net.find? (fun m => m.op = 0x34 && m.dst = 300 / 2 ^ 28) = some (msg 0x34 24 0 0) ∧ (msg 0x34 24 0 0).line = 300) ∧
    (∃ s e, s = homes { txns := [(300, blocked q16 .upgrade)], lines := [(agentKey 16 300, { st := .S, way := 2 })], net := [msg 0x1C 0 16 3] } ∧
      agentLine s 16 300 = some e ∧ e.st = .S ∧ e.way = 2 ∧ s.procReq = [] ∧ s.coh.wb = [] ∧ (look s.coh.txns 300).map (·.req.q.tag) = some 5 ∧
      ∃ m ∈ s.coh.net, m.op = 0x1C ∧ m.line = 300 ∧ m.dst = 16 ∧ m.body = 3) ∧
    (∀ grant ∈ [1, 2], ∃ s x, s = homes { txns := [(300, blocked q1 .rdShared)], net := [full 0x20 0 1 7 grant] } ∧ look s.coh.txns 300 = some x ∧
      1 ≠ 300 / 2 ^ 28 ∧ 1 < 20 ∧ grant ≠ 0 ∧ lineOnes.length = 256 ∧ (full 0x20 0 1 7 grant).sill = 0 ∧ s.procReq = [] ∧ s.coh.wb = [] ∧
      s.coh.net.find? (fun m => isMsg 0x20 300 1 m && m.src = 300 / 2 ^ 28 && m.tag = 7 && m.body = grant && m.data = lineOnes && m.poison = false)
        = some (full 0x20 0 1 7 grant)) ∧
    (∃ s, s = homes { net := [msg 0x1D 0 1 1, msg 0x1E 0 1 0x55] } ∧ look s.procReq 7 = none ∧
      (∃ m ∈ s.coh.net, m.op = 0x1D ∧ m.dst = 1 ∧ m.tag = 7 ∧ m.body = b01 true) ∧
      ∃ m ∈ s.coh.net, m.op = 0x1E ∧ m.dst = 1 ∧ m.tag = 7 ∧ m.body = 0x55) ∧
    (∀ busy : Bool, 17 ∉ (l3Set busy).coh.lost ∧
      (l3Set busy).coh.net.find? (fun m => isMsg 0x21 300 17 m && m.data = lineOnes && m.poison = false) = some (full 0x21 0 17 0 0) ∧
      ((agentRoom 17 300 (takeFelt (fun m => isMsg 0x21 300 17 m && m.data = lineOnes && m.poison = false) (l3Set busy))).1.isNone = busy)) := by
  refine ⟨fun busy => ⟨_, rfl, ?_⟩, ⟨_, blocked q16 .rdUnique, rfl, by decide +kernel⟩, ⟨_, blocked q16 (.wrFull (some 1)), rfl, by decide +kernel⟩,
    ⟨_, { line := 300, phase := false, ack := some (300, 7) }, rfl, by decide +kernel⟩, ⟨_, { st := .S, way := 2 }, rfl, by decide +kernel⟩,
    fun grant hg => ⟨_, blocked q1 .rdShared, rfl, ?_⟩, ⟨_, rfl, by decide +kernel⟩, by decide +kernel⟩
  · revert busy; decide +kernel
  · revert grant; decide +kernel

/-- The link of an agent's die is down, and a snoop waits for it. -/
def cutOff (agent : Nat) : State :=
  { base [] with
    coh := { net := [{ op := 0x13, src := 24, dst := agent, tag := 7, line := 300 }], filter := [(filterKey (base []) agent 300 0, { line := 300, st := .U })] }
    felt := { modules := (groupModules agent).map fun k => (k, { state := 2 }) } }
theorem witness_lost_agents : ∀ agent ∈ [1, 17], ∃ m, (cutOff agent).alive = true ∧ agent ∉ (cutOff agent).coh.lost ∧
    groupServes (cutOff agent) agent ≠ 0 ∧ m ∈ (cutOff agent).coh.net ∧ 0x11 ≤ m.op ∧ m.op ≤ 0x13 ∧ m.dst = agent ∧
    (agent < 16 ∨ (cutOff agent).partOfDie agent = none) := by
  intro agent ha
  refine ⟨{ op := 0x13, src := 24, dst := agent, tag := 7, line := 300 }, ?_⟩
  revert agent; decide +kernel

/-! ### Stacks, processor cores, links -/

/-- Die `k`'s home L2. -/
def withL2 (k : Nat) (z : L2) : State := { base [] with l2 := [(k, z)] }
/-- Stack `k`. -/
def withStack (k : Nat) (z : Stack) : State := { base [] with stks := [(k, z)] }
/-- Stack `k`, one beat after row 9 was corrected first, or not. -/
def corrected (k : Nat) (seen : Bool) : State :=
  { withStack k { ceRows := if seen then [(9, 0)] else [] } with time := { State.reset.time with now := State.reset.time.beatNs } }
theorem witness_stacks : ∀ k ∈ [0, 15], (base []).run = {} ∧
    (∃ s z, s = withL2 k { enabled := true, flight := [300] } ∧ s.alive = true ∧ s.run = {} ∧ s.l2Of k = z ∧ 300 ∈ z.flight ∧ z.enabled = true ∧
      z.prefetch = true ∧ s.stored 300 = {} ∧ 301 ∉ (s.l2Of k).flight) ∧
    (∀ i ∈ [0, 0xF7FFFFF], ∀ seen : Bool, ∃ s z, s = corrected k seen ∧ z = s.stack k ∧ s.alive = true ∧ s.run = {} ∧
      placeOf s ((k * 2 ^ 28 + i) * 256) = .stack k ∧ s.stackState k = 0 ∧ s.stored (k * 2 ^ 28 + i) = {} ∧
      (decide (lookD z.ceRows 9 s.time.now + s.time.beatNs ≤ s.time.now) && z.repair ≠ some 9 && !z.noSpare.contains (bankOfRow 9)) = seen ∧
      z.due = [] ∧ z.repair = none ∧ z.elevated = false ∧ s.evt.unread < 1008) ∧
    (∀ i ∈ [0, 0xF7FFFFF], ∃ s, s = { base [] with mem := { poison := [k * 2 ^ 28 + i] } } ∧ s.alive = true ∧ s.run = {} ∧
      placeOf s ((k * 2 ^ 28 + i) * 256) = .stack k ∧ s.stackState k = 0 ∧ (s.stored (k * 2 ^ 28 + i)).poison = true) ∧
    (base []).stackState k ≠ 2 ∧ 85 ≤ 85 ∧ 79 < 80 ∧
    (∃ s, s = withStack k { elevated := true, due := [9] } ∧ s.alive = true ∧ s.run = {} ∧ s.stackState k ≠ 2 ∧ (s.stack k).due = [9] ∧
      (s.stack k).repair = none ∧ bankOfRow 9 ∉ (s.stack k).noSpare) ∧
    (∃ s, s = withStack k { repair := some 9 } ∧ s.alive = true ∧ s.run = {} ∧ (s.stack k).repair = some 9 ∧ s.evt.unread < 1008) ∧
    (∃ s, s = withL2 k { ce := [(15 * 16 + 15, 17)] } ∧ s.alive = true ∧ s.run = {} ∧ 16 < lookD (s.l2Of k).ce (15 * 16 + 15) 0 ∧
      15 * 16 + 15 ∉ (s.l2Of k).off ∧ s.evt.unread < 1008) := by
  intro k hk
  refine ⟨rfl, ⟨_, { enabled := true, flight := [300] }, rfl, ?_⟩, fun i hi seen => ⟨_, _, rfl, rfl, ?_⟩, fun i hi => ⟨_, rfl, ?_⟩, ?_, by decide, by decide,
    ⟨_, rfl, ?_⟩, ⟨_, rfl, ?_⟩, ⟨_, rfl, ?_⟩⟩
  · revert k; decide +kernel
  · revert seen i k; decide +kernel
  · revert i k; decide +kernel
  · revert k; decide +kernel
  · revert k; decide +kernel
  · revert k; decide +kernel
  · revert k; decide +kernel

/-- The L3 of die 16 holds line 2¹⁸ of stack 0, or nothing. -/
def l3Has (st : Option Moesi) : State :=
  { base [] with
    mem := { bytes := tables }, aspaces := [(1, { part := 0, root := 2 ^ 30 })]
    coh := { lines := st.toList.map fun x => (agentKey 16 (2 ^ 18), { st := x, way := 0, data := List.replicate 256 9 }) } }
abbrev procGo (st : Option Moesi) (va : Nat) (op : ProcOp) : Xlat × State :=
  translate (procEngine 0 0 op (begins [] [] (l3Has st))) va (procAcc op) (begins [] [] (l3Has st))
/-- The same, the frame of page 0 retired. -/
abbrev procRetired : Xlat × State :=
  let s := begins [] [] { l3Has none with flash := { retired := [2 ^ 26] } }
  translate (procEngine 0 0 .load s) 0 (procAcc .load) s
/-- Every request of a die for a line reaches its home where the way is open with and without the Crown. -/
theorem reaches_of {u : State} {k die line : Nat} (hd : die < 20) (h0 : u.alive = true) (h1 : placeOf u (line * 256) = .stack k)
    (h2 : ∀ b : Bool, accessStatus (u.partOfDie die) die (line * 256) { crown := b } u = ST.ok ∧ wayTo u { crown := b } die k ≠ 1 ∧
      ((hopsOf u b die k).all fun h => creditsOf u h.1 h.2 0 ≠ 0) = true) (h3 : u.felt.stalled = []) :
    ∀ r : HomeReq, r.q.die = die → r.line = line → Reaches r k u := by
  rintro r rfl rfl
  refine ⟨h0, h1, ?_, ?_, ?_, by rw [h3]; rfl⟩
  · simp only [homeStatus, h1, if_pos hd]; exact (h2 _).1
  · exact (h2 _).2.1
  · have hv : vcOf r.kind.code = 0 := by cases r.kind <;> rfl
    have hh : homeDie u (r.line * 256) = k := by simp only [homeDie, h1]
    have := (h2 (r.msg u).coherent).2.2
    simpa only [FeltMsg.credited, FeltMsg.hops, HomeReq.msg, hh, hv] using this
def isDev (a : Nat) (x : Xlat × State) : Bool := decide (x.1 = .dev a) && !x.2.run.held && x.2.run.fatal.isEmpty
theorem dev_of {a : Nat} {x : Xlat × State} (h : isDev a x = true) : x = (.dev a, x.2) ∧ Goes x.2 := by
  simp only [isDev, Bool.and_eq_true, decide_eq_true_eq, Bool.not_eq_true', List.isEmpty_iff] at h
  exact ⟨Prod.ext h.1.1 rfl, h.1.2, h.2⟩
/-- Every request of L3 16 for the line reaches the home of stack 0. -/
def opens (u : State) : Prop := u.alive = true ∧ placeOf u (2 ^ 18 * 256) = .stack 0 ∧ (∀ b : Bool,
    accessStatus (u.partOfDie 16) 16 (2 ^ 18 * 256) { crown := b } u = ST.ok ∧ wayTo u { crown := b } 16 0 ≠ 1 ∧
      ((hopsOf u b 16 0).all fun h => creditsOf u h.1 h.2 0 ≠ 0) = true) ∧ u.felt.stalled = []
theorem witness_processor :
    (∀ st : Option Moesi, (l3Has st).alive = true ∧ (l3Has st).dieHere (l3Of 0) = true ∧ look (l3Has st).procReq 0 = none ∧
      procWaits (l3Has st) 0 0 = false ∧ (l3Has st).partOfProc (0 / 24) = some 0) ∧
    (∀ va ∈ [0, 248], ∃ e, isDev (2 ^ 26 + va) (procGo (some .S) va .load) = true ∧ placeOf (procGo (some .S) va .load).2 (2 ^ 26 + va) = .stack 0 ∧
      accessStatus (some 0) 16 (2 ^ 26 + va) { crown := decide (2 ^ 26 + va < 2 ^ 40) } (procGo (some .S) va .load).2 = ST.ok ∧
      agentLine (procGo (some .S) va .load).2 (l3Of 0) ((2 ^ 26 + va) / 256) = some e ∧ e.poison = false ∧ e.sill = 0) ∧
    (∀ m : Bool, ∃ e, isDev (2 ^ 26) (procGo (some (if m then .M else .E)) 0 .store) = true ∧
      agentLine (procGo (some (if m then .M else .E)) 0 .store).2 (l3Of 0) (2 ^ 26 / 256) = some e ∧ e.poison = false ∧ (e.st = .M ∨ e.st = .E)) ∧
    (∀ e ∈ [(none, ProcOp.load), (none, .fetch), (none, .store), (none, .lr), (none, .sc), (none, .amo 0), (some Moesi.S, .store), (some .O, .store)],
      ∃ u, u = (procGo e.1 0 e.2).2 ∧ isDev (2 ^ 26) (procGo e.1 0 e.2) = true ∧ opens u ∧ Rests 0 u ∧ look u.coh.txns (2 ^ 26 / 256) = none ∧
        homeOpen u 0 < 1024 ∧ (outstanding u (l3Of 0)).length < 256 ∧ u.procReq = [] ∧
        (agentLine u (l3Of 0) (2 ^ 26 / 256)).map (·.st) = e.1 ∧ (agentLine u (l3Of 0) (2 ^ 26 / 256)).all (!·.poison) = true ∧
        (e.1 = none → pendingWb u (l3Of 0) (2 ^ 26 / 256) = none ∧ (l3Way (l3Of 0) (2 ^ 26 / 256) u).map (·.1) = some 0 ∧
          agentWay u (l3Of 0) (2 ^ 26 / 256) 0 = none)) ∧
    (isDev (2 ^ 26) procRetired = true ∧ accessStatus (some 0) 16 (2 ^ 26) { crown := decide (2 ^ 26 < 2 ^ 40) } procRetired.2 ≠ ST.ok) ∧
    ((procGo none (2 ^ 26) .store).1 = .host (2 ^ 26) ∧ (procGo none (2 ^ 26) .store).2.host.canIssue = true ∧
      (procGo none (2 ^ 26) .store).2.host.hostLost = false ∧ Goes (procGo none (2 ^ 26) .store).2) ∧
    (∃ re st, procGo none (2 ^ 40) .load = (.fault re st, (procGo none (2 ^ 40) .load).2) ∧ Goes (procGo none (2 ^ 40) .load).2) := by
  refine ⟨?_, ?_, ?_, fun e he => ⟨_, rfl, ?_⟩, by decide +kernel, by decide +kernel, ?_⟩
  · intro st
    cases st with
    | none => decide +kernel
    | some x => cases x <;> decide +kernel
  · intro va hv
    refine ⟨{ st := .S, way := 0, data := List.replicate 256 9 }, ?_⟩
    revert va; decide +kernel
  · intro m
    refine ⟨{ st := if m then .M else .E, way := 0, data := List.replicate 256 9 }, ?_⟩
    revert m; decide +kernel
  · unfold opens; revert e; decide +kernel
  · refine ⟨1, 0, ?_⟩
    decide +kernel

/-- Module `k` in a state, coherence as given. -/
def linkIn (k : Nat) (x : Module) (c : Coh) : State := { base [] with felt := { modules := [(k, x)] }, coh := c }
/-- Full reset at a step. -/
def atStep (n : Nat) : State := { base [] with rst := { State.reset.rst with step := n } }
def heldReq : HomeReq := { q := { q1 with tag := 77 }, kind := .rdCur, line := 300 }
theorem witness_links :
    (∀ k ∈ [0, 103], (base []).run = {} ∧ (base []).alive = true ∧ ((base []).module k).state = 0 ∧
      ∀ x ∈ [({ retries := List.replicate 17 0 } : Module), { failures := 4 }], (linkIn k x {}).run = {} ∧ (linkIn k x {}).alive = true ∧
        ((linkIn k x {}).module k).state = 0 ∧
        (16 < (((linkIn k x {}).module k).retries.filter fun y => decide ((linkIn k x {}).time.now < y + 1000000)).length ∨
          4 ≤ ((linkIn k x {}).module k).failures)) ∧
    (∀ n ∈ [0, 2], ∃ s x, s = linkIn 4 { state := 1, mismatches := n } {} ∧ s.run = {} ∧ s.alive = true ∧ s.module 4 = x ∧ x.state = 1 ∧ x.width = 3 ∧
      x.lostLo = false ∧ x.lostHi = false ∧ x.mismatches = n ∧ s.evt.unread < 1008 ∧ s.felt.held = [] ∧ s.coh.lost = [] ∧ 4 < 88 ∧
      s.partOfDie (moduleDie 4).1 = none ∧ x.sparesLo + (ones 32 (3 : W64).toNat + ones 4 (0 : BitVec 8).toNat) ≤ 2 ∧
      x.sparesHi + (ones 32 ((3 : W64).toNat / 2 ^ 32) + ones 4 ((0 : BitVec 8).toNat / 16)) ≤ 2 ∧
      2 < x.sparesLo + (ones 32 (3 : W64).toNat + ones 4 (0x11 : BitVec 8).toNat) ∧
      x.sparesHi + (ones 32 ((3 : W64).toNat / 2 ^ 32) + ones 4 ((0x11 : BitVec 8).toNat / 16)) ≤ 2 ∧
      2 < x.sparesHi + (ones 32 ((0x700000007 : W64).toNat / 2 ^ 32) + ones 4 ((0 : BitVec 8).toNat / 16))) ∧
    (∃ s m, s = linkIn 0 {} { net := [{ msg 0x20 0 1 0 with tag := 77 }] } ∧ s.run = {} ∧ s.alive = true ∧ s.evt.unread < 1008 ∧
      s.coh.net.filter (crosses s 2) = [] ∧ s.coh.net.filter (crosses s 1) = [m] ∧ m.op = 0x20 ∧ look s.coh.txns m.line = none ∧ look s.procReq m.tag = none ∧
      s.dieHere 16 = true ∧ s.coh.net.filter (crosses s 16) = []) := by
  refine ⟨by decide +kernel, fun n hn => ⟨_, { state := 1, mismatches := n }, rfl, ?_⟩, ⟨_, { msg 0x20 0 1 0 with tag := 77 }, rfl, by decide +kernel⟩⟩
  revert n; decide +kernel

theorem witness_die_sites :
    (∃ s, s = { base [] with felt := { held := [heldReq] } } ∧ s.run = {} ∧ s.alive = true ∧ s.felt.held = heldReq :: [] ∧ look s.procReq heldReq.q.tag = none) ∧
    (∀ n ∈ [2, 3], (atStep n).run = {} ∧ ((atStep n).rst.step = 2 ∨ (atStep n).rst.step = 3)) ∧
    (∀ n ∈ [3, 8], 3 ≤ (atStep n).rst.step ∧ (atStep n).rst.step ≤ 8 ∧ (atStep n).dieHere 23 = true) ∧
    ((base []).dieHere 23 = true ∧ endedOn (base []) 23 = []) ∧
    (∃ s x, s = { base [] with plan := { placed := [x] }, time := { State.reset.time with now := 200000 } } ∧ s.run = {} ∧ s.alive = true ∧ s.dieHere 0 = true ∧
      endedOn s 0 = [x] ∧ s.evt.unread < 960 ∧ x.cost.energy < drawnMost (s.setDie 0 (fun y => { y with powerW := 100 })) x) ∧
    (base []).felt.stalled = [] ∧
    (∃ s, s = { base [] with felt := { stalled := [msg 0x20 0 2 0] } } ∧ s.run = {} ∧ s.alive = true ∧ s.felt.stalled = [msg 0x20 0 2 0] ∧
      vcOf (msg 0x20 0 2 0).op = 3) ∧
    (∃ s, s = { base [] with felt := { stalled := [msg 0x20 0 24 0] } } ∧ s.felt.stalled = [msg 0x20 0 24 0] ∧ s.alive = true ∧
      vcOf (msg 0x20 0 24 0).op = 3 ∧ (msg 0x20 0 24 0).req = none ∧ (msg 0x20 0 24 0).hops s = [(0, 0)] ∧ 0 < linkCredits s 0 0 3) ∧
    ((base []).reserveLog2 ≠ 0 ∧ (base []).evt.unread < 1008 ∧
      ∀ e ∈ (base []).ctxs, ∀ i ∈ e.2.items, i.phase < 3 → touchesReserve e.1 e.2 i (base []) = false) := by
  refine ⟨⟨_, rfl, by decide +kernel⟩, by decide +kernel, by decide +kernel, by decide +kernel,
    ⟨_, { ctx := 5, seq := 1, part := 0, slice := 0, last := true, kind := 1, beat := 0, order := 0, cap := 0, clock := 0, floor := 0, cost := { regions := 1 } }, rfl,
      by decide +kernel⟩, by decide, ⟨_, rfl, by decide +kernel⟩, ⟨_, rfl, by decide +kernel⟩, by decide +kernel⟩

/-! ### Packets and jobs -/

/-- What a key leads to stands in the table. -/
theorem mem_of_look {α : Type} {t : Tab α} {k : Nat} {v : α} (h : look t k = some v) : (k, v) ∈ t := by
  induction t with
  | nil => simp [look] at h
  | cons e t ih =>
    obtain ⟨j, w⟩ := e
    by_cases hj : j = k
    · simp only [look, hj, if_true, Option.some.injEq] at h
      simp [hj, h]
    · simp only [look, hj, if_false] at h
      exact List.mem_cons_of_mem _ (ih h)
theorem front_mem {s : State} {c : Nat} {x : Ctx} {i : Item} (h : frontItem s c = some (x, i)) : ∃ e ∈ s.ctxs, i ∈ e.2.items ∧ i.phase < 3 := by
  unfold frontItem at h
  split at h
  · rename_i y hy
    split at h
    · cases h
    · simp only [Option.map_eq_some_iff, Prod.mk.injEq] at h
      obtain ⟨a, ha, rfl, rfl⟩ := h
      exact ⟨_, mem_of_look hy, List.mem_of_find?_eq_some ha, by simpa using List.find?_some ha⟩
  · cases h
theorem quiet_of {s : State} {id : Nat} (h : ∀ e ∈ s.ctxs, ∀ i ∈ e.2.items, i.phase < 3 → i.job ≠ id) : Quiet id s := by
  intro c x i hf
  obtain ⟨e, he, hi, hp⟩ := front_mem hf
  exact h e he i hi hp

/-- Job 7 of two members in a state; this package is its root. -/
def jobAt (st : Nat) : Job := { job0 with state := st }
/-- Page 0 is locked at port die 20; peers as given. -/
def peers (p : Peer) (xs : Tab Ctx) : State :=
  { base [] with mem := { bytes := tables }, tc := [(20, [{ asid := 1, big := false, vpn := 0, leaf := leaf (2 ^ 26) 0, locked := true }])]
                 peer := p, ctxs := xs }
def pkt0 : Pkt := { port := 0, cls := 1, last := true, lines := 2, job := 7, src := 1, dst := 0, seq := 0, ack := 0, poison := 0, addr := 0x200 }
def running7 : State := peers { jobs := [jobAt 2] } [(5, ctx0)]
/-- Fields of an item's body: byte and value, each in one byte. -/
def bodyOf (l : List (Nat × Nat)) : List Byte := l.foldl (fun b e => b.set e.1 (BitVec.ofNat 8 e.2)) (List.replicate 112 0)
/-- A GET of 4 KiB from member 1 to address 0, whose requests are all sent. -/
def getting : Item := { item0 with kind := 6, phase := 2, next := 1, body := bodyOf [(24, 1), (28, 7), (32, 1), (57, 16)] }
def getState : State := peers { jobs := [jobAt 2] } [(5, { ctx0 with items := [getting] })]
def refused7 : PeerBad := { st := ST.pinInvalid, va := 2 ^ 26 }
/-- Two lines as a packet brings them, with their words. -/
def data7 : List Byte := List.replicate 512 7
def words7 : List W64 := List.replicate 2 (sillage (List.replicate 256 7))
def addrs7 : List Nat := [2 ^ 26 + 0x200, 2 ^ 26 + 0x300]
abbrev puts7 (hints : List (Option Nat)) (s : State) : State :=
  putLines pkt0.port hints addrs7 (arrived pkt0 data7 words7 s).1 (arrived pkt0 data7 words7 (peerWait pkt0.port addrs7 s)).2
/-- The port's receive writes at page 0's bytes. -/
abbrev receives (s : State) : State := Machine.atEngine (20 + pkt0.port / 4) (0x3000 + pkt0.port) [] (peerWait pkt0.port [2 ^ 26 + 0x200] s)
theorem front_look {s : State} {c : Nat} {x : Ctx} {i : Item} (h : frontItem s c = some (x, i)) : ∃ y, (c, y) ∈ s.ctxs := by
  unfold frontItem at h
  split at h
  · rename_i y hy
    exact ⟨y, mem_of_look hy⟩
  · cases h

theorem witness_packets :
    (Takes pkt0 (jobAt 2) running7 ∧ (jobAt 2).id = pkt0.job ∧ Quiet pkt0.job running7 ∧ running7.run = {} ∧
      peerLines pkt0.port 1 0 (pktLine pkt0) { wr := true } pkt0.lines running7 = .ok [2 ^ 26 + 0x200, 2 ^ 26 + 0x300] ∧
      peerLines pkt0.port 1 0 (pktLine pkt0) { rd := true } pkt0.lines running7 = .ok [2 ^ 26 + 0x200, 2 ^ 26 + 0x300] ∧
      Goes (peerWait pkt0.port [2 ^ 26 + 0x200, 2 ^ 26 + 0x300] running7) ∧
      (addrs7.map (· / 256)).Nodup ∧
      Goes (puts7 ((List.range pkt0.lines).map fun k => recvHint running7 7 1 (pktLine pkt0 + 256 * k)) running7) ∧
      Goes (packLines pkt0.port addrs7 (peerWait pkt0.port addrs7 running7)).2.2.2 ∧
      peerAddr pkt0.port 1 0 pkt0.addr { wr := true } running7 = .ok (2 ^ 26 + 0x200) ∧ 2 ^ 26 + 0x200 < 2 ^ 40 ∧
      Goes (lineWrite (lineOf (2 ^ 26 + 0x200)) (atOffsets 0 (leBytes 8 9)) false true (receives running7)) ∧
      Goes (homeAtomic (lineOf (2 ^ 26 + 0x200)) 0 8 [(0, 9)] (receives running7)).2.2 ∧ (∀ y ∈ running7.peer.colls, y.job = pkt0.job → y.coll ≠ pkt0.addr / 2 ^ 32)) ∧
    (Takes { pkt0 with addr := 2 ^ 26 } (jobAt 2) running7 ∧ running7.evt.unread < 960 ∧
      peerLines pkt0.port 1 0 (pktLine { pkt0 with addr := 2 ^ 26 }) { wr := true } pkt0.lines running7 = .error refused7) ∧
    (Takes pkt0 (jobAt 2) getState ∧ getState.run = {} ∧ ∃ c x, getItem getState 7 pkt0.src (pktLine pkt0) = some (c, x, getting) ∧
      getState.item c getting.seq = some getting ∧
      peerLines pkt0.port x.asid x.part (pktLine pkt0) { wr := true } pkt0.lines getState = .ok [2 ^ 26 + 0x200, 2 ^ 26 + 0x300] ∧
      Goes (puts7 ((List.range pkt0.lines).map fun _ => hintOf (getting.f 26 1)) getState) ∧
      getting.packets ≤ getting.next ∧ getting.moved + 256 * pkt0.lines < getting.f 56 8 ∧
      ∀ d y k, frontItem getState d = some (y, k) → k.job = 7 → d = c) := by
  refine ⟨⟨by decide +kernel, rfl, quiet_of (by decide +kernel), by decide +kernel⟩, by decide +kernel, by decide +kernel, rfl,
    5, { ctx0 with items := [getting] }, by decide +kernel, by decide +kernel, by decide +kernel, by decide +kernel, by decide +kernel, by decide +kernel,
    fun d y k h _ => ?_⟩
  obtain ⟨z, hz⟩ := front_look h
  simp only [getState, peers, List.mem_singleton, Prod.mk.injEq] at hz
  exact hz.1

/-- A packet of ours that awaits its acknowledgement. -/
def sent (own : Option (Nat × Nat)) : OutPkt := { op := OP.putData, hdr := { pkt0 with src := 0, dst := 1 }, own }
def pathTo (own : Option (Nat × Nat)) : Path := { job := 7, peer := 1, port := 0, nextSeq := 1, unacked := [sent own], owed := 1 }
def signalling : Item := { item0 with phase := 2 }
def nakState (own : Option (Nat × Nat)) : State := peers { jobs := [jobAt 2], paths := [pathTo own] } [(5, { ctx0 with items := [signalling] })]
abbrev nakEnd : State :=
  dropPeer 5 1 (endItem 5 1 ST.noJob ({ nakState (some (5, 1)) with run := { media := [] } }.setPath { pathTo (some (5, 1)) with unacked := [] }))
theorem witness_acks :
    ((nakState none).alive = true ∧ (nakState none).run = {} ∧ portUp (nakState none) 0 = true ∧ jobOf (nakState none) 7 = some (jobAt 2) ∧
      pathTo none = (nakState none).path 7 1 0 ∧ Quiet 7 (nakState none) ∧ (jobAt 2).state < 3 ∧
      (∃ k ∈ (pathTo none).unacked, seqBefore k.hdr.seq { pkt0 with ack := 1 }.ack = true) ∧ (sent none).own = none ∧
      (pathTo none).unacked = [sent none] ∧ 0 < (pathTo none).owed ∧ (nakState none).evt.unread < 900 ∧
      (∀ e ∈ (nakState none).ctxs, ∀ i ∈ e.2.items, i.phase < 3 → i.job ≠ 7)) ∧
    ((nakState (some (5, 1))).item 5 1 = some signalling ∧ signalling.phase = 2 ∧ Quiet 7 nakEnd ∧ Goes nakEnd) ∧
    (∃ s, s = peers { down := [15] } [] ∧ s.alive = true ∧ s.run = {} ∧ 15 ∈ s.peer.down ∧ s.evt.unread < 960 ∧ s.peer.pfx = none ∧ portUp s 0 = true ∧
      ∀ c x i, frontItem s c = some (x, i) → i.kind ≠ 5 ∧ i.kind ≠ 6) := by
  refine ⟨⟨by decide, by decide, by decide, by decide, by decide +kernel, quiet_of (by decide +kernel), by decide +kernel⟩,
    ⟨by decide +kernel, by decide, quiet_of (by decide +kernel), by decide +kernel⟩,
    ⟨_, rfl, by decide, by decide, by decide, by decide, by decide, by decide, ?_⟩⟩
  intro c x i h
  obtain ⟨e, he, -⟩ := front_mem h
  cases he

/-- Three members: the primary tree is 0, 1, 2, the secondary 0, 2, 1. -/
def tree3 : List Member :=
  [{ pfx := 1, serial := fld ((State.reset.die 24).identity.toNat) 0 32, parent := noParent, parent2 := noParent },
   { pfx := 2, serial := 4, parent := 0, parent2 := 2 }, { pfx := 3, serial := 5, parent := 1, parent2 := 0 }]
/-- Job 7 of the three, at member `self`, in a state. -/
def job3 (self st : Nat) (agreed : List Nat) (beats : List (Nat × Nat)) : Job :=
  { job0 with self, root := self = 0, members := tree3, state := st, agreed, beats }
/-- The job at a beat, with a payload. -/
def jobsAt (beat : Nat) (ws : List Nat) (j : Job) : State :=
  { base ws with peer := { jobs := [j] }, time := { State.reset.time with now := 200000 * beat } }
abbrev Base7 (s : State) (j : Job) : Prop := jobOf s 7 = some j ∧ s.run = {} ∧ portUp s (controlPort s) = true ∧ s.alive = true
def from_ (src dst : Nat) : Pkt := { pkt0 with src, dst, lines := 0, addr := 0 }

theorem witness_jobs :
    (∃ s j, s = jobsAt 1 [7] j ∧ Base7 s j ∧ Open s 0 ∧ word s 0 0 = 7 ∧ j.state < 3 ∧ s.evt.unread < 960 ∧
      ∀ e ∈ s.ctxs, ∀ i ∈ e.2.items, i.phase < 3 → i.job ≠ 7) ∧
    (∃ s j, s = jobsAt 1 [] j ∧ Base7 s j ∧ Comes (from_ 0 1) j s ∧ j.state = 0 ∧ j.self ∉ j.agreed ∧ j.refused = false ∧ (99 ≠ j.start ∨ (0 : W64) ≠ j.digest) ∧
      Comes (from_ 2 1) j s ∧ 2 ∈ j.kids ∧ 0 ∈ j.parents) ∧
    (∃ s j, s = jobsAt 1 [] j ∧ Base7 s j ∧ Comes (from_ 0 1) j s ∧ j.state = 0 ∧ j.self ∉ j.agreed ∧ (∀ k ∈ j.kids, k ∈ j.agreed) ∧
      j.root = false ∧ j.refused = false ∧ j.sentAck = false) ∧
    (∃ s j, s = jobsAt 1 [] j ∧ Base7 s j ∧ Comes (from_ 2 1) j s ∧ j.state = 0 ∧ 2 ∈ j.kids ∧ (∀ k ∈ j.self :: j.kids, k ∈ j.agreed ∨ k = 2) ∧
      j.root = false ∧ j.refused = false ∧ j.sentAck = false) ∧
    (∃ s j, s = jobsAt 3 [] j ∧ Base7 s j ∧ j.root = true ∧ j.state = 0 ∧ s.beat + 1 = j.start ∧ j.refused = false ∧ ∀ k ∈ j.kids, k ∈ j.agreed) ∧
    (∃ s j, s = jobsAt 3 [] j ∧ Base7 s j ∧ j.root = true ∧ j.state = 0 ∧ s.beat + 1 = j.start ∧ (j.refused = true ∨ ∃ k ∈ j.kids, k ∉ j.agreed)) ∧
    (∀ self ∈ [0, 1], ∃ s j, s = jobsAt 4 [] j ∧ Base7 s j ∧ j.root = decide (self = 0) ∧ j.start ≤ s.beat ∧ j.state = 1 ∧ Quiet 7 s) ∧
    (∃ s j, s = jobsAt 4 [] j ∧ Base7 s j ∧ j.start ≤ s.beat ∧ j.state = 0 ∧ s.evt.unread < 960) ∧
    (∀ all : Bool, ∃ s j, s = jobsAt 5 [] j ∧ Base7 s j ∧ j.state = 2 ∧ j.start + 1 ≤ s.beat ∧ j.root = true ∧
      (if all then ∀ k ∈ j.allKids, (k, s.beat - 1) ∈ j.beats else 1 ∈ j.allKids ∧ (1, s.beat - 1) ∉ j.beats ∧ j.stopping = none ∧
        ∀ k ∈ j.allKids, 1 ≤ k ∨ (k, s.beat - 1) ∈ j.beats)) ∧
    (∃ s j, s = jobsAt 5 [] j ∧ Base7 s j ∧ j.state = 2 ∧ j.start + 1 ≤ s.beat ∧ j.root = false ∧ (∃ k ∈ j.allKids, (k, s.beat - 1) ∉ j.beats) ∧
      rootOf j.members ∈ j.parents ∧ (rootOf j.members, s.beat - 1) ∉ j.beats) ∧
    (∀ self ∈ [0, 1], ∃ s j, s = jobsAt 5 [] j ∧ Base7 s j ∧ Takes (from_ 2 self) j s ∧ j.stopping = none ∧ j.root = decide (self = 0)) := by
  refine ⟨⟨_, job3 0 2 [] [], rfl, by decide +kernel⟩, ⟨_, job3 1 0 [] [], rfl, by decide +kernel⟩, ⟨_, job3 1 0 [2] [], rfl, by decide +kernel⟩,
    ⟨_, job3 1 0 [1] [], rfl, by decide +kernel⟩, ⟨_, job3 0 0 [1, 2] [], rfl, by decide +kernel⟩,
    ⟨_, job3 0 0 [] [], rfl, by decide +kernel⟩, fun self hs => ⟨_, job3 self 1 [] [], rfl, ?_⟩, ⟨_, job3 0 0 [] [], rfl, by decide +kernel⟩,
    fun all => ⟨_, job3 0 2 [] (if all then [(1, 4), (2, 4)] else [(2, 4)]), rfl, ?_⟩, ⟨_, job3 1 2 [] [], rfl, by decide +kernel⟩,
    fun self hs => ⟨_, job3 self 2 [] [], rfl, ?_⟩⟩
  · have h : ∀ self ∈ [0, 1], Base7 (jobsAt 4 [] (job3 self 1 [] [])) (job3 self 1 [] []) ∧ (job3 self 1 [] []).root = decide (self = 0) ∧
        (job3 self 1 [] []).start ≤ (jobsAt 4 [] (job3 self 1 [] [])).beat := by decide +kernel
    refine ⟨(h self hs).1, (h self hs).2.1, (h self hs).2.2, rfl, quiet_of ?_⟩
    simp [jobsAt, base, ctx0]
  · revert all; decide +kernel
  · revert self; decide +kernel

/-- The tree descriptor of job 7 as the host wrote it at 0x10000, for address space 1. -/
def descBytes : List Byte :=
  leBytes 4 7 ++ leBytes 4 3 ++ leBytes 2 0 ++ leBytes 2 1 ++ List.replicate 52 0 ++
    tree3.flatMap fun e => leBytes 8 e.pfx.toNat ++ leBytes 4 e.serial ++ leBytes 2 e.parent ++ leBytes 2 e.parent2 ++ List.replicate 16 0
/-- JOB_ARM's payload, with or without lockstep. -/
def armState (lock : Bool) : State :=
  { base [7 + (b01 lock + 2 + 4) * 2 ^ 40 + b01 lock * 2 ^ 48, 3, 0, 200 + 1000 * b01 lock * 2 ^ 32, 0x10000, 0, 0, 0] with
    time := { State.reset.time with source := 1, locked := true }, hostMem := cellsPut [] 0x10000 descBytes }
abbrev armHead (lock : Bool) : List Byte := cellsGet (hostWrote [] (armState lock)).hostMem (word (armState lock) 0 4) 64
abbrev armBody (lock : Bool) : List Byte := cellsGet (hostWrote [] (armState lock)).hostMem (word (armState lock) 0 4) (64 + 32 * 3)
theorem witness_arming :
    (∀ lock : Bool, Open (armState lock) 0 ∧
       word (armState lock) 0 0 = 7 + 0 * 2 ^ 32 + (b01 lock + 2 * b01 true + 4 * b01 true) * 2 ^ 40 + b01 lock * 2 ^ 48 ∧
       (lock = true → 0 < b01 lock) ∧ (lock = false → b01 lock = 0 ∧ (1000 * b01 lock) = 0) ∧ (armState lock).beat + 3 ≤ word (armState lock) 0 1 ∧ word (armState lock) 0 2 = (armState lock).time.epoch ∧ (1000 * b01 lock) < 2 ^ 32 ∧
       (armState lock).time.period < 2 ^ 32 ∧ word (armState lock) 0 3 = (armState lock).time.period + (1000 * b01 lock) * 2 ^ 32 ∧ word (armState lock) 0 4 % 4096 = 0 ∧ word (armState lock) 0 5 = 0 ∧ word (armState lock) 0 6 = 0 ∧ word (armState lock) 0 7 = 0 ∧
       (∀ k ∈ (armState lock).peer.jobs, k.id = 7 → 3 ≤ k.state) ∧ ((armState lock).part 0).isSome = true ∧
       (lock = true → (armState lock).gridWaits = false ∧ (armState lock).time.source ≠ 0 ∧ (armState lock).time.locked = true ∧ (armState lock).time.timeFault = false ∧ 1000 * b01 lock ≤ (armState lock).clock ∧ b01 lock ≤ issueOf (armState lock).pwr.cap ∧
         ∀ k ∈ (armState lock).peer.jobs, k.part = 0 → k.lockstep = true → 3 ≤ k.state)) ∧
    (∀ lock : Bool, leAt (armHead lock) 0 4 = 7 ∧ leAt (armHead lock) 4 4 = 3 ∧ leAt (armHead lock) 10 2 = 1 ∧ zeroAt (armHead lock) 12 52 = true ∧ (look (armState lock).aspaces 1).any (·.part = 0) = true ∧
       (∀ k < 3, zeroAt (armBody lock) (64 + 32 * k + 16) 16 = true) ∧ memberEntries (armBody lock) 3 = tree3 ∧ treeOk (armState lock) tree3 (leAt (armHead lock) 8 2) true = true ∧
       (jobRoom (armState lock).peer.jobs 7).length < 4096) ∧
    (s0.alive = true ∧ s0.run = {} ∧ portUp s0 0 = true ∧ jobOf s0 pkt0.job = none) ∧
    (∃ s r, s = { s0 with peer := { arms := [r] } } ∧ s.alive = true ∧ s.run = {} ∧ portUp s (controlPort s) = true ∧
      s.peer.arms.find? (·.job = 7) = some r ∧ r.start ≤ s.beat + 2 ∧ ∀ k ∈ s.peer.jobs, k.id = 7 → 3 ≤ k.state) := by
  refine ⟨by decide +kernel, by decide +kernel, by decide +kernel, ⟨_, ⟨7, 2, 0, 200, false, 0, 0, 0, 1, 0⟩, rfl, by decide +kernel⟩⟩

/-! ### Time, power, reset -/

def timed (t : TimeSt) : State := { base [] with time := t }
/-- An accepted FIRM item that runs. -/
def firm1 : Item :=
  { item0 with cls := 0, sub := 0, phase := 2, adm := some { verdict := 1, reason := 0, index := 0, slice := 1, beat := 0, earliest := 0 } }
def placed0 : Placed :=
  { ctx := 5, seq := 1, part := 0, slice := 0, last := true, kind := 8, beat := 0, order := 0, cap := 4000, clock := 0, floor := 0, cost := {} }
def firmState : State := { base [] with ctxs := [(5, { ctx0 with items := [firm1] })], plan := { placed := [placed0] } }
abbrev guarded : State :=
  let t0 := firmState.time
  demoteOrphans (spillCores (sealAccord
    { firmState with time := { t0 with now := Nat.max t0.now (t0.nextBoundary - t0.guard * 1000), inGuard := true } }))
theorem witness_time :
    (∃ s, s = timed { source := 1, ptpMaster := true } ∧ s.alive = true ∧ s.run = {} ∧ ptpPort 12 = true ∧ portUp s 12 = true ∧ s.time.ptpMaster = true ∧
      ((Instr.announceTimeout = Instr.announceTimeout ∧ s.time.source = 1 ∧ s.time.ptpMaster = true) ∨ (Instr.announceTimeout = Instr.syncLoss ∧ s.time.source = 2))) ∧
    (∃ s, s = timed { source := 2 } ∧ s.alive = true ∧ s.run = {} ∧ s.time.source = 2) ∧
    (∃ s j, s = { timed { unlockedAt := some 0, now := 1000000000 } with peer := { jobs := [j] } } ∧ s.alive = true ∧ s.run = {} ∧
      s.time.unlockedAt = some 0 ∧ s.time.locked = false ∧ 0 + 1000000000 ≤ s.time.now ∧ j.lockstep = true ∧ j.state < 3 ∧
      s.peer.jobs.Pairwise (fun j k => j.id ≠ k.id) ∧ lockstepJobs s = [j] ∧
      ∀ j ∈ lockstepJobs s, firmItems s j.part = [] ∧ ∀ e ∈ s.ctxs, ∀ i ∈ e.2.items, i.phase < 3 → i.job ≠ j.id) ∧
    (firmState.alive = true ∧ firmState.run = {} ∧ firmState.time.inGuard = false ∧ 0 < firmState.time.guard ∧
      firmState.plan.placed.filter (fun y => decide (y.beat = firmState.beat) && !y.ghost) = [placed0] ∧ guarded.item 5 1 = some firm1 ∧ firm1.contracted = true ∧ firm1.slice ≤ placed0.slice ∧
      firm1.phase = 2 ∧ sliceHalted guarded placed0 = false ∧ overrunBreach guarded placed0 = none ∧ latePeer firm1 = false ∧
      waitersOf guarded 5 1 = [] ∧ ∀ e ∈ guarded.ctxs, e.2.destroy = none) ∧
    (∃ s x, s = { timed { inGuard := true } with ctxs := [(5, x)] } ∧ s.alive = true ∧ s.run = {} ∧ s.time.inGuard = true ∧ s.item 5 item0.seq = some item0 ∧
      (∀ e ∈ s.ctxs, e.2.destroy = none) ∧ item0.cls ≠ 0 ∧ item0.phase < 3 ∧ s.plan.placed = [] ∧ s.peer.jobs = [] ∧ s.time.stepped = false ∧ s.time.newGrid = none) ∧
    (∃ s, s = { base [] with pwr := { waking := [63] } } ∧ s.alive = true ∧ s.run = {} ∧ 63 ∈ s.pwr.waking ∧ 63 < 64 ∧ s.evt.unread < 1008) := by
  refine ⟨⟨_, rfl, by decide⟩, ⟨_, rfl, by decide⟩, ⟨_, { job0 with lockstep := true }, rfl, by decide⟩, by decide +kernel,
    ⟨_, { ctx0 with items := [item0] }, rfl, by decide⟩, ⟨_, rfl, by decide⟩⟩

theorem witness_power :
    ((atStep 0).rst.step = 0 ∧ (3000 ≤ 3000 ∧ 6600 ≤ 6600) ∧ 6600 < 6601 ∧ ((-51 : Int) < -50 ∨ 7500 < (-51 : Int))) ∧
    ((base []).alive = true ∧ (-50 : Int) ≤ -50 ∧ (7500 : Int) ≤ 7500 ∧ (-26 : Int) < -25 ∧ (-25 : Int) ≤ 25 ∧ (25 : Int) < 2000 ∧ (base []).pwr.burn < ((2000 : Int) - 25).toNat * (4800 : Int).toNat ∧
      ((25 : Int) - 25).toNat * (4800 : Int).toNat ≤ (base []).pwr.burn ∧
      (25 : Int) < 26 ∧ ((26 : Int) - 25).toNat * (0 : Int).toNat ≤ (base []).pwr.burn) ∧
    ((base []).evt.unread < 1008 ∧ (1, 3, 0xFF) ∉ (base []).pwr.emergencies ∧ (1, 0, 4) ∉ (base []).pwr.emergencies ∧
      (∀ d ∈ [0, 24], (2, 0, d) ∉ (base []).pwr.emergencies ∧ d < 25 ∧ (base []).dieHere d = true) ∧
      (2, 1, 15) ∉ (base []).pwr.emergencies ∧ (base []).stackState 15 ≠ 2 ∧ (3, 2, 4) ∉ (base []).pwr.emergencies) ∧
    (∃ s, s = { base [] with pwr := { emergencies := [(2, 1, 15)] } } ∧ s.alive = true ∧ s.evt.unread < 1008 ∧ (2, 1, 15) ∈ s.pwr.emergencies) ∧
    ((base []).rst.step = 9 ∧ (base []).pwr.tilesFailed = [] ∧ (base []).rst.step ≠ 0) ∧
    (∃ s, s = { base [] with pwr := { tilesFailed := [3] } } ∧ s.rst.step ≠ 0 ∧ s.pwr.tilesFailed = 3 :: [] ∧ 4 ∉ 3 :: []) := by
  refine ⟨by decide, by decide, by decide +kernel, ⟨_, rfl, by decide⟩, by decide, ⟨_, rfl, by decide⟩⟩

/-- Full reset at a step, the package otherwise as after power. -/
def resetAt (r : ResetSt) (f : Flash) (e : EvtLog) : State := { base [] with rst := r, flash := f, evt := e }
def busy0 : Mailbox := { state := 1 }
theorem witness_resets :
    (∀ f ∈ [({} : Flash), { shutdown := some (4, 1) }], ∃ s, s = { resetAt { step := 0 } f {} with pwr := { soft := true, below10 := 1000 } } ∧
      s.rst.step = 0 ∧ s.pwr.soft = true ∧ 4000 < 4001 ∧ 6600 ≤ 6600 ∧ (s.flash.shutdown = none ∨ 1000 ≤ s.pwr.below10)) ∧
    (100 ≤ 100 ∧ 99 < 100 ∧ 2 ≤ s0.rst.step ∧ (atStep 11).rst.step = 11 ∧ Decodes s0 ∧ 63 < 64 ∧ ∀ n ∈ [1, 3, 4, 5, 6, 7], (atStep n).rst.step = n) ∧
    (∀ staged ∈ [none, some 5], ∃ s, s = resetAt { step := 2 } { staged } {} ∧ s.rst.step = 2 ∧ s.flash.staged = staged) ∧
    (∃ s, s = resetAt { step := 8 } {} {} ∧ s.rst.step = 8 ∧ s.flash.events = [] ∧ s.evt = {} ∧ s.rst.fellBack = none ∧ s.host.hostLost = false) ∧
    (∀ n ∈ [2, 8], ∃ s, s = resetAt { step := n, bootingStaged := true } { fallback := some 3 } {} ∧ 2 ≤ s.rst.step ∧ 1 ≤ s.rst.step ∧ s.rst.step ≤ 8 ∧
      s.rst.bootingStaged = true ∧ s.flash.fallback = some 3) ∧
    (∃ s, s = { s0 with host := { hostOn with mbx := [(0, busy0)] } } ∧ s.evt.unread < 1008 ∧ s.rst.step = 9 ∧ s.alive = true ∧ s.host.mbx = [(0, busy0)] ∧
      busy0.state = 1) ∧
    (∃ s, s = resetAt {} {} { spacing := true } ∧ s.evt.spacing = true ∧ s.evt.coalesced = false) ∧
    (∃ s, s = { resetAt {} {} { spacing := true, coalesced := true, irqEn := true } with
        host := { hostOn with msixEn := true, msixMask := false, msix := [(0, { masked := false })] } } ∧
      s.evt.spacing = true ∧ s.evt.coalesced = true ∧ s.evt.irqEn = true ∧ s.host.hostLost = false ∧ s.host.canIssue = true ∧ s.host.msixEn = true ∧
      s.host.msixMask = false ∧ (lookD s.host.msix s.evt.vector {}).masked = false) ∧
    (∃ s r, s = resetAt {} {} { toFlash := [r] } ∧ s.evt.toFlash = r :: []) := by
  refine ⟨fun f hf => ⟨_, rfl, ?_⟩, by decide +kernel, fun staged hs => ⟨_, rfl, rfl, rfl⟩, ⟨_, rfl, by decide⟩, fun n hn => ⟨_, rfl, ?_⟩, ⟨_, rfl, by decide⟩,
    ⟨_, rfl, by decide⟩, ⟨_, rfl, by decide⟩, ⟨_, ⟨0x0604, 5, false, 1, 0, 0, []⟩, rfl, rfl⟩⟩
  · revert f; decide
  · revert n; decide

/-! ### Rings, admission, items -/

def served : Served → State
  | .ok s => s
  | .bad _ s => s
  | .stall s => s
def isOk : Served → Bool
  | .ok _ => true
  | _ => false
theorem ok_served {r : Served} (h : isOk r = true) : r = .ok (served r) := by cases r <;> first | rfl | cases h
def flagOk (a : Nat) (p : Option Nat × Served) : Bool := decide (p.1 = some a) && isOk p.2
theorem flag_of {a : Nat} {p : Option Nat × Served} (h : flagOk a p = true) : p = (some a, .ok (served p.2)) := by
  simp only [flagOk, Bool.and_eq_true, decide_eq_true_eq] at h
  exact Prod.ext h.1 (ok_served h.2)

/-- A signal of value 9 to 0x100. -/
def sigBody (cls : Nat) : List Byte := bodyOf [(0, 8), (1, cls), (25, 1), (32, 9)]
/-- Context 5 with a signal in its ring, host completions unmarked. -/
def ringState (torn : Nat) : State :=
  { base [] with ctxs := [(5, { ctx0 with tail := 1, torn })], hostMem := cellsPut [] 0x1000 (ringEntry (sigBody 1) ctx0.sqPhase) }
abbrev ringX (torn : Nat) : Ctx := { ctx0 with tail := 1, torn }
abbrev slot0 (torn : Nat) (ep : Bool) : Option (List Byte) × Bool × State := readSlot 5 (ringX torn) ep (begins [] [] (ringState torn))
theorem witness_entries : ∀ torn ∈ [0, 1, 7, 8], (ringState torn).ctx 5 = some (ringX torn) ∧ (ringState torn).noseUp = true ∧
    (ringX torn).stopped = false ∧ (ringState torn).host.hostLost = false ∧ (ringX torn).unfinished < 2 ^ 24 ∧
    (∀ y j, frontItem (ringState torn) 5 = some (y, j) → batchable (ringState torn) y j = false) ∧ (ringX torn).items = [] ∧ (ringX torn).sqHead ≠ (ringX torn).tail ∧
    (ringX torn).tail = (if (ringX torn).sqHead + 1 = 2 ^ (ringX torn).sqLog2 then 0 else (ringX torn).sqHead + 1) ∧
    (∃ b v, slot0 torn false = (some b, false, v) ∧ entryGood (ringX torn) b = true ∧ headerOk (b.take 112) = true ∧ fieldsOk (b.take 112) = true ∧
      ∃ i, i = newItem (ringX torn).nextSeq (ringState torn).plan.nextAge (b.take 112) ∧ jobOk (ringState torn) (ringX torn).part i = true ∧
        i.cls ≠ 0 ∧ i.kind ≠ 1 ∧ i.kind ≠ 4) ∧
    (∃ b v, slot0 torn true = (b, true, v) ∧ (∀ d, b = some d → true = true ∨ entryGood (ringX torn) d = false) ∧ Goes v) ∧
    (torn = 0 → Goes (ringRead 5 false (begins [] [] (ringState torn))) ∧ Goes (ringRead 5 true (begins [] [] (ringState torn)))) ∧
    (torn ≠ 0 → Goes (tornReread 5 false (begins [] [] (ringState torn))) ∧ Goes (tornReread 5 true (begins [] [] (ringState torn)))) := by
  have h : ∀ torn ∈ [0, 1, 7, 8], (ringState torn).ctx 5 = some (ringX torn) ∧ (ringState torn).noseUp = true ∧
      (slot0 torn false).1 = some (ringEntry (sigBody 1) ctx0.sqPhase) ∧ (slot0 torn false).2.1 = false ∧ (slot0 torn true).2.1 = true ∧
      Goes (slot0 torn true).2.2 ∧
      (torn = 0 → Goes (ringRead 5 false (begins [] [] (ringState torn))) ∧ Goes (ringRead 5 true (begins [] [] (ringState torn)))) ∧
      (torn ≠ 0 → Goes (tornReread 5 false (begins [] [] (ringState torn))) ∧ Goes (tornReread 5 true (begins [] [] (ringState torn)))) := by
    decide +kernel
  have e : ∀ torn ∈ [0, 1, 7, 8], entryGood (ringX torn) (ringEntry (sigBody 1) ctx0.sqPhase) = true ∧
      headerOk ((ringEntry (sigBody 1) ctx0.sqPhase).take 112) = true ∧ fieldsOk ((ringEntry (sigBody 1) ctx0.sqPhase).take 112) = true ∧
      jobOk (ringState torn) (ringX torn).part (newItem (ringX torn).nextSeq (ringState torn).plan.nextAge ((ringEntry (sigBody 1) ctx0.sqPhase).take 112)) = true ∧
      (newItem (ringX torn).nextSeq (ringState torn).plan.nextAge ((ringEntry (sigBody 1) ctx0.sqPhase).take 112)).cls ≠ 0 ∧
      (newItem (ringX torn).nextSeq (ringState torn).plan.nextAge ((ringEntry (sigBody 1) ctx0.sqPhase).take 112)).kind = 8 := by decide +kernel
  have q : ∀ torn ∈ [0, 1, 7, 8], (ringX torn).unfinished < 2 ^ 24 ∧ frontItem (ringState torn) 5 = none := by decide +kernel
  intro torn ht
  have a := h torn ht
  have d := e torn ht
  refine ⟨a.1, a.2.1, rfl, rfl, (q torn ht).1, fun y j hj => absurd ((q torn ht).2.symm.trans hj) (by simp), rfl, by simp [ctx0], by simp [ctx0], ⟨_, (slot0 torn false).2.2, Prod.ext a.2.2.1 (Prod.ext a.2.2.2.1 rfl), d.1, d.2.1, d.2.2.1, _, rfl,
    d.2.2.2.1, d.2.2.2.2.1, ?_, ?_⟩, ⟨(slot0 torn true).1, (slot0 torn true).2.2, Prod.ext rfl (Prod.ext a.2.2.2.2.1 rfl), fun _ _ => .inl rfl, a.2.2.2.2.2.1⟩,
    a.2.2.2.2.2.2.1, a.2.2.2.2.2.2.2⟩
  · rw [d.2.2.2.2.2]; decide
  · rw [d.2.2.2.2.2]; decide

def decAccept : Decision → Option (List Placed × Nat)
  | .accept l b => some (l, b)
  | .refuse _ => none
def decRefuse : Decision → Option AdmRec
  | .refuse a => some a
  | .accept _ _ => none
theorem accept_of {d : Decision} {l : List Placed} {b : Nat} (h : decAccept d = some (l, b)) : d = .accept l b := by
  cases d with
  | accept => simp only [decAccept, Option.some.injEq, Prod.mk.injEq] at h; rw [h.1, h.2]
  | refuse => cases h
theorem refuse_of {d : Decision} {a : AdmRec} (h : decRefuse d = some a) : d = .refuse a := by
  cases d with
  | refuse => simp only [decRefuse, Option.some.injEq] at h; rw [h]
  | accept => cases h
/-- A FIRM signal that awaits its decision, due by a beat or by none; page 0 is pinned. -/
def asks (by_ : Nat) : Item := { item0 with body := bodyOf [(0, 8), (8, by_), (25, 1), (32, 9)], cls := 0, sub := 0, phase := 0 }
def askState (by_ : Nat) : State :=
  { base [] with
    mem := { bytes := tables }, ctxs := [(5, { ctx0 with items := [asks by_] })], aspaces := [(1, { part := 0, root := 2 ^ 30, pins := [0] })]
    tc := [(24, [{ asid := 1, big := false, vpn := 0, leaf := leaf (2 ^ 26) 0, locked := true }])] }
abbrev askX (by_ : Nat) : Ctx := { ctx0 with items := [asks by_] }
abbrev askZ (by_ : Nat) : Slices × State := slicesOf (noseOf 5 (askX by_)) 5 (askX by_) (asks by_) { askState by_ with run := {} }
abbrev askF (by_ : Nat) : List PageRun × State := footprint (noseOf 5 (askX by_)) (asks by_) (askZ by_).1 (askZ by_).2
abbrev askD (by_ : Nat) : Decision := decidePlan (askF by_).2 5 (askX by_) part0 (asks by_) (askZ by_).1
theorem witness_admission : ∀ by_ ∈ [0, 1], (askState by_).gridWaits = false ∧ (askState by_).ctx 5 = some (askX by_) ∧ (askState by_).noseUp = true ∧
    (askState by_).item 5 (asks by_).seq = some (asks by_) ∧ nextRequest (askState by_) = some (5, (asks by_).seq) ∧
    (askState by_).part (askX by_).part = some part0 ∧ (askZ by_).1.bad = none ∧
    staticFail (askF by_).2 5 (askX by_) part0 (asks by_) (askZ by_).1 (askF by_).1 = none ∧ part0.observe = false ∧
    (by_ = 0 → ∃ l b, askD by_ = .accept l b ∧ Goes (acceptItem 5 (asks by_) (askZ by_).1 (askF by_).1 l b (askF by_).2)) ∧
    (by_ = 1 → ∃ a, askD by_ = .refuse a ∧ Goes (refuseItem 5 (askX by_) part0 (asks by_) (askZ by_).1 a (askF by_).2)) := by
  have h : ∀ by_ ∈ [0, 1], (askState by_).ctx 5 = some (askX by_) ∧ (askState by_).noseUp = true ∧
      (askState by_).item 5 (asks by_).seq = some (asks by_) ∧ nextRequest (askState by_) = some (5, (asks by_).seq) ∧
      (askState by_).part (askX by_).part = some part0 ∧ (askZ by_).1.bad = none ∧
      staticFail (askF by_).2 5 (askX by_) part0 (asks by_) (askZ by_).1 (askF by_).1 = none := by decide +kernel
  have ha : ((decAccept (askD 0)).any fun e => decide (Goes (acceptItem 5 (asks 0) (askZ 0).1 (askF 0).1 e.1 e.2 (askF 0).2))) = true := by decide +kernel
  have hr : ((decRefuse (askD 1)).any fun a => decide (Goes (refuseItem 5 (askX 1) part0 (asks 1) (askZ 1).1 a (askF 1).2))) = true := by decide +kernel
  intro by_ hb
  have a := h by_ hb
  refine ⟨rfl, a.1, a.2.1, a.2.2.1, a.2.2.2.1, a.2.2.2.2.1, a.2.2.2.2.2.1, a.2.2.2.2.2.2, rfl, ?_, ?_⟩
  · rintro rfl
    obtain ⟨e, he, hg⟩ := Option.any_eq_true _ _ |>.1 ha
    exact ⟨e.1, e.2, accept_of he, of_decide_eq_true hg⟩
  · rintro rfl
    obtain ⟨e, he, hg⟩ := Option.any_eq_true _ _ |>.1 hr
    exact ⟨e, refuse_of he, of_decide_eq_true hg⟩

/-- Context 5 with one item, the pages of address space 1, region 0 awake or not. -/
def itemState (i : Item) (awake : Bool) : State :=
  { base [] with mem := { bytes := tables }, ctxs := [(5, { ctx0 with items := [i] })], pwr := { region := if awake then [(0, 0)] else [] } }
abbrev itemX (i : Item) : Ctx := { ctx0 with items := [i] }
abbrev Front (i : Item) (s : State) : Prop := frontItem s 5 = some (itemX i, i) ∧ s.item 5 i.seq = some i ∧ s.alive = true ∧ s.noseUp = true
def copy1 (phase : Nat) : Item := { item0 with kind := 2, phase, body := bodyOf [(0, 2), (1, 1), (33, 16), (56, 1), (61, 2), (64, 0xCC)] }
def signal1 : Item := { item0 with body := sigBody 1 }
def wait1 : Item := { item0 with kind := 7, phase := 2, body := bodyOf [(0, 7), (1, 1), (25, 1), (32, 9)] }
def cost1 : Cost := { regions := 1, cores := 1 }
def kernel1 : Item := { item0 with kind := 1, phase := 2, costs := [cost1], args := [2 ^ 26 + 0x600], body := bodyOf [(0, 1), (1, 1), (25, 1), (40, 1), (42, 32)] }
def thin1 : Item := { kernel1 with phase := 1, beats := 1, body := bodyOf [(0, 1), (1, 1), (25, 1), (40, 1), (42, 32), (43, 4), (44, 7)] }
def hostCopy1 (next pieces : Nat) : Item :=
  { item0 with kind := 3, phase := 2, next, pieces, body := bodyOf [(0, 3), (1, 1), (34, 8), (41, 16), (48, 8), (50, 1)] }
abbrev sigRun : State := markBegun 5 (itemX signal1) signal1 { itemState signal1 true with run := {} }
abbrev sigFlag : Option Nat × Served := noseFlag 5 (itemX signal1) (signal1.f 24 8) { wr := true, flag := true } sigRun
theorem witness_item_starts :
    (Front (copy1 1) (itemState (copy1 1) true) ∧ (itemState (copy1 1) true).stalledOn (.nose 5) = false ∧ (copy1 1).phase = 1 ∧
      (copy1 1).contracted = false ∧ itemReady (itemState (copy1 1) true) (copy1 1) = true ∧ batchable (itemState (copy1 1) true) (itemX (copy1 1)) (copy1 1) = false ∧
      (copy1 1).kind ≠ 5 ∧ (copy1 1).kind ≠ 6 ∧ (copy1 1).kind ≠ 8) ∧
    (Front signal1 (itemState signal1 true) ∧ (itemState signal1 true).stalledOn (.nose 5) = false ∧ signal1.phase = 1 ∧ signal1.contracted = false ∧
      itemReady (itemState signal1 true) signal1 = true ∧ batchable (itemState signal1 true) (itemX signal1) signal1 = false ∧ signal1.kind = 8 ∧
      signal1.f 40 1 = 0 ∧ (itemX signal1).cqHost = true ∧ ∃ v, sigFlag = (some (2 ^ 26 + 0x100), .ok v) ∧
        Goes (lineWrite (lineOf (2 ^ 26 + 0x100)) (atOffsets ((2 ^ 26 + 0x100) % 256) (leBytes 8 (signal1.f 32 8))) false false v)) ∧
    (∀ awake : Bool, Front kernel1 (itemState kernel1 awake) ∧ kernel1.launchable = true ∧ (itemState kernel1 awake).stalledOn (.nose 5) = false ∧
      kernel1.contracted = false ∧ launchBehind (itemState kernel1 awake) 5 kernel1 = false ∧ kernel1.costs[kernel1.slice]? = some cost1 ∧
      kernel1.kind = 1 ∧ kernel1.thin = false ∧ sliceReady (itemState kernel1 awake) cost1 = (if awake then .yes else .asleep) ∧
      cost1.coreList ≠ [] ∧ cost1.slots ≠ 0) := by
  have f : flagOk (2 ^ 26 + 0x100) sigFlag = true ∧
      Goes (lineWrite (lineOf (2 ^ 26 + 0x100)) (atOffsets ((2 ^ 26 + 0x100) % 256) (leBytes 8 (signal1.f 32 8))) false false (served sigFlag.2)) := by
    decide +kernel
  exact ⟨by decide +kernel, ⟨by decide +kernel, by decide +kernel, by decide, by decide +kernel, by decide +kernel, by decide +kernel, by decide,
    by decide +kernel, by decide, _, flag_of f.1, f.2⟩, by decide +kernel⟩

abbrev batch1 : List (Nat × Item) := batchOf (itemState thin1 true) 5
abbrev batchWrite : Served :=
  vaWrite (noseOf 5 (itemX thin1)) ((thin1.args[thin1.slice]?).getD 0)
    (batchHeader 2 (batch1.map fun m => (m.1, m.2.f 43 1, (m.2.args[thin1.slice]?).getD 0))) { itemState thin1 true with run := {} }
theorem witness_batch : Front thin1 (itemState thin1 true) ∧ (itemState thin1 true).stalledOn (.nose 5) = false ∧ batch1 = [(5, thin1)] ∧
    (itemState thin1 true).ctx 5 = some (itemX thin1) ∧ ((itemState thin1 true).part (itemX thin1).part).any (fun q => decide (q.window ≤ thin1.beats)) = true ∧
    thin1.costs[thin1.slice]? = some cost1 ∧ cost1.coreList ≠ [] ∧ cost1.slots ≠ 0 ∧ sliceReady (itemState thin1 true) cost1 = .yes ∧ (∃ v, batchWrite = .ok v ∧ Goes v) := by
  have h : isOk batchWrite = true ∧ Goes (served batchWrite) := by decide +kernel
  exact ⟨by decide +kernel, by decide +kernel, by decide +kernel, by decide +kernel, by decide +kernel, by decide, by decide +kernel, by decide, by decide +kernel, _, ok_served h.1, h.2⟩

abbrev copyB : State := begins [] [] (itemState (copy1 2) true)
abbrev copyE : Engine := { die := (copy1 2).die.getD (copyDie 5 (itemX (copy1 2)) (copy1 2) copyB), code := 3, ctx := 5, asid := ctx0.asid, part := ctx0.part, stall := .brimCopy 5 }
abbrev copyG : Engine := { copyE with crown := true }
abbrev copyR : Reach × State := reachRange copyG { rd := true } 0 256 {} copyB
abbrev copyW : Reach × State := reachRange copyE { wr := true } 0x1000 256 {} copyR.2
abbrev copyD : Tainted × State := readTainted copyR.1.at_ (readsFor copyG copyW.2)
theorem witness_copy : Front (copy1 2) (itemState (copy1 2) true) ∧ (copy1 2).kind = 2 ∧ (copy1 2).phase = 2 ∧
    (itemState (copy1 2) true).stalledOn (.brimCopy 5) = false ∧ (copy1 2).f 64 1 = 0xCC ∧ (copy1 2).f 65 1 = 0 ∧
    (copy1 2).block (copy1 2).next = (0, 1, 0, 256) ∧ (copy1 2).next + 1 < (copy1 2).blocks ∧
    0 = ((copy1 2).f 24 8 + 0 * (copy1 2).f 40 8 + 0) % 2 ^ 64 ∧ 0x1000 = ((copy1 2).f 32 8 + 0 * (copy1 2).f 48 8 + 0) % 2 ^ 64 ∧
    copyR.1.bad = none ∧ copyW.1.bad = none ∧ copyR.1.faults = [] ∧ copyW.1.faults = [] ∧ copyD.1.length = 256 ∧
    Goes (writeTainted (hintOf ((copy1 2).f 66 1)) [(copyD.1, copyW.1)] (readsFor copyE copyD.2)) := by decide +kernel

/-- A migration of 64 MiB whose pieces may be dealt, beside an item whose pieces are all dealt. -/
abbrev migS : State :=
  { itemState (hostCopy1 2 2) true with
    faults := [{ fault0 with migrating := some { mbx := 3, host := 0, frame := 2 ^ 27, leaf := leaf (2 ^ 27) 0 } }] }
abbrev pieceS : State := { itemState (hostCopy1 2 2) true with hce := [(15, { ctx := 5, seq := 1, off := 65536 })] }
abbrev pieceR : Reach × State :=
  reachRange { die := 24, code := 4, ctx := 5, asid := ctx0.asid, part := ctx0.part, stall := .hostCopy 5 } { wr := true }
    ((hostCopy1 2 2).f 40 8 + 65536) 8 {} (begins [] [] pieceS)
abbrev pieceE : List (Bool × Nat) × State :=
  ecrcOf (0x1000 + 15) pieceR.1.at_ (Machine.atEngine 24 (0x1000 + 15) [] { pieceR.2 with hce := del pieceR.2.hce 15 })
theorem witness_host_copy :
    (Front (hostCopy1 1 2) (itemState (hostCopy1 1 2) true) ∧ 15 < 16 ∧ (itemState (hostCopy1 1 2) true).host.hostLost = false ∧
      look (itemState (hostCopy1 1 2) true).hce 15 = none ∧ nextHostCopy (itemState (hostCopy1 1 2) true) =
        some { ctx := 5, seq := (hostCopy1 1 2).seq, off := (hostCopy1 1 2).next * 65536 }) ∧
    (Front (hostCopy1 2 2) migS ∧ 15 < 16 ∧ migS.host.hostLost = false ∧ look migS.hce 15 = none ∧
      (nextHostCopy migS).any (fun p => decide (p.mig = some (fault0.part, fault0.id))) = true) ∧
    (Front (hostCopy1 2 2) pieceS ∧ look pieceS.hce 15 = some { ctx := 5, seq := 1, off := 65536 } ∧ pieceS.host.canIssue = true ∧
      pieceS.stalledOn (.hostCopy 5) = false ∧ 8 = Nat.min 65536 ((hostCopy1 2 2).f 48 8 - 65536) ∧ 1 < (hostCopy1 2 2).pieces ∧
      (hostCopy1 2 2).f 24 1 = 0 ∧ pieceR.1.bad = none ∧ pieceR.1.faults = [] ∧
      Goes (writeTainted (hintOf ((hostCopy1 2 2).f 25 1))
        [((cellsGet pieceR.2.hostMem ((hostCopy1 2 2).f 32 8 + 65536) 8).zip (pieceE.1.flatMap fun f => List.replicate f.2 f.1), pieceR.1)]
        pieceE.2)) := by
  decide +kernel

/-- The flag of the wait holds `v`. -/
def flagState (v : Nat) : State := { itemState wait1 true with mem := { bytes := cellsPut tables (2 ^ 26 + 0x100) (leBytes 8 v) } }
abbrev waitFlag (v : Nat) : Option Nat × Served := noseFlag 5 (itemX wait1) (wait1.f 24 8) { rd := true, flag := true } (begins [] [] (flagState v))
abbrev waitRead (v : Nat) : Got × State := lineRead (lineOf (2 ^ 26 + 0x100)) false (served (waitFlag v).2)
theorem witness_wait_item : ∀ v ∈ [8, 9], Front wait1 (flagState v) ∧ (flagState v).stalledOn (.nose 5) = false ∧ wait1.kind = 7 ∧ wait1.phase = 2 ∧
    waitFlag v = (some (2 ^ 26 + 0x100), .ok (served (waitFlag v).2)) ∧ (waitRead v).1.poison = false ∧ Goes (waitRead v).2 ∧
    (decide (v = 9)) = (if wait1.f 40 1 = 0 then decide (leAt (waitRead v).1.data ((2 ^ 26 + 0x100) % 256) 8 = wait1.f 32 8)
      else decide (wait1.f 32 8 ≤ leAt (waitRead v).1.data ((2 ^ 26 + 0x100) % 256) 8)) ∧
    (itemX wait1).held = [] ∧ (itemX wait1).cqFull = false ∧ (itemX wait1).cqHost = true ∧ (flagState v).host.canIssue = true ∧
    (flagState v).host.hostLost = false := by
  have h : ∀ v ∈ [8, 9], Front wait1 (flagState v) ∧ (flagState v).stalledOn (.nose 5) = false ∧ flagOk (2 ^ 26 + 0x100) (waitFlag v) = true ∧
      (waitRead v).1.poison = false ∧ Goes (waitRead v).2 ∧
      (decide (v = 9)) = (if wait1.f 40 1 = 0 then decide (leAt (waitRead v).1.data ((2 ^ 26 + 0x100) % 256) 8 = wait1.f 32 8)
        else decide (wait1.f 32 8 ≤ leAt (waitRead v).1.data ((2 ^ 26 + 0x100) % 256) 8)) := by decide +kernel
  intro v hv
  have a := h v hv
  exact ⟨a.1, a.2.1, rfl, rfl, flag_of a.2.2.1, a.2.2.2.1, a.2.2.2.2.1, a.2.2.2.2.2, rfl, by decide, rfl, rfl, rfl⟩

/-! ### The whole machine -/

/-- A command at the front, memories as after reset: an L1 fetch, an idle nanosecond. -/
theorem witness_canonical : Memory.wf State.reset.mem = true ∧ tabWf State.reset.hostMem 0 = true ∧
    (∃ t, step State.reset = .next t) ∧ ∃ s t, s = { lane grp0 with pending := [.laneAlu 0 0 wAddi] } ∧ Memory.wf s.mem = true ∧
      tabWf s.hostMem 0 = true ∧ step s = .next t :=
  ⟨by decide, by decide, ⟨_, rfl⟩, _, _, rfl, by decide +kernel, by decide, rfl⟩

/-! ## Operands out of range: one ill-formed term for each check -/

def good : Pkt := { port := 15, cls := 2, last := false, lines := 32, job := 1, src := 0, dst := 65535, seq := 0, ack := 0, poison := 0, addr := 0 }
theorem test_ill_formed : ([
    .nop 64 0 0, .nop 0 0 128, .jobArm 0 0 0 true [(2 ^ 64, 0)], .shootdownDrainDone 64 0, .migrationCopyDone 16 0 [], .migrationCopyDone 0 (2 ^ 32) [],
    .stackRetestDone 16 [], .stackRetestDone 0 [2 ^ 42], .mbxDataWrite 0 124 .whole 0, .doorbellTail (2 ^ 20) 0, .fqHeadWrite 16 0,
    .dbgRctlHalt 16 0 0, .dbgRctlHalt 0 4 0, .dbgDataWrite 16 0, .registerWrite 1 0 8 ⟨0, 0⟩, .registerWrite 0 (2 ^ 41) 8 ⟨0, 0⟩, .registerWrite 0 0 3 ⟨0, 0⟩,
    .bar4Read 0 4097 [], .bar4Write 0 [] [(2 ^ 34, .good)], .bar4Read 0 8 [(0, .tagsLost 16)], .pcieConfigRequest (.bar 6) none,
    .pcieConfigRequest (.other 4096) none, .laneAlu 1024 0 0, .laneAlu 0 16 0, .atomiserDone 16 [], .admissionDecision 0 (2 ^ 32) [], .itemStart 0 [(2 ^ 34, .good)], .hostCopyPieceStart 16,
    .regionWakeDone 64] : List Instr).all (fun c => !c.wellFormed) = true := by decide +kernel
theorem test_ill_formed_messages : ([
    .rdCur { q1 with die := 25 } 0 .good, .rdCur { q1 with tag := 16384 } 0 .good, .rdCur { q1 with cls := 3 } 0 .good, .rdCur { q1 with proc := some 96 } 0 .good,
    .rdCur { q1 with watch := some ⟨1024, 0, 0, false⟩ } 0 .good, .rdCur { q1 with watch := some ⟨0, 256, 0, false⟩ } 0 .good, .rdCur { q1 with agent := some 20 } 0 .good, .rdCur { q1 with way := 16 } 0 .good, .rdCur q1 (2 ^ 34) .good,
    .wrFull q1 0 [] false none .good, .wrFull q1 0 (List.replicate 256 0) false (some 20) .good, .atomic q1 0 32 8 [] .good, .atomic q1 0 0 2 [] .good, .atomic q1 0 0 4 [(64, 0)] .good, .snpQ 16 0 0 0 none,
    .snpQ 0 0 0 3 none, .snpShared 20 0 0, .rspFcount 0 21 0 0 false, .rspFcount 0 0 0 4 false, .rspGrant 0 0 4, .wbAck 0 64, .ack 0 0 16 1, .l2WayOff 0 32 0,
    .flitCrcFail 104 false, .partialReset 40 0 0, .capWord 0 8 0, .esrikAck { good with port := 16 } [], .esrikAck { good with cls := 3 } [],
    .esrikAck { good with lines := 33 } [], .esrikAck { good with dst := 65536 } [], .putData good (List.replicate 8193 0) [] [], .tileFail 16, .linkRecoveryEnd 17 6,
    .hostLinkUp 16 7, .processorCoreAccess 96 .load 0 8 0 [] .good, .processorCoreAccess 0 .load 4 8 0 [] .good, .creditReturn 40 0 0 1,
    .creditReturn 0 2 0 1, .creditReturn 0 0 6 1, .ptpGeneralMessage 0 3 false 0 0] : List Instr).all (fun c => !c.wellFormed) = true := by decide +kernel
theorem test_well_formed : ([
    .nop 63 0xFFFF 127, .mbxDataWrite 63 123 .whole 0, .dbgRctlHalt 15 3 1, .registerWrite 4 0 1 ⟨0, 0⟩, .laneAlu 1023 15 0, .rdCur q1 (2 ^ 34 - 1) .good,
    .snpQ 15 16383 0 2 (some 19), .ack 19 0 15 3, .esrikAck good [], .putData good (List.replicate 8192 0) [] [], .partialReset 39 0 0,
    .processorCoreAccess 95 .load 8 8 0 [] .good] : List Instr).all (·.wellFormed) = true := by decide +kernel

/-! ## Values of the spec, worked by hand -/

/-- R187, Table 13-5: signed and unsigned minimum of −1 and 1; a semaphore takes what it has, and no more. -/
theorem test_atomics : amoNew 0x10 32 0xFFFFFFFF 1 = 0xFFFFFFFF ∧ amoNew 0x18 32 0xFFFFFFFF 1 = 1 ∧ amoNew 0x00 32 0xFFFFFFFF 2 = 1 ∧
    amoNew 0x1F 64 5 3 = 2 ∧ amoNew 0x1F 64 2 3 = 2 := by decide +kernel
/-- R163: binary32 1.5 + 2.25, 1 ÷ 3 and √2, correctly rounded; −0 is negated to +0. -/
theorem test_vector_values : vxF 0x00 0x3FC00000 0x40100000 0 = 0x40700000 ∧ vxF 0x04 0x3F800000 0x40400000 0 = 0x3EAAAAAB ∧
    vxF 0x05 0x40000000 0 0 = 0x3FB504F3 ∧ vxF 0x0F 0x80000000 0 0 = 0 := by decide +kernel
/-- NOP completes with ST_OK and no reply (R361). -/
theorem test_nop : (match exec (.nop 3 0x1234 0) (mb []) with
    | .next t => (t.mailbox 3).state = 2 && (t.mailbox 3).status = ST.ok && (t.mailbox 3).stsSeq = 0x1234 && (t.mailbox 3).outWords = 0
    | _ => false) = true := by decide +kernel
/-- An idle block counts one nanosecond, up to the next boundary (log 9). -/
theorem test_idle : (match step State.reset with | .next t => decide (t.time.now = 1) | _ => false) = true := by decide +kernel
/-- ADDI writes its active lanes and moves the pc (R79). -/
theorem test_addi : (match step { lane grp0 with pending := [.laneAlu 0 0 wAddi] } with
    | .next t => (t.group 0 0).any (fun g => g.pc = grp0.pc + 4) && t.pending.isEmpty
    | _ => false) = true := by decide +kernel
/-- The table gives no row bits. -/
theorem test_no_words : decodeTableWord 32 0x13 = none := rfl

end Sys2Proof.Tests
end

section
/-! PROOFS. Messages between agents, homes and the filter: what their arrival and their sending can do, and how an agent
and the filter answer a snoop (R250, R253, R255). -/

namespace Sys2Proof.Machine

open Sys2Proof

/-! ## Steps that stay between homes, agents and filter -/

/-- Only coherence state, credits and messages that wait for credit differ. -/
def CohOnly (s t : State) : Prop :=
  t = { s with coh := t.coh, felt := { s.felt with credits := t.felt.credits, stalled := t.felt.stalled } }

theorem CohOnly.refl (s : State) : CohOnly s s := rfl

theorem CohOnly.trans {s t u : State} (h : CohOnly s t) (k : CohOnly t u) : CohOnly s u := by
  unfold CohOnly at *
  rw [k, h]

theorem cohOnly_coh (c : Coh) (s : State) : CohOnly s { s with coh := c } := rfl

/-- Taking credits changes nothing but the credits. -/
theorem takeCredits_frame (m : FeltMsg) (s : State) :
    takeCredits m s = { s with felt := { s.felt with credits := (takeCredits m s).felt.credits } } := by
  unfold takeCredits
  generalize m.hops s = hops
  induction hops generalizing s with
  | nil => rfl
  | cons h hops ih => rw [List.foldl_cons, ih]; rfl

/-- Sending a message changes nothing but the messages on their way or waiting, and the credits. -/
theorem sendFelt_frame (m : FeltMsg) (s : State) :
    sendFelt m s = { s with
      coh := { s.coh with net := (sendFelt m s).coh.net }
      felt := { s.felt with credits := (sendFelt m s).felt.credits, stalled := (sendFelt m s).felt.stalled } } := by
  unfold sendFelt
  split
  · rfl
  · dsimp only
    rw [takeCredits_frame]

theorem sendFelt_cohOnly (m : FeltMsg) (s : State) : CohOnly s (sendFelt m s) := by
  unfold CohOnly
  rw [sendFelt_frame]

@[simp] theorem sendFelt_filter (m : FeltMsg) (s : State) : (sendFelt m s).coh.filter = s.coh.filter := by
  rw [sendFelt_frame]

@[simp] theorem agentLine_sendFelt (m : FeltMsg) (s : State) (agent line : Nat) :
    agentLine (sendFelt m s) agent line = agentLine s agent line := by
  rw [sendFelt_frame]; rfl

/-- A message that is sent is on its way, or waits for credit (R311). -/
theorem sent_sendFelt (m : FeltMsg) (s : State) : Sent (sendFelt m s) m := by
  unfold sendFelt
  split
  · exact .inr (by simp)
  · exact .inl (by simp)

/-- Sending a message withdraws none. -/
theorem Sent.sendFelt {m : FeltMsg} {s : State} (h : Sent s m) (n : FeltMsg) : Sent (sendFelt n s) m := by
  unfold Machine.sendFelt
  split
  · exact h.imp id fun h => List.mem_append_left _ h
  · dsimp only
    rw [takeCredits_frame]
    exact h.imp (fun h => List.mem_append_left _ h) id

/-! ## The arrival of a message -/

/-- The package as an arriving message is taken from the fabric. -/
def afterArrival (p : FeltMsg → Bool) (s : State) : State := takeFelt p { s with run := {} }

@[simp] theorem afterArrival_filter (p : FeltMsg → Bool) (s : State) : (afterArrival p s).coh.filter = s.coh.filter := rfl
@[simp] theorem afterArrival_txns (p : FeltMsg → Bool) (s : State) : (afterArrival p s).coh.txns = s.coh.txns := rfl
@[simp] theorem agentLine_afterArrival (p : FeltMsg → Bool) (s : State) (agent line : Nat) :
    agentLine (afterArrival p s) agent line = agentLine s agent line := rfl

/-- A message that is on its way arrives, and its receiver's work stays between homes, agents and filter: the command
answers the state that this work leaves. -/
theorem answers_of_arrival {c : Instr} {s : State} {p : FeltMsg → Bool} {f : State → State} {P : State → Prop}
    (hc : exec c s = felt (withMsg p f) s) (ha : s.alive = true) (hm : ∃ m ∈ s.coh.net, p m = true)
    (hf : CohOnly (afterArrival p s) (f (afterArrival p s)))
    (hP : CoherenceFrame s (f (afterArrival p s)) → P (f (afterArrival p s))) : Answers c s P := by
  have harrives : withMsg p f { s with run := {} } = f (afterArrival p s) := if_pos (List.any_eq_true.2 hm)
  have hframe : CoherenceFrame s (f (afterArrival p s)) := hf
  have hdone : done s (settle (f (afterArrival p s))) = .next (f (afterArrival p s)) := by
    rw [hframe]; rfl
  refine ⟨f (afterArrival p s), ?_, hP hframe⟩
  rw [hc, felt, if_pos ha, harrives, hdone]

/-! ## Lines of agents -/

theorem agentKey_inj {a b l m : Nat} (hl : l < 2 ^ 34) (hm : m < 2 ^ 34) : agentKey b m = agentKey a l ↔ b = a ∧ m = l := by
  unfold agentKey; omega

theorem agentLine_setAgentLine (s : State) (e : AgentLine) {a b l m : Nat} (hl : l < 2 ^ 34) (hm : m < 2 ^ 34) :
    agentLine (setAgentLine a l e s) b m = if b = a ∧ m = l then some e else agentLine s b m := by
  simp only [agentLine, setAgentLine, look_put, agentKey_inj hl hm]

theorem agentLine_dropAgentLine (s : State) {a b l m : Nat} (hl : l < 2 ^ 34) (hm : m < 2 ^ 34) :
    agentLine (dropAgentLine a l s) b m = if b = a ∧ m = l then none else agentLine s b m := by
  simp only [agentLine, dropAgentLine, innerDrop, look_del, agentKey_inj hl hm]

/-! ## An agent answers a snoop (R250, Table 10-4) -/

/-- The state in which a snoop other than SNP_INV leaves a line (Table 10-4): SNP_SHARED takes M to O and E to S. -/
def snoopedState (kind : Nat) (st : Moesi) : Moesi := if kind = 1 then st else match st with | .M => .O | .E => .S | x => x

/-- The agent's lines after a snoop of one that it holds. -/
def takeSnoop (agent line kind : Nat) (e : AgentLine) (s : State) : State :=
  if kind = 2 then dropAgentLine agent line s
  else if kind = 0 then setAgentLine agent line { e with st := snoopedState 0 e.st } s
  else s

/-- An agent's answer to a snoop, as a message to the home. -/
def snoopReply (agent line tag op body : Nat) (data : List Byte) (poison : Bool) : FeltMsg :=
  { op, src := agent, dst := line / 2 ^ 28, tag, line, body, data, poison, crown := true }

/-- The answer for a line that the agent holds: DAT where it is dirty, else RSP_I to SNP_INV and RSP_S to the others. -/
def heldReply (agent line tag kind : Nat) (e : AgentLine) : FeltMsg :=
  if e.st = .M ∨ e.st = .O then snoopReply agent line tag 0x20 0 e.data e.poison
  else if kind = 2 then snoopReply agent line tag 0x19 0 [] false else snoopReply agent line tag 0x1A 0 [] false

/-- The line of the snooped agent afterwards. -/
def afterSnoop (kind : Nat) (e : AgentLine) : Option AgentLine :=
  if kind = 2 then none else some { e with st := snoopedState kind e.st }

/-- The first four rows of Table 10-4. -/
theorem answerSnoop_held {s : State} {agent line : Nat} {e : AgentLine} (h : agentLine s agent line = some e)
    (tag kind : Nat) :
    answerSnoop agent line tag kind s = sendFelt (heldReply agent line tag kind e) (takeSnoop agent line kind e s) := by
  have hst : (if e.st = .M then Moesi.O else if e.st = .E then .S else e.st) = snoopedState 0 e.st := by
    cases e.st <;> rfl
  simp only [answerSnoop, h, hst]
  by_cases hdirty : e.st = .M ∨ e.st = .O <;> by_cases hinv : kind = 2 <;>
    simp [hdirty, hinv, heldReply, takeSnoop, snoopReply, homeOf]

/-- The row "Pending" of Table 10-4: RSP_WBPEND names the write-back buffer and its phase (R255). -/
theorem answerSnoop_pending {s : State} {agent line buf : Nat} {b : WbBuf} (h : agentLine s agent line = none)
    (hwb : pendingWb s agent line = some (buf, b)) (tag kind : Nat) :
    answerSnoop agent line tag kind s =
      sendFelt (snoopReply agent line tag 0x1B (inFld buf 28 6 + inFld (b01 b.phase) 27 1) [] false) s := by
  simp only [answerSnoop, h, hwb]; rfl

/-- The row "I" of Table 10-4. -/
theorem answerSnoop_absent {s : State} {agent line : Nat} (h : agentLine s agent line = none)
    (hwb : pendingWb s agent line = none) (tag kind : Nat) :
    answerSnoop agent line tag kind s = sendFelt (snoopReply agent line tag 0x19 0 [] false) s := by
  simp only [answerSnoop, h, hwb]; rfl

theorem takeSnoop_cohOnly (agent line kind : Nat) (e : AgentLine) (s : State) :
    CohOnly s (takeSnoop agent line kind e s) := by
  unfold takeSnoop
  split_ifs <;> rfl

/-- A snooped agent has the line in the state of Table 10-4, and every other line of every agent stands. -/
theorem agentLine_takeSnoop {s : State} {agent line kind : Nat} {e : AgentLine} (hk : kind < 3)
    (he : agentLine s agent line = some e) {b m : Nat} (hl : line < 2 ^ 34) (hm : m < 2 ^ 34) :
    agentLine (takeSnoop agent line kind e s) b m =
      if b = agent ∧ m = line then afterSnoop kind e else agentLine s b m := by
  obtain rfl | rfl | rfl : kind = 0 ∨ kind = 1 ∨ kind = 2 := by omega
  case inl => exact agentLine_setAgentLine s _ hl hm
  case inr.inl =>
    show agentLine s b m = if b = agent ∧ m = line then some e else agentLine s b m
    split_ifs with h
    · rw [h.1, h.2, he]
    · rfl
  case inr.inr => exact agentLine_dropAgentLine s hl hm

/-! ## The filter answers a query (R249, R253) -/

/-- SNP_Q from a home, with its transaction's line, tag and kind of snoop. -/
def isQuery (home line tag kind : Nat) (m : FeltMsg) : Bool :=
  isMsg 0x10 line 24 m && m.src = home && m.tag = tag && m.body = kind

/-- The agents that a query snoops, where one alone is listed beside the requester. -/
theorem range_filter_one {n : Nat} (h : n < 20) : ((List.range 20).filter fun a => decide (n = a)) = [n] := by
  revert n; decide

/-- A query for a read of ownership, with one entry of another agent: that entry is cleared, the agent gets SNP_INV, and
the home RSP_FCOUNT with one snoop and one entry cleared, none of the requester's and one of another. -/
theorem filterQuery_unique_one {s : State} {x : Txn} {a key : Nat} {st : FSt} (hkind : x.req.kind = .rdUnique)
    (hagent : x.req.q.agent = some a) (hhits : filterHits s x.req.line = [(key, { line := x.req.line, st })])
    (hother : key / 2 ^ 20 ≠ a) (hlt : key / 2 ^ 20 < 20) (hlost : key / 2 ^ 20 ∉ s.coh.lost) :
    filterQuery x s =
      sendFelt { op := 0x18, src := 24, dst := x.req.line / 2 ^ 28, tag := x.req.q.tag, line := x.req.line
                 body := 2 ^ 29 + 2 ^ 24 + 2 ^ 21 }
        (sendFelt { op := 0x13, src := 24, dst := key / 2 ^ 20, tag := x.req.q.tag, line := x.req.line, cls := x.req.q.cls }
          { s with coh := { s.coh with filter := del s.coh.filter key } }) := by
  simp only [filterQuery, hkind, hagent, hhits, List.map_cons, List.map_nil]
  generalize key / 2 ^ 20 = other at hother hlt hlost ⊢
  simp [hother, range_filter_one hlt, hlost, ReqKind.snoop, ReqKind.caching, homeOf, fcountBody, inFld, b01]

end Sys2Proof.Machine

namespace Sys2Proof

open Machine

/-- The three snoops arrive alike. -/
theorem exec_snoop {agent line tag kind : Nat} {cmd : Instr}
    (h : (kind, cmd) ∈ [(0, Instr.snpShared agent line tag), (1, .snpCur agent line tag), (2, .snpInv agent line tag)])
    (s : State) :
    kind < 3 ∧ exec cmd s = felt (withMsg (isMsg (0x11 + kind) line agent) (answerSnoop agent line tag kind)) s := by
  simp only [List.mem_cons, Prod.mk.injEq, List.not_mem_nil, or_false] at h
  rcases h with ⟨rfl, rfl⟩ | ⟨rfl, rfl⟩ | ⟨rfl, rfl⟩ <;> exact ⟨by decide, rfl⟩

/-- A snoop that is on its way is answered by the agent, in the state that the message leaves. -/
theorem answers_snoop {s : State} {agent line tag kind : Nat} {cmd : Instr} {P : State → Prop} (ha : s.alive = true)
    (hc : exec cmd s = felt (withMsg (isMsg (0x11 + kind) line agent) (answerSnoop agent line tag kind)) s)
    (hm : ∃ m ∈ s.coh.net, m.op = 0x11 + kind ∧ m.line = line ∧ m.dst = agent) (u : State) (r : FeltMsg)
    (hu : CohOnly (afterArrival (isMsg (0x11 + kind) line agent) s) u)
    (hans : answerSnoop agent line tag kind (afterArrival (isMsg (0x11 + kind) line agent) s) = sendFelt r u)
    (hP : Sent (sendFelt r u) r → CoherenceFrame s (sendFelt r u) → P (sendFelt r u)) : Answers cmd s P := by
  obtain ⟨m, hmem, hop, hline, hdst⟩ := hm
  refine answers_of_arrival hc ha ⟨m, hmem, by simp [isMsg, hop, hline, hdst]⟩ ?_ ?_ <;> rw [hans]
  · exact hu.trans (sendFelt_cohOnly r u)
  · exact hP (sent_sendFelt r u)

/-- A transaction's query that is on its way is answered by the filter, in the state that the message leaves. -/
theorem answers_query {s : State} {home tag line kind a : Nat} {x : Txn} {P : State → Prop} (ha : s.alive = true)
    (hx : look s.coh.txns line = some x) (hq : x.query = true) (hagent : x.req.q.agent = some a)
    (hm : ∃ m ∈ s.coh.net, m.op = 0x10 ∧ m.line = line ∧ m.dst = 24 ∧ m.src = home ∧ m.tag = tag ∧ m.body = kind) (u : State)
    (hans : filterQuery x (afterArrival (isQuery home line tag kind) s) = u)
    (hu : CohOnly (afterArrival (isQuery home line tag kind) s) u)
    (hP : CoherenceFrame s u → P u) : Answers (.snpQ home tag line kind (some a)) s P := by
  obtain ⟨m, hmem, hop, hline, hdst, hsrc, htag, hbody⟩ := hm
  refine answers_of_arrival rfl ha ⟨m, hmem, by simp [isMsg, hop, hline, hdst, hsrc, htag, hbody]⟩ ?_ ?_ <;>
    simp only [afterArrival_txns, hx, hq, hagent, decide_true, Bool.true_or, Bool.and_self, if_true]
  · exact hans ▸ hu
  · exact hans ▸ hP

/-- Settles O43: the agent's three cases are those of `answerSnoop`, and the query's is `filterQuery_unique_one`. -/
theorem agentsAnswerSnoops : Obligations.agents_answer_snoops := by
  unfold Obligations.agents_answer_snoops
  refine ⟨fun s agent line tag kind cmd ha hcmd hm hl => ?_, ?_⟩
  · obtain ⟨hk, hc⟩ := exec_snoop hcmd s
    refine ⟨fun buf b hnone hwb => ?_, fun e he => ?_, fun hwb hnone => ?_⟩
    · refine answers_snoop ha hc hm _ _ (.refl _) (answerSnoop_pending (s := afterArrival _ s) hnone hwb tag kind)
        fun hsent hframe => ?_
      exact ⟨by simpa using hnone, fun _ _ _ _ _ => by simp, hsent, hframe⟩
    · have hlines {b m : Nat} := agentLine_takeSnoop (s := afterArrival (isMsg (0x11 + kind) line agent) s) (b := b) (m := m)
        hk he hl
      refine answers_snoop ha hc hm _ _ (takeSnoop_cohOnly agent line kind e _)
        (answerSnoop_held (s := afterArrival _ s) he tag kind)
        fun hsent hframe => ⟨fun b _ m hm hne => ?_, hframe, ?_, hsent⟩
      · have hother : ¬(b = agent ∧ m = line) := by tauto
        rw [agentLine_sendFelt, hlines hm, if_neg hother, agentLine_afterArrival]
      · rw [agentLine_sendFelt, hlines hl, if_pos ⟨rfl, rfl⟩]
        rfl
    · refine answers_snoop ha hc hm _ _ (.refl _) (answerSnoop_absent (s := afterArrival _ s) hnone hwb tag kind)
        fun hsent hframe => ?_
      exact ⟨fun _ _ _ _ _ => by simp, hsent, hframe⟩
  · rintro s line tag a key x ha hl hx hq rfl hkind hagent rfl hhits hother hlt hlost hm
    refine answers_query ha hx hq hagent hm _ (filterQuery_unique_one hkind hagent hhits hother hlt hlost) ?_
      fun hframe => ⟨?_, ?_, sent_sendFelt _ _, hframe⟩
    · exact (cohOnly_coh _ _).trans ((sendFelt_cohOnly _ _).trans (sendFelt_cohOnly _ _))
    · simp
    · exact Sent.sendFelt (sent_sendFelt _ _) _

end Sys2Proof
end

section
/-! PROOFS. Mailboxes: how a write to a mailbox's registers and a posted command are received (R339, R340, R358, R359). -/

namespace Sys2Proof.Machine

open Sys2Proof

variable {s : State} {m : Nat}

/-! ## A package whose BARs decode -/

theorem barAccess_of_decodes (hd : Decodes s) (f : State → State) : barAccess f s = f s := by
  obtain ⟨hlink, hmem, hd3, -⟩ := hd
  simp [barAccess, State.decodes, hlink, hmem, hd3]

theorem shellUp_of_decodes (hd : Decodes s) : s.shellUp = true := by
  obtain ⟨-, -, -, hready⟩ := hd
  simp [State.shellUp, hready]

theorem noseUp_of_decodes (hd : Decodes s) : s.noseUp = true := by
  obtain ⟨-, -, -, hready⟩ := hd
  simp [State.noseUp, hready]

/-! ## Acceptance -/

theorem mailbox_setMailbox (s : State) (m n : Nat) (b : Mailbox) :
    (s.setMailbox m b).mailbox n = if n = m then b else s.mailbox n := lookD_putD _ _ _ _ _

/-- The state after a write that a busy mailbox ignores (R340). -/
def collided (m : Nat) (s : State) : State := s.setMailbox m { s.mailbox m with collision := true }

theorem collides_of_collided (s : State) (m : Nat) : ∃ t, done s (collided m s) = .next t ∧ Collides s t m := by
  refine ⟨_, rfl, ?_, fun k hk => ?_, rfl⟩
  · exact (mailbox_setMailbox s m m _).trans (if_pos rfl)
  · exact (mailbox_setMailbox s m k _).trans (if_neg hk)

theorem accept_busy (hd : Decodes s) (hm : m < 64) (hbusy : (s.mailbox m).state = 1) (op : Nat) (seq : BitVec 16) (n : Nat)
    (run : State → State) : accept m op seq n run s = collided m s := by
  simp [accept, collided, shellUp_of_decodes hd, hm, hbusy]

theorem accept_ready (hd : Decodes s) (hm : m < 64) (hready : (s.mailbox m).state ≠ 1) (op : Nat) (seq : BitVec 16) (n : Nat)
    (run : State → State) : accept m op seq n run s = run (accepted m op seq n s) := by
  simp [accept, accepted, shellUp_of_decodes hd, hm, hready]

theorem idState_of_hostLost (hd : Decodes s) (hlost : s.host.hostLost = true) : s.idState = 3 := by
  obtain ⟨-, -, -, hready⟩ := hd
  simp [State.idState, hready, hlost]

theorem idState_accepted (m op : Nat) (seq : BitVec 16) (n : Nat) (s : State) :
    (accepted m op seq n s).idState = s.idState := rfl

theorem guarded_hostLost (hlost : s.idState = 3) (len : Nat) (body : State → State) :
    guarded m len body s = complete m ST.hostLost [] s := by
  simp [guarded, hlost]

theorem submit_busy (hd : Decodes s) (hm : m < 64) (hbusy : (s.mailbox m).state = 1) (op : Nat) (seq : BitVec 16)
    (n len : Nat) (body : State → State) : submit m op seq n len body s = done s (collided m s) := by
  rw [submit, barAccess_of_decodes hd, accept_busy hd hm hbusy]

theorem submit_hostLost (hd : Decodes s) (hm : m < 64) (hlost : s.host.hostLost = true) (hready : (s.mailbox m).state ≠ 1)
    (op : Nat) (seq : BitVec 16) (n len : Nat) (body : State → State) :
    submit m op seq n len body s = done s (complete m ST.hostLost [] (accepted m op seq n s)) := by
  rw [submit, barAccess_of_decodes hd, accept_ready hd hm hready, guarded_hostLost]
  rw [idState_accepted, idState_of_hostLost hd hlost]

/-- A command that is posted in a mailbox, with the length that its request must have. -/
def Posted (c : Instr) (m : Nat) (seq : BitVec 16) (n len : Nat) : Prop :=
  ∃ op body, ∀ s, exec c s = submit m op seq n len body s

/-! ## Writes of a mailbox's registers -/

/-- CRN_MBX_CMD as a write leaves it. -/
def cmdWritten (s : State) (m : Nat) (h : Half) (v : W64) : Nat := mergeHalf (mailboxReg (s.mailbox m) 0) h v

/-- A write that sets go posts the command that the register then names, but for RESET_DEVICE; after a host-lost event that
command, whichever it is, completes with ST_HOST_LOST (R340, R358). -/
theorem mailboxCmdWrite_go {h : Half} {v : W64} (hgo : (halfValue h v).testBit 63 = true)
    (hop : fld (cmdWritten s m h v) 0 16 ≠ 1) :
    ∃ op n run, mailboxCmdWrite m h v s = accept m op (BitVec.ofNat 16 (fld (cmdWritten s m h v) 32 16)) n run s ∧
      ∀ u : State, u.idState = 3 → run u = complete m ST.hostLost [] u := by
  unfold cmdWritten at *
  simp only [mailboxCmdWrite, hgo, hop, if_true, if_false]
  refine ⟨_, _, _, rfl, fun u hu => ?_⟩
  generalize firmwareCommand _ _ = command
  rcases command with _ | ⟨len, body⟩
  · simp [badOpcode, hu]
  · exact guarded_hostLost hu len body

/-- The half of its register that an access of a size and an offset writes. -/
def halfOf (size o : Nat) : Half := if size = 8 then .whole else if o % 8 = 0 then .low else .high

/-- An aligned write of BAR0 below the debug windows changes the register that it names (R8, R9). -/
theorem exec_registerWrite_bar0 (hd : Decodes s) {off size : Nat} (hsize : size = 4 ∨ size = 8) (halign : off % size = 0)
    (hoff : off < 0x1000000) (v : W64) (w : W32) :
    exec (.registerWrite 0 off size ⟨v, w⟩) s = done s (bar0Write (off / 8 * 8) (halfOf size off) v s) := by
  have hwindow : ¬ 0x1000000 ≤ off / 8 * 8 := by omega
  show done s (barAccess _ s) = _
  rw [barAccess_of_decodes hd]
  rcases hsize with rfl | rfl <;> simp [halign, hwindow, halfOf]

theorem bar0Write_mailbox (hd : Decodes s) (hm : m < 64) {o : Nat} (ho : o < 0x400) (h : Half) (v : W64) :
    bar0Write (0x10000 + m * 0x400 + o) h v s = mailboxWrite m o h v s := by
  have hbox : (0x10000 + m * 0x400 + o - 0x10000) / 0x400 = m := by omega
  have hplace : (0x10000 + m * 0x400 + o - 0x10000) % 0x400 = o := by omega
  simp only [bar0Write, shellUp_of_decodes hd, Bool.not_true, Bool.false_eq_true, if_false, hbox, hplace]
  rw [if_neg (by omega), if_neg (by omega), if_pos (by omega)]

theorem exec_registerWrite_mailbox (hd : Decodes s) (hm : m < 64) {o size : Nat} (hsize : size = 4 ∨ size = 8)
    (halign : o % size = 0) (ho : o < 0x400) (v : W64) (w : W32) :
    exec (.registerWrite 0 (0x10000 + m * 0x400 + o) size ⟨v, w⟩) s =
      done s (mailboxWrite m (o / 8 * 8) (halfOf size o) v s) := by
  have halign' : (0x10000 + m * 0x400 + o) % size = 0 := by rcases hsize with rfl | rfl <;> omega
  have hhalf : halfOf size (0x10000 + m * 0x400 + o) = halfOf size o := by
    rw [halfOf, halfOf, show (0x10000 + m * 0x400 + o) % 8 = o % 8 by omega]
  have hreg : (0x10000 + m * 0x400 + o) / 8 * 8 = 0x10000 + m * 0x400 + o / 8 * 8 := by omega
  rw [exec_registerWrite_bar0 hd hsize halign' (by omega), hhalf, hreg, bar0Write_mailbox hd hm (by omega)]

theorem mailboxWrite_cmd (s : State) (m : Nat) (h : Half) (v : W64) : mailboxWrite m 0 h v s = mailboxCmdWrite m h v s := by
  simp [mailboxWrite]

/-- CRN_MBX_CMD is written whole. -/
theorem exec_registerWrite_cmd (hd : Decodes s) (hm : m < 64) (v : W64) (w : W32) :
    exec (.registerWrite 0 (0x10000 + m * 0x400) 8 ⟨v, w⟩) s = done s (mailboxCmdWrite m .whole v s) := by
  rw [← mailboxWrite_cmd]
  exact exec_registerWrite_mailbox hd hm (o := 0) (.inr rfl) rfl (by decide) v w

/-- The half of CRN_MBX_CMD that holds go is written. -/
theorem exec_registerWrite_cmd_high (hd : Decodes s) (hm : m < 64) (v : W64) (w : W32) :
    exec (.registerWrite 0 (0x10000 + m * 0x400 + 4) 4 ⟨v, w⟩) s = done s (mailboxCmdWrite m .high v s) := by
  rw [← mailboxWrite_cmd]
  exact exec_registerWrite_mailbox hd hm (o := 4) (.inl rfl) rfl (by decide) v w

/-! ### The register CRN_MBX_CMD after a write of the half that sets go -/

theorem halfValue_whole_go {v : W64} (h : v.getLsbD 63 = true) : (halfValue .whole v).testBit 63 = true := h

theorem halfValue_high_go {v : W64} (h : v.getLsbD 31 = true) : (halfValue .high v).testBit 63 = true := by
  have hbit : v.toNat.testBit 31 = true := h
  rw [halfValue, Nat.testBit_mul_two_pow, Nat.testBit_mod_two_pow]
  simpa using hbit

theorem cmdWritten_whole (s : State) (m : Nat) (v : W64) : cmdWritten s m .whole v = v.toNat := by
  simp [cmdWritten, mergeHalf, halfMask, halfValue]

theorem mergeHalf_high (old : Nat) (v : W64) : mergeHalf old .high v = old % 2 ^ 32 + v.toNat % 2 ^ 32 * 2 ^ 32 := by
  have hmask : 2 ^ 64 - 1 - halfMask .high = 2 ^ 32 - 1 := by decide
  have hlow : old % 2 ^ 32 < 2 ^ 32 := Nat.mod_lt _ (by decide)
  rw [mergeHalf, hmask, Nat.and_two_pow_sub_one_eq_mod, halfValue, Nat.or_comm, Nat.mul_comm, ← Nat.two_pow_add_eq_or_of_lt hlow,
    Nat.add_comm]

theorem opcode_cmdWritten_whole (s : State) (m : Nat) (v : W64) : fld (cmdWritten s m .whole v) 0 16 = v.toNat % 2 ^ 16 := by
  rw [cmdWritten_whole, fld, pow_zero, Nat.div_one]

theorem opcode_cmdWritten_high (s : State) (m : Nat) (v : W64) :
    fld (cmdWritten s m .high v) 0 16 = (s.mailbox m).opcode % 2 ^ 16 := by
  rw [cmdWritten, mergeHalf_high]
  simp only [mailboxReg, inFld, fld, if_true]
  omega

theorem seq_cmdWritten_whole (s : State) (m : Nat) (v : W64) :
    BitVec.ofNat 16 (fld (cmdWritten s m .whole v) 32 16) = v.extractLsb' 32 16 := by
  rw [cmdWritten_whole]
  apply BitVec.eq_of_toNat_eq
  simp [fld, Nat.shiftRight_eq_div_pow]

theorem seq_cmdWritten_high (s : State) (m : Nat) (v : W64) :
    BitVec.ofNat 16 (fld (cmdWritten s m .high v) 32 16) = v.extractLsb' 0 16 := by
  rw [cmdWritten, mergeHalf_high]
  apply BitVec.eq_of_toNat_eq
  simp only [fld, BitVec.toNat_ofNat, BitVec.extractLsb'_toNat, Nat.shiftRight_zero]
  omega

/-! ### What a mailbox does with a write -/

theorem payloadWrite_busy (hbusy : (s.mailbox m).state = 1) (k : Nat) (h : Half) (v : W64) :
    payloadWrite m k h v s = collided m s := if_pos hbusy

theorem mailboxWrite_payload_busy (hbusy : (s.mailbox m).state = 1) {o : Nat} (hlow : 0x20 ≤ o) (hhigh : o < 0x400)
    (h : Half) (v : W64) : mailboxWrite m o h v s = collided m s := by
  have h0 : o ≠ 0 := by omega
  have h8 : o ≠ 8 := by omega
  have h10 : o ≠ 0x10 := by omega
  simp [mailboxWrite, h0, h8, h10, hlow, hhigh, payloadWrite_busy hbusy]

/-- Go is set in a busy mailbox. -/
theorem mailboxCmdWrite_busy (hd : Decodes s) (hm : m < 64) (hbusy : (s.mailbox m).state = 1) {h : Half} {v : W64}
    (hgo : (halfValue h v).testBit 63 = true) (hop : fld (cmdWritten s m h v) 0 16 ≠ 1) :
    mailboxCmdWrite m h v s = collided m s := by
  obtain ⟨op, n, run, hcmd, -⟩ := mailboxCmdWrite_go hgo hop
  rw [hcmd, accept_busy hd hm hbusy]

/-- Go is set after a host-lost event. -/
theorem mailboxCmdWrite_hostLost (hd : Decodes s) (hm : m < 64) (hlost : s.host.hostLost = true)
    (hready : (s.mailbox m).state ≠ 1) {h : Half} {v : W64} (hgo : (halfValue h v).testBit 63 = true)
    (hop : fld (cmdWritten s m h v) 0 16 ≠ 1) :
    ∃ op n, mailboxCmdWrite m h v s =
      complete m ST.hostLost [] (accepted m op (BitVec.ofNat 16 (fld (cmdWritten s m h v) 32 16)) n s) := by
  obtain ⟨op, n, run, hcmd, hrun⟩ := mailboxCmdWrite_go hgo hop
  refine ⟨op, n, ?_⟩
  rw [hcmd, accept_ready hd hm hready, hrun]
  rw [idState_accepted, idState_of_hostLost hd hlost]

theorem exec_resetDevice (hd : Decodes s) (hm : m < 64) (seq : BitVec 16) (n : Nat) :
    exec (.resetDevice m seq n) s = done s (fullReset 2 2 s) := by
  show done s (barAccess _ s) = _
  rw [barAccess_of_decodes hd]
  simp [shellUp_of_decodes hd, hm]

theorem exec_mbxDataWrite (hd : Decodes s) (hm : m < 64) {k : Nat} (hk : k < 124) (h : Half) (v : W64) :
    exec (.mbxDataWrite m k h v) s = done s (payloadWrite m k h v s) := by
  show done s (barAccess _ s) = _
  rw [barAccess_of_decodes hd]
  simp [shellUp_of_decodes hd, hm, hk]

end Sys2Proof.Machine
end

section
/-! PROOFS. Doorbells: the tail word, the cq_head word, and the last seq of a new context (R346, R347, R358). -/

namespace Sys2Proof.Machine

open Sys2Proof

variable {s : State} {c : Nat} {x : Ctx} {v : W64}

/-! ## Where a doorbell word goes -/

theorem exec_doorbellTail (hd : Decodes s) (c : Nat) (v : W64) :
    exec (.doorbellTail c v) s = done s (ringDoorbell c v s) := by
  show done s (barAccess _ s) = _
  rw [barAccess_of_decodes hd]
  simp [bar2Write, shellUp_of_decodes hd, halfValue]

theorem exec_doorbellCqHead (hd : Decodes s) (c : Nat) (v : W64) :
    exec (.doorbellCqHead c v) s = done s (headDoorbell c v s) := by
  have hctx : (c * 16 + 8) / 16 = c := by omega
  show done s (barAccess _ s) = _
  rw [barAccess_of_decodes hd]
  simp [bar2Write, shellUp_of_decodes hd, halfValue, hctx]

theorem ringDoorbell_hostLost (hlost : s.host.hostLost = true) (c : Nat) (v : W64) : ringDoorbell c v s = s := by
  simp [ringDoorbell, hlost]

theorem headDoorbell_hostLost (hlost : s.host.hostLost = true) (c : Nat) (v : W64) : headDoorbell c v s = s := by
  simp [headDoorbell, hlost]

/-! ## The tail word (R347) -/

/-- How far a doorbell's seq lies ahead of the last one accepted, modulo 65,536. -/
def seqAhead (x : Ctx) (v : W64) : Nat := (v.toNat / 2 ^ 16 % 2 ^ 16 + 2 ^ 16 - x.lastSeq.toNat) % 2 ^ 16

theorem toNat_sub_lastSeq (x : Ctx) (v : W64) : (BitVec.ofNat 16 (v.toNat / 2 ^ 16) - x.lastSeq).toNat = seqAhead x v := by
  have hlast := x.lastSeq.isLt
  simp only [BitVec.toNat_sub, BitVec.toNat_ofNat, seqAhead]
  omega

/-- The context whose ring a doorbell has given a new tail. -/
def Ctx.rung (x : Ctx) (v : W64) : Ctx := { x with tail := v.toNat % 2 ^ 16, lastSeq := BitVec.ofNat 16 (v.toNat / 2 ^ 16) }

/-- A doorbell of a ring that takes its tail: accepted where its seq lies 1 to 32,768 ahead, else stale. -/
theorem ringDoorbell_live (hd : Decodes s) (hhost : s.host.hostLost = false) (hx : s.ctx c = some x) (hlive : x.stopped = false)
    (htail : v.toNat % 2 ^ 16 < 2 ^ x.sqLog2) :
    ringDoorbell c v s = if 1 ≤ seqAhead x v ∧ seqAhead x v ≤ 32768 then s.setCtx c (·.rung v) else s := by
  have htailField : fld v.toNat 0 16 = v.toNat % 2 ^ 16 := by simp [fld]
  have hseqField : BitVec.ofNat 16 (fld v.toNat 16 16) = BitVec.ofNat 16 (v.toNat / 2 ^ 16) := by
    apply BitVec.eq_of_toNat_eq
    simp [fld]
  simp only [ringDoorbell, hhost, noseUp_of_decodes hd, hx, hlive, htailField, hseqField, toNat_sub_lastSeq]
  rw [if_neg (by simp), if_neg (by omega)]
  by_cases hahead : 1 ≤ seqAhead x v ∧ seqAhead x v ≤ 32768
  · rw [if_pos hahead, if_neg (by simp only [Bool.false_or, Bool.or_eq_true, decide_eq_true_eq]; omega)]
    rfl
  · rw [if_neg hahead, if_pos (by simp only [Bool.false_or, Bool.or_eq_true, decide_eq_true_eq]; omega)]

/-- A doorbell that names no context, or a tail beyond its ring, is logged and rings nothing. -/
theorem ringDoorbell_stray (hd : Decodes s) (hhost : s.host.hostLost = false)
    (hstray : s.ctx c = none ∨ ∃ x, s.ctx c = some x ∧ 2 ^ x.sqLog2 ≤ v.toNat % 2 ^ 16) :
    ringDoorbell c v s = strayDoorbell c v.toNat s := by
  rcases hstray with hnone | ⟨x, hx, htail⟩
  · simp [ringDoorbell, hhost, noseUp_of_decodes hd, hnone]
  · have hring : 2 ^ x.sqLog2 ≤ fld v.toNat 0 16 := by simpa [fld] using htail
    simp [ringDoorbell, hhost, noseUp_of_decodes hd, hx, hring]

/-- DOORBELL_STRAY changes nothing but the log and the message for it; with room in the log it is the newest record. -/
theorem strayDoorbell_logged (c n : Nat) (s : State) :
    ∃ t, done s (strayDoorbell c n s) = .next t ∧ t = { s with evt := t.evt, host := t.host, run := {} } ∧
      (s.evt.unread < 960 → t.evt.unread = s.evt.unread + 1 ∧
        ∃ r, look t.evt.slots s.evt.tail = some r ∧ r.code = 0x0402 ∧ r.seq = s.evt.nextSeq) := by
  refine ⟨_, rfl, ?_, fun hroom => ?_⟩
  · rw [strayDoorbell, logEvent_frame]
  · obtain ⟨hslot, hunread⟩ := postRecord_room
      { code := 0x0402, cls := 0, seq := 0, time := s.time.now, beat := s.beat
        payload := evPayload (evAt 0 c + evAt 4 (n % 2 ^ 32)) } s (.inl hroom)
    exact ⟨hunread, _, hslot, rfl, rfl⟩

/-! ## One context changes -/

theorem setCtx_of_ctx (hx : s.ctx c = some x) (f : Ctx → Ctx) : s.setCtx c f = { s with ctxs := put s.ctxs c (f x) } := by
  have hlook : look s.ctxs c = some x := hx
  rw [State.setCtx, hlook]

theorem done_setCtx (hx : s.ctx c = some x) (f : Ctx → Ctx) :
    ∃ t, done s (s.setCtx c f) = .next t ∧ t.ctx c = some (f x) ∧ (∀ k, k ≠ c → t.ctx k = s.ctx k) ∧
      t = { s with ctxs := t.ctxs, run := {} } := by
  rw [setCtx_of_ctx hx]
  exact ⟨_, rfl, look_put_self _ _ _, fun k hk => look_put_of_ne _ _ hk, rfl⟩

/-! ## The cq_head word (R346, R351) -/

theorem mem_of_look_eq_some {α : Type} {t : Tab α} {k : Nat} {e : α} (h : look t k = some e) : (k, e) ∈ t := by
  induction t with
  | nil => exact absurd h (by simp [look])
  | cons f t ih =>
    rw [look] at h
    split_ifs at h with hk
    · obtain rfl := Option.some.inj h
      exact hk ▸ List.mem_cons_self
    · exact List.mem_cons_of_mem _ (ih h)

/-- Where no CONTEXT_DESTROY waits, none completes. -/
theorem finishDestroys_of_none (h : ∀ e ∈ s.ctxs, e.2.destroy = none) : finishDestroys s = s := by
  unfold finishDestroys
  generalize s.ctxs = l at h
  induction l with
  | nil => rfl
  | cons e l ih =>
    rw [List.foldl_cons, h e List.mem_cons_self]
    exact ih fun e he => h e (List.mem_cons_of_mem _ he)

/-- A cq_head that moves over entries of the ring frees them; no held entry takes their place. -/
theorem headDoorbell_frees (hd : Decodes s) (hhost : s.host.hostLost = false) (hx : s.ctx c = some x)
    (hhead : v.toNat % 2 ^ 16 < 2 ^ x.cqLog2) (hheld : x.held = []) (hdestroy : ∀ e ∈ s.ctxs, e.2.destroy = none)
    (hfree : (v.toNat % 2 ^ 16 + 2 ^ x.cqLog2 - x.cqHead) % 2 ^ x.cqLog2 ≤ (x.cqTail + 2 ^ x.cqLog2 - x.cqHead) % 2 ^ x.cqLog2) :
    headDoorbell c v s = s.setCtx c fun x => { x with cqHead := v.toNat % 2 ^ 16 } := by
  have hvalue : fld v.toNat 0 16 = v.toNat % 2 ^ 16 := by simp [fld]
  have hnone : ∀ e ∈ (s.setCtx c fun x => { x with cqHead := v.toNat % 2 ^ 16 }).ctxs, e.2.destroy = none := by
    rw [setCtx_of_ctx hx]
    intro e he
    rcases mem_put he with rfl | he
    · exact hdestroy (c, x) (mem_of_look_eq_some hx)
    · exact hdestroy e he
  simp only [headDoorbell, hhost, noseUp_of_decodes hd, hx, hvalue, hheld]
  rw [if_neg (by simp), if_neg (by simp only [Bool.or_eq_true, decide_eq_true_eq]; omega)]
  exact finishDestroys_of_none hnone

/-! ## The last seq of a new context (R347) -/

theorem complete_ctxs (m st : Nat) (r : List Nat) (s : State) : (complete m st r s).ctxs = s.ctxs := by
  rw [complete_frame]

/-- CONTEXT_CREATE brings one context, which has accepted no doorbell, or none. -/
theorem ctxs_cmdContextCreate (m : Nat) (s : State) : (cmdContextCreate m s).ctxs = s.ctxs ∨
    ∃ id x, (cmdContextCreate m s).ctxs = put s.ctxs id x ∧ x.lastSeq = 0 := by
  -- each of the eight checks refuses the command, or the next follows
  have hrefused (st : Nat) {P : Prop} : (complete m st [] s).ctxs = s.ctxs ∨ P := .inl (complete_ctxs m st [] s)
  unfold cmdContextCreate
  dsimp only
  iterate 8 (split; · exact hrefused _)
  exact .inr ⟨_, _, complete_ctxs _ _ _ _, rfl⟩

/-- The contexts after a command is posted are those before, or those that its body leaves. -/
theorem ctxs_submit {m op n len : Nat} {seq : BitVec 16} {body : State → State} {s t : State}
    (h : submit m op seq n len body s = .next t) : t.ctxs = s.ctxs ∨ t.ctxs = (body (accepted m op seq n s)).ctxs := by
  obtain rfl := Host.Outcome.next.inj h
  show (barAccess (accept m op seq n (guarded m len body)) s).ctxs = _ ∨
    (barAccess (accept m op seq n (guarded m len body)) s).ctxs = _
  unfold barAccess accept guarded
  dsimp only
  split_ifs
  · exact .inl rfl
  · exact .inl rfl
  · exact .inl rfl
  · exact .inl (complete_ctxs _ _ _ _)
  · exact .inl (complete_ctxs _ _ _ _)
  · exact .inl (complete_ctxs _ _ _ _)
  · exact .inr rfl
  · exact .inl rfl

theorem lastSeq_of_contextCreate {m : Nat} {seq : BitVec 16} {s t : State} {c : Nat} {x : Ctx} (hnew : s.ctx c = none)
    (h : exec (.contextCreate m seq 8) s = .next t) (hx : t.ctx c = some x) : x.lastSeq = 0 := by
  have hold : t.ctxs ≠ s.ctxs := fun hsame => by
    rw [State.ctx, hsame] at hx
    exact absurd (hnew.symm.trans hx) (by simp)
  have hbody := (ctxs_submit h).resolve_left hold
  obtain hsame | ⟨id, y, hput, hy⟩ := ctxs_cmdContextCreate m (accepted m 0x0101 seq 8 s)
  · exact absurd (hbody.trans hsame) hold
  · rw [State.ctx, hbody, hput, look_put] at hx
    split_ifs at hx
    · exact Option.some.inj hx ▸ hy
    · exact absurd (hnew.symm.trans hx) (by simp)

end Sys2Proof.Machine
end

section
/-! PROOFS. The host interface's two obligations: what is refused before it runs, and what a doorbell does. -/

namespace Sys2Proof

open Machine

/-- A command is refused before its body runs: by its length, after a host-lost event, or by a busy mailbox. -/
theorem posted_refused {c : Instr} {m n len : Nat} {seq : BitVec 16} (hc : Posted c m seq n len) (s : State) (hm : m < 64) :
    (Open s m → n ≠ len → Answers c s (fun t => Replied t m seq ST.badPayload [] ∧ OnlyHost s t)) ∧
    (Decodes s → s.host.hostLost = true → (s.mailbox m).state ≠ 1 →
      Answers c s (fun t => Replied t m seq ST.hostLost [] ∧ OnlyHost s t)) ∧
    (Decodes s → (s.mailbox m).state = 1 → Answers c s (fun t => Collides s t m)) := by
  obtain ⟨op, body, hexec⟩ := hc
  simp only [Answers, hexec]
  refine ⟨fun hopen hlen => ?_, fun hd hlost hready => ?_, fun hd hbusy => ?_⟩
  · rw [submit_ready hopen, if_pos hlen]
    exact completes_next
  · rw [submit_hostLost hd hm hlost hready]
    exact completes_next
  · rw [submit_busy hd hm hbusy]
    exact collides_of_collided s m

/-- A command whose write the mailbox ignores. -/
theorem answers_collides {c : Instr} {s : State} {m : Nat} (h : exec c s = done s (collided m s)) :
    Answers c s (fun t => Collides s t m) := by
  rw [Answers, h]
  exact collides_of_collided s m

/-- A write that sets go after a host-lost event. -/
theorem answers_hostLost_go {s : State} {m : Nat} (hd : Decodes s) (hm : m < 64) (hlost : s.host.hostLost = true)
    (hready : (s.mailbox m).state ≠ 1) {c : Instr} {h : Half} {v : W64} {seq : BitVec 16}
    (hc : exec c s = done s (mailboxCmdWrite m h v s)) (hgo : (halfValue h v).testBit 63 = true)
    (hop : fld (cmdWritten s m h v) 0 16 ≠ 1) (hseq : BitVec.ofNat 16 (fld (cmdWritten s m h v) 32 16) = seq) :
    Answers c s (fun t => Replied t m seq ST.hostLost [] ∧ OnlyHost s t) := by
  obtain ⟨op, n, hwrite⟩ := mailboxCmdWrite_hostLost hd hm hlost hready hgo hop
  rw [Answers, hc, hwrite, hseq]
  exact completes_next

theorem answers_resetDevice {s : State} {m : Nat} (hd : Decodes s) (hm : m < 64) (seq : BitVec 16) (n : Nat) :
    Answers (.resetDevice m seq n) s (fun t => t.rst.step = 2 ∧ t.rst.cause = 2 ∧ t.host.linkUp = false) :=
  ⟨_, exec_resetDevice hd hm seq n, rfl, rfl, rfl⟩

/-- Settles O14: each of the 40 commands is posted (`Posted`), and each write of a mailbox's registers reaches
`mailboxWrite`; what either finds first is a busy mailbox or the lost host. -/
theorem commandsRefusedFirst : Obligations.commands_refused_first := by
  unfold Obligations.commands_refused_first
  refine fun s m seq n hm => ⟨fun c len hc => posted_refused ?_ s hm, fun hd hbusy v w => ?_, fun hd hlost v w => ?_⟩
  · -- the meaning of each row is a `submit` of its opcode, length and body
    fin_cases hc <;> exact ⟨_, _, fun _ => rfl⟩
  · refine ⟨fun k h hk => ?_, fun size o hsize halign hlow hhigh => ?_, fun hgo hop => ?_, fun hgo hop => ?_,
      answers_resetDevice hd hm seq n⟩ <;> apply answers_collides
    · rw [exec_mbxDataWrite hd hm hk, payloadWrite_busy hbusy]
    · rw [exec_registerWrite_mailbox hd hm hsize halign hhigh, mailboxWrite_payload_busy hbusy (by omega) (by omega)]
    · rw [exec_registerWrite_cmd hd hm,
        mailboxCmdWrite_busy hd hm hbusy (halfValue_whole_go hgo) (by rwa [opcode_cmdWritten_whole])]
    · rw [exec_registerWrite_cmd_high hd hm,
        mailboxCmdWrite_busy hd hm hbusy (halfValue_high_go hgo) (by rwa [opcode_cmdWritten_high])]
  · refine ⟨fun hready hgo hop => ?_, fun hready hgo hop => ?_, answers_resetDevice hd hm seq n, fun ctx => ⟨?_, ?_⟩⟩
    · exact answers_hostLost_go hd hm hlost hready (exec_registerWrite_cmd hd hm v w) (halfValue_whole_go hgo)
        (by rwa [opcode_cmdWritten_whole]) (seq_cmdWritten_whole s m v)
    · exact answers_hostLost_go hd hm hlost hready (exec_registerWrite_cmd_high hd hm v w) (halfValue_high_go hgo)
        (by rwa [opcode_cmdWritten_high]) (seq_cmdWritten_high s m v)
    · exact ⟨_, exec_doorbellTail hd ctx v, by rw [ringDoorbell_hostLost hlost]⟩
    · exact ⟨_, exec_doorbellCqHead hd ctx v, by rw [headDoorbell_hostLost hlost]⟩

/-- Settles O17: the tail word's three outcomes are `ringDoorbell_live` and `ringDoorbell_stray`, a new context's last seq
is `lastSeq_of_contextCreate`, and cq_head is `headDoorbell_frees`. -/
theorem doorbellsRing : Obligations.doorbells_ring := by
  unfold Obligations.doorbells_ring
  refine fun s c v hd hhost => ⟨fun x hx hlive htail d hahead => ?_, fun hstray => ?_,
    fun m seq t x hnew hexec hx => lastSeq_of_contextCreate hnew hexec hx, fun x hx hhead hheld hdestroy hfree => ?_⟩
  · obtain rfl : d = seqAhead x v := hahead
    rw [Answers, exec_doorbellTail hd, ringDoorbell_live hd hhost hx hlive htail]
    split_ifs with haccept
    · obtain ⟨t, ht, hring⟩ := done_setCtx hx (·.rung v)
      exact ⟨t, ht, fun _ _ => hring, fun hstale => by omega⟩
    · exact ⟨_, rfl, fun hlow hhigh => absurd ⟨hlow, hhigh⟩ haccept, fun _ => rfl⟩
  · rw [Answers, exec_doorbellTail hd, ringDoorbell_stray hd hhost hstray]
    exact strayDoorbell_logged c v.toNat s
  · rw [Answers, exec_doorbellCqHead hd, headDoorbell_frees hd hhost hx hhead hheld hdestroy hfree]
    exact done_setCtx hx _

end Sys2Proof
end
